-- ==== Sys2Proof/Word.lean ====
section
/-! DEFINITION. The words, unit indices and sparse stores the model is written in. -/

namespace Sys2Proof

abbrev W8 := BitVec 8
abbrev W16 := BitVec 16
abbrev W32 := BitVec 32
abbrev W64 := BitVec 64
abbrev Bytes := List W8

/-- Physical core, 0–271 (R2, R20). -/
abbrev CoreIx := Fin 272
/-- Array die, 0–15 (R2, R19). -/
abbrev DieIx := Fin 16
/-- Physical attention pipeline, 0–67 (R2). -/
abbrev PipeIx := Fin 68
/-- Criley fabric port, 0–7 (R2). -/
abbrev PortIx := Fin 8
/-- Host function and tenant of the same number, 0–63 (R2, R279). -/
abbrev FnIx := Fin 64
/-- Submission or completion ring of a function, 0–15 (R283). -/
abbrev RingIx := Fin 16
/-- Control processor, CP0–CP7 (R21). -/
abbrev CpIx := Fin 8
/-- Power-stage controller, 0–11 (R2). -/
abbrev StageIx := Fin 12
/-- Power domain, 0–374 (R391). -/
abbrev DomIx := Fin 375
/-- Tile of a die, 0–4,095 (R2). -/
abbrev TileIx := Fin 4096

/-- A sparse map from a numeric key, held as pairs with strictly rising keys. -/
abbrev Store (α : Type) := List (Nat × α)

end Sys2Proof
end

