-- ==== Sys2Proof/Syntax.lean ====
section
/-! DEFINITION. The commands the block takes: one constructor per row of spec/opcode_table.json, with the row's
operands. What the spec lets the outside decide or measure (side counts, readings, frames, host bytes) is an operand. -/

namespace Sys2Proof

/-! Core instructions (R165). Every field of the encoding is an operand, the unused ones too: a non-zero value in one of
them is fault 01h. -/

/-- R format: d, a, b, guard, neg, mod. -/
structure RForm where
  d : Fin 32
  a : Fin 32
  b : Fin 32
  guard : Fin 8
  neg : Bool
  mod : Fin 8
  deriving DecidableEq, Repr

/-- I format: d, a, signed 12-bit immediate. -/
structure IForm where
  d : Fin 32
  a : Fin 32
  imm : BitVec 12
  deriving DecidableEq, Repr

/-- Long form: d, a, guard, neg, mod, signed 32-bit immediate. -/
structure LForm where
  d : Fin 32
  a : Fin 32
  guard : Fin 8
  neg : Bool
  mod : Fin 16
  imm : BitVec 32
  deriving DecidableEq, Repr

/-- The operations of classes 1h and 2h exist in the I format and in the long form. -/
inductive ImmForm where
  | short (f : IForm)
  | long (f : LForm)
  deriving DecidableEq, Repr

/-- B format: a, b, signed offset in instructions. -/
structure BForm where
  a : Fin 32
  b : Fin 32
  off : BitVec 12
  deriving DecidableEq, Repr

/-- Clock islands (table of the chapter "Device architecture"). -/
inductive Island where
  | core (k : CoreIx)
  | pipe (p : PipeIx)
  | noc (q : Fin 4)
  | cps
  | hbm (s : Fin 4)
  | port (d : DieIx)
  | die (d : DieIx)
  | pcie
  | criley (p : PortIx)
  | power
  | lantern
  | lamplighter
  deriving DecidableEq, Repr

/-- Units with a quantiser of their own (R56). -/
inductive RngUnit where
  | core (k : CoreIx)
  | pipe (p : PipeIx)
  deriving DecidableEq, Repr

/-- What the serving firmware says of the work it dispatches: model, generation and layer of the layer program, and
the contexts whose requests the work serves (R133, R177). -/
structure KernelJob where
  model : W16
  gen : W16
  layer : W16
  ctxs : List W32
  deriving DecidableEq, Repr

/-- A layer of a generation (R135). -/
structure LayerKey where
  model : W16
  gen : W16
  layer : W16
  deriving DecidableEq, Repr

/-- The operator's two policy programs (R137, R273). -/
inductive PolicyKind where
  | recipe
  | admission
  deriving DecidableEq, Repr

/-- Combination an event hold is kept for (R139): code, model and layer, the last two 0 where the code's payload names
none. -/
structure HoldKey where
  code : W16
  model : W16
  layer : W16
  deriving DecidableEq, Repr

/-- Where a register read goes: an offset in its window, and whether the access has 64 bits (R15). -/
structure ReadAt where
  off : Nat
  wide : Bool
  deriving DecidableEq, Repr

/-! Array dies. -/

/-- A tile-plane (unit kind 1h). -/
structure PlaneId where
  die : DieIx
  tile : TileIx
  plane : Fin 200
  deriving DecidableEq, Repr

/-- A tile of a die. -/
structure TileId where
  die : DieIx
  tile : TileIx
  deriving DecidableEq, Repr

/-- A defect list entry (R109). -/
structure Defect where
  row : Nat
  pair : Nat
  side : Bool
  stuckOn : Bool
  source : Nat
  deriving DecidableEq, Repr

/-- The 1,040 side counts a tile's converters latched for the pass that ran on it: P and N of pairs 0–519 (R67), each
0–4,095. -/
structure PassMeas where
  tile : TileIx
  cntP : List Nat
  cntN : List Nat
  /-- Pilot cells the pass shows to be stuck; a self-check enters them (R109). -/
  stuck : List Defect
  deriving DecidableEq, Repr

/-- What a defect scan finds: the defects of its pair, and whether the tile's row drivers or converters have failed (R89). -/
structure ScanFound where
  defects : List Defect
  tileFailed : Bool
  deriving DecidableEq, Repr

/-- What a step of program and verify gives (R118): the step that ends; step 4 whether every cell verified, the row drivers or converters that failed
with it (R89), and the new defects; step 5 ref0 of the column groups; step 6 each in-use position's group errors in units of 0.05 %,
and whether the recording shows no column miss (R108). -/
structure VerifyResult where
  step : Fin 8
  ok : Bool
  tileFailed : Bool
  defects : List Defect
  ref0 : List Int
  bases : List (Fin 4 × List Int)
  noMiss : Bool
  deriving DecidableEq, Repr

/-! Serving, models and host. -/

/-- A page: 0 own page of a context, 1 cross page of a context, 2 page of a prefix; layer and page index. -/
structure PageKey where
  own : Fin 3
  id : Nat
  layer : W16
  index : Fin 16384
  deriving DecidableEq, Repr

/-- How a page fetch from the parking area ends (R206): the bytes read, or a failed DMA. -/
inductive FetchResult where
  | data (bytes : Bytes)
  | dmaFailed
  deriving DecidableEq, Repr

/-- A work item a pipeline finished (R181, R196): the call, the stage (0 absorb, 1 score and sum, 3 expand), its rows, heads
and slice, and for absorb and expand the up-projection it read: a tensor of the generation's layer graph and its row at which the
first head's matrix begins. The spec does not say which tensor holds which head's matrix (log entry 184). Absorb and expand take every
row of the layer step. -/
structure AttItemIn where
  core : CoreIx
  ticket : W32
  stage : Fin 4
  row0 : Nat
  rows : Nat
  head0 : Nat
  heads : Nat
  slice : Nat
  tensor : Nat
  row : Nat
  deriving DecidableEq, Repr

/-- A merge on a lead pipeline: the next slice of the rows and heads named (R185, R198). -/
structure AttMergeIn where
  core : CoreIx
  ticket : W32
  row0 : Nat
  rows : Nat
  head0 : Nat
  heads : Nat
  slice : Nat
  deriving DecidableEq, Repr

/-- Who sent a model command: a host function's submission entry, a management session's command, or a peer. -/
inductive Origin where
  | host (fn : FnIx) (sq : RingIx) (entry : Bytes)
  | mgmt (sid : Nat) (id : W32)
  | peer (member : Fin 64)
  deriving DecidableEq, Repr

/-- A segment a plan entry moves: its handle and index in the handle's list, and the target plane and position. -/
structure PlanSeg where
  handle : Nat
  seg : Nat
  plane : Nat
  pos : Fin 4
  deriving DecidableEq, Repr

/-- A plan entry (R238–R241): its kind (1 hint, 2 thermal, 3 replica, 4 swap-in, 5 separation, 6 replica removal, 7 swap-out),
the model generation, layer and expert, the handle it concerns (for a replica the handle copied, for a removal the handle
removed), and the segments it programs with their targets. -/
structure PlanEntry where
  kind : Fin 8
  handle : Nat
  segs : List PlanSeg
  model : W16
  gen : W16
  layer : W16
  expert : W16
  deriving DecidableEq, Repr

/-- Logits of one row of the sailing: the context, the verify node (0 otherwise) and the FP32 codes over the vocabulary. -/
structure RowOut where
  ctx : Nat
  node : Nat
  z : List W32
  deriving DecidableEq, Repr

/-- Logits of a request's draft steps: after the pending token, then branch-major for the nodes but the last of each. -/
structure DraftOut where
  ctx : Nat
  z : List (List W32)
  deriving DecidableEq, Repr

/-- RMS of one row of a layer's output (R335), FP32. -/
structure RmsOut where
  key : LayerKey
  ctx : Nat
  rms : W32
  deriving DecidableEq, Repr

/-- Tokens of the sailing that begins, bound for one expert of a layer (R323, R324): context, slot and input vector of
each. -/
structure FerryReq where
  key : LayerKey
  expert : W16
  format : Nat
  d : Nat
  tokens : List (Nat × Nat × Bytes)
  deriving DecidableEq, Repr

/-- What a sailing yields at its end (R250): its duration, logits, layer RMS values, each generation's share of the measured
work in µs, requests whose data was lost (with MEMORY_FAULT or PEER_LOST), expert assignments, µs of work served
to peers, and the tokens that the sailing it composes sends to experts. -/
structure SailingMeas where
  us : Nat
  rows : List RowOut
  drafts : List DraftOut
  rms : List RmsOut
  shares : List (W16 × W16 × Nat)
  lost : List (Nat × W16)
  experts : List (LayerKey × Nat × Nat)
  servedUs : Nat
  ferries : List FerryReq
  deriving DecidableEq, Repr

/-- An uncorrectable memory error (R338): the memory in the table's order, the unit, the address, and what the access named:
the page, the plane's record, or the contexts whose work needed the data; for the golden store, whether a healthy
analogue copy of the segment exists. -/
structure MemError where
  memory : Fin 9
  unit : W32
  addr : W64
  page : Option PageKey
  plane : Option PlaneId
  ctxs : List Nat
  copyHealthy : Bool
  deriving DecidableEq, Repr

/-- A fabric frame (R308): its 32-byte header, its payload and its CRC. The command of a whole message carries the header of
the fragment that completed it and the joined body. -/
structure Frame where
  hdr : Bytes
  payload : Bytes
  crc : W32
  deriving DecidableEq, Repr

/-- What the expert work of a ferry yields at its destination (R326): the output vectors, and whether it ended with a compute
fault that recovery did not clear. -/
structure FerryOut where
  bytes : Bytes
  computeFault : Bool
  deriving DecidableEq, Repr

/-! Power, start-up and the analogue monitor. -/

/-- READ items 0–4 of a stage (R388): input power in 10 mW, input voltage in 10 mV, input current in mA, output voltage in
mV, output current in 10 mA. -/
structure StageMeas where
  power : Nat
  vin : Nat
  iin : Nat
  vout : Nat
  iout : Nat
  deriving DecidableEq, Repr

/-- What the power processor reads from the twelve stages in a window. -/
structure WindowMeas where
  stages : List StageMeas
  deriving DecidableEq, Repr

/-- Oscillator counts of the 360 sensors with each one's trim counts at 25 °C and 95 °C (R416), and the reports of the four
HBM stacks in 0.25 °C, none from a stack that stopped reporting. -/
structure SweepMeas where
  counts : List (Nat × Nat × Nat)
  hbm : List (Option Int)
  deriving DecidableEq, Repr

/-- What a conversion holds at the end of sampling (R407): input and reference in µV; whether the external reference stayed in
range. -/
structure ConvMeas where
  vin : Int
  vref : Nat
  extOk : Bool
  deriving DecidableEq, Repr

/-- ADC registers that a write configures. -/
inductive AdcReg where
  | ctl
  | chcfg (n : Fin 24)
  | win (n : Fin 24)
  | list (n : Fin 16)
  | loop (n : Fin 64)
  deriving DecidableEq, Repr

/-- What a start-up step finds (R428): its duration in ms, whether it overran; for step 2 whether each slot verifies (0) or why
not (reason of A009h) and whether the flash can be read; for step 4 whether the configuration reads; for step 6 the HBM stacks
that failed twice; for step 7 the links that failed twice; for step 10 the handles and segment indices whose records no copy can supply, and the generations whose section records are lost. -/
structure StartMeas where
  ms : Nat
  overran : Bool
  slotA : Nat
  slotB : Nat
  flashOk : Bool
  dflt : List W16
  cfgOk : Bool
  hbmFailed : List (Fin 4)
  linkFailed : List DieIx
  lost : List (Nat × Nat)
  lostGens : List (W16 × W16)
  deriving DecidableEq, Repr

/-- A management command record (R363): its session (none for a factory command over SMBus), the sequence of the record, whether
its tag verifies, the command ID, and whether every reserved byte of header, command and arguments is 0. -/
structure MgmtCmd where
  sid : Option Nat
  seq : W64
  tagOk : Bool
  id : W32
  clean : Bool
  deriving DecidableEq, Repr

/-- Transport of an SPDM request (R358). -/
inductive SpdmVia where
  | doe
  | smbus
  deriving DecidableEq, Repr


/-- The commands, one constructor per row of the table. -/
inductive Instr where
  | regWrite (fn : FnIx) (bar2 : Bool) (off : Nat) (wide : Bool) (v : W64)
  | regReadLowHalf (fn : FnIx) (bar2 : Bool) (off : ReadAt)
  | clkcorrSample
  | clkcorrSampleDone (unc : W16)
  | islandFreqChange (isl : Island) (units : Nat)
  | islandWakeOnRequest (isl : Island)
  | rngReseed (u : RngUnit)
  | add (k : CoreIx) (f : RForm)
  | sub (k : CoreIx) (f : RForm)
  | mul (k : CoreIx) (f : RForm)
  | mulhu (k : CoreIx) (f : RForm)
  | andr (k : CoreIx) (f : RForm)
  | orr (k : CoreIx) (f : RForm)
  | xorr (k : CoreIx) (f : RForm)
  | shl (k : CoreIx) (f : RForm)
  | shr (k : CoreIx) (f : RForm)
  | sra (k : CoreIx) (f : RForm)
  | slt (k : CoreIx) (f : RForm)
  | sltu (k : CoreIx) (f : RForm)
  | minr (k : CoreIx) (f : RForm)
  | maxr (k : CoreIx) (f : RForm)
  | addi (k : CoreIx) (f : ImmForm)
  | subi (k : CoreIx) (f : ImmForm)
  | muli (k : CoreIx) (f : ImmForm)
  | mulhui (k : CoreIx) (f : ImmForm)
  | andi (k : CoreIx) (f : ImmForm)
  | ori (k : CoreIx) (f : ImmForm)
  | xori (k : CoreIx) (f : ImmForm)
  | shli (k : CoreIx) (f : ImmForm)
  | shri (k : CoreIx) (f : ImmForm)
  | srai (k : CoreIx) (f : ImmForm)
  | slti (k : CoreIx) (f : ImmForm)
  | sltui (k : CoreIx) (f : ImmForm)
  | mini (k : CoreIx) (f : ImmForm)
  | maxi (k : CoreIx) (f : ImmForm)
  | ld8u (k : CoreIx) (f : ImmForm)
  | ld16u (k : CoreIx) (f : ImmForm)
  | ld32u (k : CoreIx) (f : ImmForm)
  | ld64 (k : CoreIx) (f : ImmForm)
  | st8 (k : CoreIx) (f : ImmForm)
  | st16 (k : CoreIx) (f : ImmForm)
  | st32 (k : CoreIx) (f : ImmForm)
  | st64 (k : CoreIx) (f : ImmForm)
  | csrr (k : CoreIx) (f : ImmForm)
  | csrw (k : CoreIx) (f : ImmForm)
  | beq (k : CoreIx) (f : BForm)
  | bne (k : CoreIx) (f : BForm)
  | blt (k : CoreIx) (f : BForm)
  | bge (k : CoreIx) (f : BForm)
  | bltu (k : CoreIx) (f : BForm)
  | bgeu (k : CoreIx) (f : BForm)
  | bp (k : CoreIx) (f : BForm)
  | jr (k : CoreIx) (f : BForm)
  | jal (k : CoreIx) (f : LForm)
  | vadd (k : CoreIx) (f : RForm)
  | vsub (k : CoreIx) (f : RForm)
  | vmul (k : CoreIx) (f : RForm)
  | vfma (k : CoreIx) (f : RForm)
  | vmax (k : CoreIx) (f : RForm)
  | vmin (k : CoreIx) (f : RForm)
  | vclt (k : CoreIx) (f : RForm)
  | vceq (k : CoreIx) (f : RForm)
  | vcvt (k : CoreIx) (f : RForm)
  | vexp (k : CoreIx) (f : RForm)
  | vrsqrt (k : CoreIx) (f : RForm)
  | vbcast (k : CoreIx) (f : RForm)
  | vsel (k : CoreIx) (f : RForm)
  | vperm (k : CoreIx) (f : RForm)
  | vld (k : CoreIx) (f : IForm)
  | vst (k : CoreIx) (f : IForm)
  | mma (k : CoreIx) (f : RForm)
  | mmt (k : CoreIx) (f : RForm)
  | azero (k : CoreIx) (f : RForm)
  | ast (k : CoreIx) (f : RForm)
  | ald (k : CoreIx) (f : RForm)
  | qgrp (k : CoreIx) (f : RForm)
  | qfp4 (k : CoreIx) (f : RForm)
  | rsum (k : CoreIx) (f : RForm)
  | rsumsq (k : CoreIx) (f : RForm)
  | rmv (k : CoreIx) (f : RForm)
  | rabs (k : CoreIx) (f : RForm)
  | rclr (k : CoreIx) (f : RForm)
  | rmerge (k : CoreIx) (f : RForm)
  | rget (k : CoreIx) (f : RForm)
  | rput (k : CoreIx) (f : RForm)
  | send (k : CoreIx) (f : RForm)
  | sendnb (k : CoreIx) (f : RForm)
  | recv (k : CoreIx) (f : RForm)
  | recvnb (k : CoreIx) (f : RForm)
  | mfree (k : CoreIx) (f : RForm)
  | chcfg (k : CoreIx) (f : RForm)
  | messageArrive (k : CoreIx) (ch : Fin 16)
  | creditReturn (k : CoreIx) (ch : Fin 16)
  | dmaq (k : CoreIx) (f : RForm)
  | dwait (k : CoreIx) (f : RForm)
  | dcnt (k : CoreIx) (f : RForm)
  | dmaDescriptorStart (k : CoreIx) (q : Fin 4)
  | dmaDescriptorComplete (k : CoreIx) (q : Fin 4)
  | acall (k : CoreIx) (f : RForm)
  | await (k : CoreIx) (f : RForm)
  | atest (k : CoreIx) (f : RForm)
  | pand (k : CoreIx) (f : RForm)
  | por (k : CoreIx) (f : RForm)
  | pxor (k : CoreIx) (f : RForm)
  | pnot (k : CoreIx) (f : RForm)
  | pset (k : CoreIx) (f : RForm)
  | pget (k : CoreIx) (f : RForm)
  | nop (k : CoreIx) (f : RForm)
  | fence (k : CoreIx) (f : RForm)
  | halt (k : CoreIx) (f : RForm)
  | trap (k : CoreIx) (f : RForm)
  | rdcyc (k : CoreIx) (f : RForm)
  | stallWatchdog (k : CoreIx)
  | kernelDispatch (k : CoreIx) (tenant : FnIx) (entry : BitVec 22) (argBlock : W32) (base : BitVec 22) (code : Bytes) (job : KernelJob)
  | debugHalt (k : CoreIx)
  | debugResume (k : CoreIx)
  | debugStep (k : CoreIx)
  | dbgDataAccess (k : CoreIx) (wr : Bool) (v : W64)
  | arrayCallAccept (k : CoreIx) (ticket : W32)
  | trafficQueueRoom (d : DieIx)
  | trafficStallTimeout (d : DieIx)
  | outlierStageWaitTimeout (k : CoreIx) (ticket : W32)
  | dieSlot (d : DieIx)
  | passResult (d : DieIx) (m : PassMeas)
  | dieTotalsSend (d : DieIx) (buf : Nat)
  | outlierPartial (k : CoreIx) (ticket : W32) (slab : Nat)
  | arrayCallComplete (k : CoreIx) (ticket : W32)
  | shareRecompute
  | converterLockLoss (d : DieIx)
  | converterLockReturn (d : DieIx) (us : W32)
  | lockLossTimeout (d : DieIx)
  | replacementHoldTimeout (k : CoreIx) (ticket : W32) (seg : Nat) (us : W32)
  | tilQuery (unit : W32)
  | nullPassDue (d : DieIx) (tile : TileIx) (plane : Fin 160)
  | candleCheckDue (tp : PlaneId)
  | candleCheckResult (t : TileId) (plane : Fin 200)
  | candleOverdue (tp : PlaneId) (hours : W32)
  | defectScanComplete (tp : PlaneId) (pair : Nat) (found : ScanFound)
  | flagPoll
  | corrRecordCopy (d : DieIx)
  | shadowRetry (tp : PlaneId)
  | programVerifyComplete (tp : PlaneId) (r : VerifyResult)
  | refreshStepComplete (tp : PlaneId)
  | storeScrubDue (tp : PlaneId) (codeword : Nat) (corrections : Nat) (readable : Bool) (copyHealthy : Bool)
  | swapTokenAccrue (seconds : Nat)
  | recipeSwitch (l : LayerKey) (idx : Nat)
  | recipeCurrent (l : LayerKey)
  | recipeList (l : LayerKey)
  | report (code : W8) (payload : W64)
  | hookInvoke (p : PolicyKind) (adm : Bool)
  | hookAbort (p : PolicyKind)
  | numHoldEnd (key : HoldKey)
  | policyReenable
  | admitReenable
  | attCall (k : CoreIx)
  | attWait (k : CoreIx)
  | attItemComplete (p : PipeIx) (m : AttItemIn)
  | attMerge (p : PipeIx) (m : AttMergeIn)
  | attCallComplete (k : CoreIx) (ticket : W32)
  | pageMoveComplete (pg : PageKey)
  | pageFetchComplete (pg : PageKey) (r : FetchResult)
  | loadModel (o : Origin) (rec : Bytes)
  | activate (o : Origin) (model : W16) (gen : W16)
  | retire (o : Origin) (model : W16) (gen : W16) (force : Bool)
  | unload (o : Origin) (model : W16) (keepGolden : Bool) (force : Bool)
  | cancelLoad (o : Origin) (model : W16)
  | hint (o : Origin) (rec : Bytes)
  | shardReceive (model : W16) (index : Nat) (frame : Bytes)
  | shardFetchTimeout (model : W16) (index : Nat)
  | blockDecode (model : W16)
  | dtabWaitTimeout (model : W16) (table : W16) (us : W32)
  | dtabInstall (model : W16) (table : W16)
  | dryPassComplete (model : W16)
  | drainLimitExpire (model : W16) (gen : W16)
  | epochBoundary
  | planComputed (plan : List PlanEntry) (checked : Bool)
  | migrationComplete (index : Nat)
  | plcGenQuery (v : W32)
  | plcAttQuery (v : W32)
  | request (fn : FnIx) (sq : RingIx) (entry : Bytes) (input : Bytes)
  | cancelEntry (fn : FnIx) (sq : RingIx) (entry : Bytes)
  | sailingEnd (m : SailingMeas)
  | sailingOverrun (us : W32)
  | setClassCap (cls : Nat) (share : Nat)
  | admitReport (code : W8) (payload : W64)
  | deadlineSummary
  | srvCtxQuery (v : W32)
  | sqTailDoorbell (fn : FnIx) (n : RingIx) (v : W32)
  | cqHeadDoorbell (fn : FnIx) (n : RingIx) (v : W32)
  | evtDoorbell (fn : FnIx) (v : W32)
  | sqEnable (fn : FnIx) (n : RingIx) (v : W32)
  | sqDisable (fn : FnIx) (n : RingIx) (v : W32)
  | cqEnable (fn : FnIx) (n : RingIx) (v : W32)
  | cqDisable (fn : FnIx) (n : RingIx) (v : W32)
  | evtWindowEnable (fn : FnIx) (v : W32)
  | cqAggTimeout (fn : FnIx) (n : RingIx)
  | flrVf (fn : FnIx)
  | flrPf
  | perstNAssert
  | d3hotEnter (fn : FnIx)
  | d3hotExit (fn : FnIx)
  | linkRetrain (rate : Nat) (width : Nat) (flit : Bool)
  | configRequest (fn : FnIx) (wr : Bool) (off : Nat) (v : W32)
  | getVersion (via : SpdmVia) (msg : Bytes)
  | getCapabilities (via : SpdmVia) (msg : Bytes)
  | negotiateAlgorithms (via : SpdmVia) (msg : Bytes)
  | getDigests (via : SpdmVia) (msg : Bytes)
  | getCertificate (via : SpdmVia) (msg : Bytes)
  | challenge (via : SpdmVia) (msg : Bytes)
  | getMeasurements (via : SpdmVia) (msg : Bytes)
  | ackAndCredit (p : PortIx) (f : Frame)
  | heartbeat (p : PortIx) (f : Frame)
  | heartbeatEcho (p : PortIx) (f : Frame) (now : W64)
  | nak (p : PortIx) (f : Frame)
  | frameReceive (p : PortIx) (f : Frame)
  | heartbeatSend (p : PortIx) (now : W64)
  | heartbeatTimeout (p : PortIx)
  | resendTimeout (p : PortIx)
  | ackTimer (p : PortIx)
  | pcsLockLoss (p : PortIx)
  | fecErrorRate (p : PortIx) (uncorr : Nat)
  | portTrained (p : PortIx)
  | trainingRetry (p : PortIx)
  | spareReturn (p : PortIx)
  | joinRec (p : PortIx) (f : Frame)
  | joinSend (p : PortIx)
  | linkStateAnnouncement (p : PortIx) (f : Frame)
  | lsaSend
  | statisticsGossip (p : PortIx) (f : Frame)
  | planComputeStart
  | epochPlan (p : PortIx) (f : Frame)
  | generationState (p : PortIx) (f : Frame)
  | loadStatus (p : PortIx) (f : Frame)
  | managementRelay (p : PortIx) (f : Frame)
  | contextMigration (p : PortIx) (f : Frame)
  | completionRelay (p : PortIx) (f : Frame)
  | ferryDispatch (p : PortIx) (f : Frame) (out : FerryOut)
  | ferryReturn (p : PortIx) (f : Frame)
  | ferryTimeout (ferry : Nat)
  | shard (p : PortIx) (f : Frame)
  | shardRequest (p : PortIx) (f : Frame)
  | crossCheckDue (a : W32) (b : W32)
  | crossCheckResult (d1 : W32) (d2 : W32) (third : Option W32)
  | arbitrationResult (d3 : W32)
  | arbitrationTimeout
  | cpSelfTest (cp : CpIx) (ok : Bool)
  | cpWatchdog (cp : CpIx)
  | cpRestart (cp : CpIx)
  | unitTestComplete (unit : W32) (ok : Bool)
  | memoryUncorrectable (e : MemError)
  | hbmPatrolScrub (hot : Bool) (corrected : List (W32 × Nat))
  | ledgerCheckpoint
  | ledgerHourEnd
  | goalEstimate
  | mgtUnitQuery (unit : W32)
  | xchkRunNow
  | clientHello (conn : Nat) (via : Option (Fin 64)) (payload : Bytes)
  | clientFinish (sid : Nat) (payload : Bytes)
  | dataRec (sid : Nat) (seq : W64) (tagOk : Bool) (id : W32) (off : W64) (bytes : Bytes)
  | closeRec (sid : Nat) (seq : W64) (tagOk : Bool)
  | keepAlive (sid : Nat) (seq : W64) (tagOk : Bool)
  | sessionIdleTimeout (sid : Nat)
  | sessionRekey (sid : Nat)
  | lockoutEnd
  | mgmtRead (mc : MgmtCmd) (off : Nat) (len : Nat)
  | mgmtWrite (mc : MgmtCmd) (off : Nat) (width : Nat) (v : W64)
  | readLog (mc : MgmtCmd) (first : Nat) (count : Nat)
  | modelCommand (mc : MgmtCmd) (sub : Nat) (payload : Bytes)
  | cancelRequest (mc : MgmtCmd) (fn : Nat) (tag : W32)
  | writeVariant (mc : MgmtCmd) (variant : W16) (entry : Bytes)
  | readVariant (mc : MgmtCmd) (variant : W16)
  | migrate (mc : MgmtCmd) (ctx : W32) (target : Nat)
  | loadPolicyProgram (mc : MgmtCmd) (kind : Nat) (len : Nat)
  | unloadPolicyProgram (mc : MgmtCmd) (kind : Nat)
  | reconfigure (mc : MgmtCmd) (len : Nat) (writeOk : Bool)
  | standby (mc : MgmtCmd) (force : Bool)
  | wakeCmd (mc : MgmtCmd) (dom : Nat)
  | firmwareBegin (mc : MgmtCmd) (hdr : Bytes)
  | firmwareData (mc : MgmtCmd) (off : Nat) (bytes : Bytes)
  | firmwareEnd (mc : MgmtCmd) (plain : List Bytes)
  | activateFirmware (mc : MgmtCmd)
  | abortUpdate (mc : MgmtCmd)
  | loadWatchProgram (mc : MgmtCmd) (n : Nat) (words : List W16)
  | stopWatchProgram (mc : MgmtCmd)
  | startWatchProgram (mc : MgmtCmd)
  | debugOpen (mc : MgmtCmd) (level : Nat) (scope : List W32) (auth : Bytes)
  | debugClose (mc : MgmtCmd) (dbg : W32)
  | planeReadback (mc : MgmtCmd) (dbg : W32) (unit : W32) (pos : Nat) (cells : Bytes)
  | assignTenant (mc : MgmtCmd) (slot : Nat) (source : Nat) (blob : Bytes)
  | releaseTenant (mc : MgmtCmd) (slot : Nat)
  | scrubStepComplete (slot : FnIx)
  | readAudit (mc : MgmtCmd) (first : Nat) (count : Nat)
  | acknowledgeAudit (mc : MgmtCmd) (seq : W64)
  | addKey (mc : MgmtCmd) (idx : Nat) (role : Nat) (key : Bytes) (label : Bytes)
  | removeKey (mc : MgmtCmd) (idx : Nat)
  | changeRole (mc : MgmtCmd) (idx : Nat) (role : Nat)
  | readEnrolment (mc : MgmtCmd)
  | requestNonce (mc : MgmtCmd) (action : W8)
  | lifecycle (mc : MgmtCmd) (target : Nat) (auth : Bytes)
  | spdm (mc : MgmtCmd) (msg : Bytes)
  | readCertificate (mc : MgmtCmd) (which : Nat)
  | provision (cert : Bytes)
  | secMboxWrite (v : W64)
  | secSlotQuery (v : W32)
  | debugAttachedClear
  | capacityEval
  | counterPublish
  | ping (st : StageIx)
  | setV (st : StageIx) (mv : W16)
  | enable (st : StageIx) (mv : W16)
  | disable (st : StageIx)
  | wickRead (st : StageIx) (item : W16)
  | setIlim (st : StageIx) (lim : W16)
  | clearFault (st : StageIx)
  | wickTimeout (st : StageIx) (cmd : Nat) (cause : Nat)
  | faultyStagePing (st : StageIx) (ok : Bool)
  | stageAlert (status : List W16)
  | phaseFailure (st : StageIx) (phase : Fin 8)
  | windowEnd (m : WindowMeas)
  | thermalLimitEval (fast : Bool)
  | domainIdleTimeout (dom : DomIx) (tgt : Nat)
  | domainWake (dom : DomIx) (source : Nat)
  | wakeStepComplete (dom : DomIx) (ready : Fin 4)
  | wakeStepTimeout (dom : DomIx)
  | vinBelow38v (v : W16)
  | vinUvlo (v : W16)
  | vstbyLoss (v : W16)
  | vinHigh (v : W16)
  | vinRecover (v : W16)
  | wakeNAssert
  | smbusAddressMatch (addr : BitVec 7)
  | alertResponseRead
  | tripRestart
  | thmTripClear
  | pwrDomainQuery (v : W32)
  | thmSensorQuery (v : W32)
  | sensorSweep (m : SweepMeas)
  | conversionComplete (m : ConvMeas)
  | listPeriod
  | loopDelayExpire
  | adcListTrigger
  | adcConfigChange (reg : AdcReg) (v : W64)
  | adcUrgent (v : W32)
  | extRefTimeout
  | adcSelfCheck (codes : List W16)
  | tachUpdate (pulses : Nat)
  | progCtlStart
  | progCtlStop
  | watchAdd (d : Fin 8) (a : Fin 8) (b : Fin 8)
  | watchSub (d : Fin 8) (a : Fin 8) (b : Fin 8)
  | watchAnd (d : Fin 8) (a : Fin 8) (b : Fin 8)
  | watchOr (d : Fin 8) (a : Fin 8) (b : Fin 8)
  | watchXor (d : Fin 8) (a : Fin 8) (b : Fin 8)
  | watchShl (d : Fin 8) (a : Fin 8) (b : Fin 8)
  | watchShr (d : Fin 8) (a : Fin 8) (b : Fin 8)
  | watchSra (d : Fin 8) (a : Fin 8) (b : Fin 8)
  | watchAddi (d : Fin 8) (a : Fin 8) (imm : BitVec 6)
  | watchLdi (d : Fin 8) (imm : BitVec 9)
  | watchLui (d : Fin 8) (z : BitVec 2) (imm : BitVec 7)
  | watchLd (d : Fin 8) (a : Fin 8) (imm : BitVec 6)
  | watchSt (d : Fin 8) (a : Fin 8) (imm : BitVec 6)
  | watchB (off : BitVec 9)
  | watchBZ (off : BitVec 9)
  | watchBNz (off : BitVec 9)
  | watchBN (off : BitVec 9)
  | watchBNn (off : BitVec 9)
  | watchBC (off : BitVec 9)
  | watchBNc (off : BitVec 9)
  | watchCall (off : BitVec 9)
  | watchJr (a : Fin 8) (z : BitVec 9)
  | watchWait (mask : BitVec 12)
  | watchWaitReturn (src : BitVec 6)
  | watchConv (d : Fin 8) (a : Fin 8) (z : BitVec 6)
  | watchNote (a : Fin 8) (b : Fin 8) (z : BitVec 2)
  | watchWake (a : Fin 8) (b : Fin 8) (z : BitVec 2)
  | limdn (a : Fin 8) (b : Fin 8) (z : BitVec 2)
  | limup (a : Fin 8) (b : Fin 8) (z : BitVec 2)
  | watchTrip (a : Fin 8) (b : Fin 8) (z : BitVec 2)
  | stby (a : Fin 8) (b : Fin 8) (z : BitVec 2)
  | pwm (a : Fin 8) (b : Fin 8) (z : BitVec 2)
  | tmr (a : Fin 8) (b : Fin 8) (z : BitVec 2)
  | actList (a : Fin 8) (b : Fin 8) (z : BitVec 2)
  | watchTimer
  | watchWatchdog
  | vstbyRise
  | startStepComplete (m : StartMeas)
  | firmwareHandover (pauseUs : W32)
  | componentConfirm (c : Nat) (ms : W32)
  | confirmTimeout (c : Nat) (broken : Bool)
  | clockIslandIdle (i : Island)
  | domainEntryStepComplete (dom : DomIx)
  | digitalEntryProduct (k : CoreIx) (ticket : W32) (seg : Nat)
  | hostReadFailed (fn : FnIx) (sq : RingIx) (target : Nat) (result : Nat) (addr : W64) (entry : Bytes)
  | perstNDeassert
  | aerErrorLogged (uncorr : Bool) (status : W32) (hdr : W32)
  | msixVectorUnmask (fn : FnIx) (vec : Fin 64)
  | imageHeaderReceive (model : W16) (hdr : Bytes) (sect : Bytes)
  | referenceReady (ext : Bool)
  | mgtPhyResetRelease
  deriving DecidableEq, Repr

end Sys2Proof
end

