-- ==== Sys2Proof/Config.lean ====
section
/-! DEFINITION. The free values: constants without a body, one for each value the spec leaves open.
Nothing in Lean can evaluate them, so a claim about the model holds whatever they are. Log entry 4. -/

namespace Sys2Proof

/-- The n-th free value of w bits. `Dev.freeCtr` counts the values already taken (log entry 4). -/
opaque Config.freeBits (n : Nat) (w : Nat) : BitVec w

/-- What a register of a core holds after a dispatch that leaves it undefined (R179): the dispatch's number, then
the register file and index. -/
opaque Config.freeReg (epoch file idx : Nat) (w : Nat) : BitVec w

/-- Integer lane result outside the lane's format: operation, type code, exact result (log entry 12). -/
opaque Config.intOverflow (op ty : Nat) (exact : Int) : BitVec 32

/-- Lane results the spec does not state: operation, type code, the operand lanes' bits (log entry 12). -/
opaque Config.freeLane (op ty : Nat) (x y : Nat) : BitVec 32

/-- Which neighbour exp (0) or rsqrt (1) returns for an input of a type: any result within 1 ulp is allowed (R166). -/
opaque Config.ulpChoice (fn ty : Nat) (x : Nat) : Nat

/-- Whether the i-th value rounded with free value n, which lies between two steps of its field, takes the upper one: the
spec names the field's step and no rounding (log entry 16). -/
opaque Config.roundUp (n i : Nat) : Bool

/-- Scalar shift by 64 or more: operation 0 shl, 1 shr, 2 sra (log entry 12). -/
opaque Config.wideShift (op : Nat) (a b : BitVec 64) : BitVec 64

/-- The n-th draw of quantiser generators: 16 bits, unreadable and unseedable by software (R56). -/
opaque Config.draw16 (n : Nat) : BitVec 16

/-- The n-th choice the spec leaves to the device among equally good candidates: a frame, an identifier, a plane (log
entry 20). -/
opaque Config.pick (n : Nat) : Nat

/-- log p of a token over a row's FP32 logits (R266 names the logarithm and no arithmetic for it; log entry 33). -/
opaque Config.logP (z : List Nat) (t : Nat) : W32

/-- length^len_penalty of a finished hypothesis in FP32 (R266; log entry 33). -/
opaque Config.lenPow (length : Nat) (penalty : W32) : W32

/-- The 16-bit CRC of a golden record's payload (R114 states no polynomial; log entry 171). -/
opaque Config.crc16 (bytes : Bytes) : BitVec 16

/-! Cryptography: the algorithms of the spec are named in it and not defined by it (log entry 21). -/

/-- A page as it stands in the parking area: tenant, frame, plaintext (SM4-XTS, R206); decryption is its inverse. -/
opaque Config.parkCipher (tenant frame : Nat) : Equiv.Perm Bytes

/-- SM3 of a string, as bytes. -/
opaque Config.sm3 (bytes : Bytes) : Bytes

/-- SM2 signature by one of the device's keys: 0 device identity, 1 attestation; the seed, the firmware digest, the message
digest, and the number of the random value it takes. -/
opaque Config.sm2Sign (key : Nat) (seed fw digest : Bytes) (n : Nat) : Bytes

/-- An SM2 signature verifies: 0 a Skelren key over a digest, 1 the firmware-signing chain of an image header. -/
opaque Config.sm2Verify (key : Nat) (msg sig : Bytes) : Bool

/-- The certificate (DER) of a device key: 0 device identity chain, 1 attestation, 2 key-import, 3 firmware-distribution;
the installed Skelren certificate, the seed, the firmware digest. -/
opaque Config.certDer (which : Nat) (cert seed fw : Bytes) : Bytes

/-- The n-th draw of the Lantern's DRBG, as bytes. -/
opaque Config.drbg (n : Nat) : Bytes

/-- SM2 key exchange (R359): item 0 the confirmation S_A, 1 the confirmation S_B, 2 the session keys and salts; the
operator's public key, the payloads of both hellos, the seed, the count of renewals. -/
opaque Config.kexOut (item : Nat) (peer hello answer seed : Bytes) (rekeys : Nat) : Bytes

/-- Where the list of members that hold an expert's copies begins under the cross-module plan: a function of the expert and of the
statistics, so equal inputs give equal plans (R318; the algorithm's choice of members is not stated). -/
opaque Config.planOffset (key : Nat) (stats : List (Nat × Bytes)) : Nat

/-- A point lies on the curve. -/
opaque Config.pointOk (point : Bytes) : Bool

/-- SM2 decryption of a wrapped tenant key under the key-import key (R366). -/
opaque Config.unwrapKey (seed wrapped : Bytes) : Option Bytes

/-- SM4-GCM record of a session: keys, sequence, plaintext (R359). -/
opaque Config.sealRec (keys : Bytes) (seq : Nat) (plain : Bytes) : Bytes

/-- The action code of a Skelren authorisation: 0 entry to Returned, 1 debug level 3, 2 clearing the enrolment table (R355,
R361; the codes stand in no file of the spec). -/
opaque Config.actionCode (what : Nat) : Nat

/-- Offset of the SR-IOV capability in the PF's configuration space, and the vendor ID assigned to Skelren (R276, R278; neither
number stands in the spec). -/
opaque Config.sriovCap : Nat
opaque Config.vendorId : BitVec 16

end Sys2Proof
end

