-- ==== Sys2Proof/Machine/Bits.lean ====
section
/-! DEFINITION. Bit fields, byte order (R17: little-endian), saturation, sparse stores and cyclic codes. -/

namespace Sys2Proof.Machine

/-- Bits [lo + w − 1 : lo] of a number. -/
def bits (x lo w : Nat) : Nat := (x >>> lo) % 2 ^ w

/-- Bit lo of a number. -/
def bitAt (x lo : Nat) : Bool := x.testBit lo

def b2n (b : Bool) : Nat := if b then 1 else 0

/-- The low w bits of a number read as two's complement. -/
def signed (x w : Nat) : Int :=
  let y := x % 2 ^ w
  if y < 2 ^ (w - 1) then (y : Int) else (y : Int) - (2 ^ w : Nat)

/-- An integer as a w-bit two's-complement pattern. -/
def wrap (w : Nat) (x : Int) : Nat := (x % (2 ^ w : Nat)).toNat

/-- A counter of w bits that stops at its maximum. -/
def satAdd (w a b : Nat) : Nat := min (a + b) (2 ^ w - 1)

def clampNat (lo hi x : Nat) : Nat := max lo (min hi x)

def clampInt (lo hi x : Int) : Int := max lo (min hi x)

def ceilDiv (a b : Nat) : Nat := (a + b - 1) / b

/-- n bytes of a number, least significant first (R17). -/
def toLe : Nat → Nat → Bytes
  | 0, _ => []
  | n + 1, x => BitVec.ofNat 8 x :: toLe n (x / 256)

/-- A little-endian byte string as a number (R17). -/
def ofLe : Bytes → Nat
  | [] => 0
  | b :: r => b.toNat + 256 * ofLe r

/-- A big-endian byte string as a number. -/
def ofBe (bs : Bytes) : Nat := ofLe bs.reverse

/-- Bytes off to off + n − 1 of a string as a little-endian number; bytes past the end read 0. -/
def fld (bs : Bytes) (off n : Nat) : Nat := ofLe ((bs.drop off).take n)

/-- True when every byte from off to off + n − 1 is 0. -/
def zeros (bs : Bytes) (off n : Nat) : Bool := ((bs.drop off).take n).all (· == 0)

/-- A string cut or zero-padded to n bytes. -/
def padTo (n : Nat) (bs : Bytes) : Bytes := (bs ++ List.replicate (n - bs.length) 0).take n

/-- Fields (byte offset, width in bytes, value) laid into one number, little-endian. -/
def lay (fs : List (Nat × Nat × Nat)) : Nat :=
  fs.foldl (fun acc f => acc + (f.2.2 % 256 ^ f.2.1) * 256 ^ f.1) 0

/-- Event payload from fields at byte offsets 16–31 of the record (R7). -/
def pay (fs : List (Nat × Nat × Nat)) : BitVec 128 :=
  BitVec.ofNat 128 (lay (fs.map fun f => (f.1 - 16, f.2)))

/-! Sparse stores. -/

/-- The value at a key, d where nothing is listed. -/
def sGet {α : Type} (d : α) : Store α → Nat → α
  | [], _ => d
  | (k, v) :: r, q => if k = q then v else sGet d r q

/-- The entry at a key. -/
def sFind {α : Type} : Store α → Nat → Option α
  | [], _ => none
  | (k, v) :: r, q => if k = q then some v else sFind r q

/-- List v at a key. -/
def sSet {α : Type} : Store α → Nat → α → Store α
  | [], q, w => [(q, w)]
  | (k, v) :: r, q, w => if q < k then (q, w) :: (k, v) :: r else if k = q then (q, w) :: r else (k, v) :: sSet r q w

/-- Drop the entry at a key. -/
def sDel {α : Type} (m : Store α) (q : Nat) : Store α := m.filter fun e => decide (e.1 ≠ q)

/-- Write a key of a store in which an unlisted key reads d: writing d removes the entry. -/
def sPut {α : Type} [DecidableEq α] (d : α) (m : Store α) (q : Nat) (w : α) : Store α :=
  if w = d then sDel m q else sSet m q w

/-- Change every listed value; a value that becomes what an unlisted key reads as is dropped. -/
def sMap {α : Type} [DecidableEq α] (d : α) (f : Nat → α → α) (m : Store α) : Store α :=
  (m.map fun e => (e.1, f e.1 e.2)).filter fun e => decide (e.2 ≠ d)

/-- The canonical form: keys strictly rise, and no entry equals what an unlisted key reads as. -/
def sWf {α : Type} [DecidableEq α] (d : α) : Store α → Bool
  | [] => true
  | (k, v) :: r => (v != d) && (r.all fun e => decide (k < e.1)) && sWf d r

/-- The canonical form of a memory of bytes: a byte that nothing has written reads 0 (log entry 5). -/
abbrev Memory.wf (m : List (Nat × W8)) : Prop := sWf 0 m = true

/-- Write consecutive bytes from an address. -/
def putBytes (m : List (Nat × W8)) (a : Nat) : Bytes → List (Nat × W8)
  | [] => m
  | b :: r => putBytes (sPut 0 m a b) (a + 1) r

/-- n consecutive bytes from an address. -/
def getBytes (m : List (Nat × W8)) (a : Nat) : Nat → Bytes
  | 0 => []
  | n + 1 => sGet 0 m a :: getBytes m (a + 1) n

/-! Cyclic codes. -/

/-- One byte into a reflected cyclic code of w bits. -/
def crcByteRefl (poly crc : Nat) (b : W8) : Nat :=
  (List.range 8).foldl (fun c _ => if c % 2 = 1 then (c / 2) ^^^ poly else c / 2) (crc ^^^ b.toNat)

/-- One byte into an unreflected cyclic code of w bits. -/
def crcByte (w poly crc : Nat) (b : W8) : Nat :=
  (List.range 8).foldl
    (fun c _ => if c ≥ 2 ^ (w - 1) then ((c * 2) % 2 ^ w) ^^^ poly else (c * 2) % 2 ^ w) (crc ^^^ (b.toNat <<< (w - 8)))

/-! Square root of a natural number, rounded down, by bits. -/

/-- Candidate root refined from bit n downwards. -/
def isqrtFrom (x : Nat) : Nat → Nat → Nat
  | 0, r => r
  | n + 1, r => if (r + 2 ^ n) * (r + 2 ^ n) ≤ x then isqrtFrom x n (r + 2 ^ n) else isqrtFrom x n r

def isqrt (x : Nat) : Nat := isqrtFrom x (x.log2 / 2 + 1) 0

end Sys2Proof.Machine
end

