-- ==== Sys2Proof/Machine/Float.lean ====
section
/-! DEFINITION. Number formats (R35–R42), conversions and rounding (R41, R54, R55, R459) and FP32 arithmetic (R151). -/

namespace Sys2Proof.Machine

/-- A decoded float: NaN, an infinity, or ± m × 2^e. -/
inductive FVal where
  | nan
  | inf (neg : Bool)
  | fin (neg : Bool) (m : Nat) (e : Int)
  deriving DecidableEq, Repr

/-- A float format: exponent and mantissa widths, bias, code of the largest finite magnitude, codes of infinity and
NaN (inf = 0: the format has none, R37). -/
structure Fmt where
  ew : Nat
  mw : Nat
  bias : Nat
  maxFin : Nat
  inf : Nat
  nan : Nat
  deriving DecidableEq, Repr

def fp32 : Fmt := ⟨8, 23, 127, 0x7F7FFFFF, 0x7F800000, 0x7FC00000⟩
def bf16 : Fmt := ⟨8, 7, 127, 0x7F7F, 0x7F80, 0x7FC0⟩
def fp16 : Fmt := ⟨5, 10, 15, 0x7BFF, 0x7C00, 0x7E00⟩
def e5m2 : Fmt := ⟨5, 2, 15, 0x7B, 0x7C, 0x7E⟩
/-- R37: no infinity; 7Fh is the only NaN magnitude. -/
def e4m3 : Fmt := ⟨4, 3, 7, 0x7E, 0, 0x7F⟩

/-- Width of a format in bits. -/
def fmtWidth (f : Fmt) : Nat := 1 + f.ew + f.mw

/-- Value of a code (R36–R40: subnormals kept). -/
def fdec (f : Fmt) (x : Nat) : FVal :=
  let mag := x % 2 ^ (f.ew + f.mw)
  let neg := bitAt x (f.ew + f.mw)
  let ex := mag >>> f.mw
  let m := mag % 2 ^ f.mw
  if mag > f.maxFin then
    (if f.inf ≠ 0 ∧ mag = f.inf then .inf neg else .nan)
  else if ex = 0 then .fin neg m (1 - (f.bias : Int) - f.mw)
  else .fin neg (m + 2 ^ f.mw) ((ex : Int) - f.bias - f.mw)

/-- Rounding in force (R41, R55): nearest even, or stochastic with a 16-bit draw. -/
inductive Rnd where
  | rne
  | sto (u : Nat)
  deriving DecidableEq, Repr

/-- num / den rounded to an integer. Stochastic: up when u < ⌊φ × 65,536⌋ (R55). -/
def roundQ (r : Rnd) (num den : Nat) : Nat :=
  let q := num / den
  let rem := num % den
  match r with
  | .rne => if 2 * rem > den ∨ (2 * rem = den ∧ q % 2 = 1) then q + 1 else q
  | .sto u => if u < rem * 65536 / den then q + 1 else q

/-- Magnitude code of num / den in a format continued above its largest value (R459). -/
def magCode (f : Fmt) (r : Rnd) (num den : Nat) : Nat :=
  if num = 0 then 0 else
    let qmin : Int := 1 - (f.bias : Int) - f.mw
    let e0 : Int := (num.log2 : Int) - den.log2
    -- exponent of the leading bit: e0 or e0 − 1
    let ge : Bool := if e0 ≥ 0 then decide (num ≥ den <<< e0.toNat) else decide (num <<< (-e0).toNat ≥ den)
    let e : Int := if ge then e0 else e0 - 1
    let q : Int := max (e - f.mw) qmin
    let n := if q ≥ 0 then roundQ r num (den <<< q.toNat) else roundQ r (num <<< (-q).toNat) den
    (q - qmin).toNat * 2 ^ f.mw + n

/-- A conversion's code, and 1 when R459 counts the value as beyond the largest. -/
structure Enc where
  code : Nat
  ovf : Bool
  deriving DecidableEq, Repr

/-- Sign bit of a format. -/
def signBit (f : Fmt) (neg : Bool) : Nat := if neg then 2 ^ (f.ew + f.mw) else 0

/-- Encode ± num / den (R41, R459): E4M3 saturates and counts; the others go to infinity. -/
def encFrac (f : Fmt) (r : Rnd) (neg : Bool) (num den : Nat) : Enc :=
  let c := magCode f r num den
  if c > f.maxFin then
    (if f.inf = 0 then ⟨f.maxFin + signBit f neg, true⟩ else ⟨f.inf + signBit f neg, true⟩)
  else ⟨c + signBit f neg, false⟩

/-- Encode a decoded value (R41): NaN is positive and quiet; E4M3 turns infinity into NaN. -/
def enc (f : Fmt) (r : Rnd) : FVal → Enc
  | .nan => ⟨f.nan, false⟩
  | .inf n => if f.inf = 0 then ⟨f.nan, false⟩ else ⟨f.inf + signBit f n, false⟩
  | .fin n m e => if e ≥ 0 then encFrac f r n (m <<< e.toNat) 1 else encFrac f r n m (1 <<< (-e).toNat)

def cvt (src dst : Fmt) (r : Rnd) (x : Nat) : Enc := enc dst r (fdec src x)

def fIsNan : FVal → Bool
  | .nan => true
  | _ => false

def fIsFin : FVal → Bool
  | .fin _ _ _ => true
  | _ => false

/-- Signed mantissa. -/
def sgn (neg : Bool) (m : Nat) : Int := if neg then -(m : Int) else m

/-- Sum, exact before rounding (R151). A zero sum of opposite signs is +0 (R145). -/
def faddV : FVal → FVal → FVal
  | .nan, _ | _, .nan => .nan
  | .inf a, .inf b => if a = b then .inf a else .nan
  | .inf a, .fin _ _ _ => .inf a
  | .fin _ _ _, .inf b => .inf b
  | .fin n1 m1 e1, .fin n2 m2 e2 =>
    let e := min e1 e2
    let s := sgn n1 m1 * (2 ^ (e1 - e).toNat : Nat) + sgn n2 m2 * (2 ^ (e2 - e).toNat : Nat)
    if s = 0 then .fin (n1 && n2) 0 e else .fin (decide (s < 0)) s.natAbs e

def fnegV : FVal → FVal
  | .nan => .nan
  | .inf n => .inf (!n)
  | .fin n m e => .fin (!n) m e

/-- Product, exact before rounding (R151): infinity × 0 is NaN. -/
def fmulV : FVal → FVal → FVal
  | .nan, _ | _, .nan => .nan
  | .inf a, .inf b => .inf (a != b)
  | .inf a, .fin n m _ => if m = 0 then .nan else .inf (a != n)
  | .fin n m _, .inf b => if m = 0 then .nan else .inf (n != b)
  | .fin n1 m1 e1, .fin n2 m2 e2 => .fin (n1 != n2) (m1 * m2) (e1 + e2)

/-- a < b on decoded values; false with a NaN. -/
def fltV : FVal → FVal → Bool
  | .nan, _ | _, .nan => false
  | .inf a, .inf b => a && !b
  | .inf a, .fin _ _ _ => a
  | .fin _ _ _, .inf b => !b
  | .fin n1 m1 e1, .fin n2 m2 e2 =>
    let e := min e1 e2
    decide (sgn n1 m1 * (2 ^ (e1 - e).toNat : Nat) < sgn n2 m2 * (2 ^ (e2 - e).toNat : Nat))

def feqV (a b : FVal) : Bool := !fIsNan a && !fIsNan b && !fltV a b && !fltV b a

/-- Maximum, NaN with a NaN operand (R151). -/
def fmaxV (a b : FVal) : FVal := if fIsNan a || fIsNan b then .nan else if fltV a b then b else a

def fminV (a b : FVal) : FVal := if fIsNan a || fIsNan b then .nan else if fltV b a then b else a

/-- Round an exact value into a format under RNE. -/
def rnd (f : Fmt) (v : FVal) : Nat := (enc f .rne v).code

def addF (f : Fmt) (a b : Nat) : Nat := rnd f (faddV (fdec f a) (fdec f b))
def mulF (f : Fmt) (a b : Nat) : Nat := rnd f (fmulV (fdec f a) (fdec f b))
def add32 (a b : Nat) : Nat := addF fp32 a b
def mul32 (a b : Nat) : Nat := mulF fp32 a b
def neg32 (a : Nat) : Nat := a ^^^ 0x80000000
def sub32 (a b : Nat) : Nat := add32 a (if fIsNan (fdec fp32 b) then b else neg32 b)

/-- Exact magnitude of a finite value as a fraction. -/
def magFrac (m : Nat) (e : Int) : Nat × Nat := if e ≥ 0 then (m <<< e.toNat, 1) else (m, 1 <<< (-e).toNat)

/-- FP32 quotient, rounded once. The operands the reductions divide are finite with a non-zero divisor; the other
cases follow binary32 (R151). -/
def div32 (a b : Nat) : Nat :=
  match fdec fp32 a, fdec fp32 b with
  | .nan, _ | _, .nan => fp32.nan
  | .inf _, .inf _ => fp32.nan
  | .inf n, .fin k _ _ => fp32.inf + signBit fp32 (n != k)
  | .fin n _ _, .inf k => signBit fp32 (n != k)
  | .fin n m e, .fin k p g =>
    if p = 0 then (if m = 0 then fp32.nan else fp32.inf + signBit fp32 (n != k)) else
      let x := magFrac m e
      let y := magFrac p g
      (encFrac fp32 .rne (n != k) (x.1 * y.2) (x.2 * y.1)).code

/-- An unsigned integer in FP32. -/
def nat32 (n : Nat) : Nat := (encFrac fp32 .rne false n 1).code

/-- An integer in a format. -/
def intF (f : Fmt) (x : Int) : Nat := (encFrac f .rne (decide (x < 0)) x.natAbs 1).code

/-- FP32 square root, rounded to nearest: the root of m × 2^e with 64 spare bits and a sticky bit (R151). -/
def sqrt32 (a : Nat) : Nat :=
  match fdec fp32 a with
  | .nan => fp32.nan
  | .inf n => if n then fp32.nan else fp32.inf
  | .fin n m e =>
    if m = 0 then signBit fp32 n else if n then fp32.nan else
      let e2 := if e % 2 = 0 then e else e - 1
      let m2 := if e % 2 = 0 then m else 2 * m
      let x := m2 * 2 ^ 128
      let r := isqrt x
      let s := if r * r = x then 2 * r else 2 * r + 1
      (enc fp32 .rne (.fin false s (e2 / 2 - 65))).code

/-! Functions known within 1 ulp (R166): the code at or below the exact value, then a free choice. -/

/-- exp of a non-negative fraction num / den < 2^8 as a multiple of 2^−320, truncated: a Taylor sum at x / 2^12 and
twelve squarings. -/
def expFix (num den : Nat) : Nat :=
  let one := 2 ^ 320
  let y := num * one / (den * 2 ^ 12)
  let t := (List.range 48).foldl (fun (p : Nat × Nat) i => let u := p.2 * y / one / (i + 1); (p.1 + u, u)) (one, one)
  (List.range 12).foldl (fun v _ => v * v / one) t.1

/-- Largest magnitude code of a format not above num / den. -/
def floorCode (f : Fmt) (num den : Nat) : Nat := magCode f (.sto 65535) num den

/-- Pick a code within 1 ulp of an exact value whose floor code is c. -/
def ulpPick (f : Fmt) (exact : Bool) (c choice : Nat) : Nat :=
  let k := if exact then c + choice % 3 - 1 else c + choice % 2
  min k (if f.inf = 0 then f.maxFin else f.inf)

/-- exp in a format (R166); the special values are those of the exact function. -/
def expF (f : Fmt) (ty x : Nat) : Nat :=
  match fdec f x with
  | .nan => f.nan
  | .inf n => if n then 0 else f.inf
  | .fin n m e =>
    let ch := (Config.ulpChoice 0 ty x).succ - 1
    if m = 0 then ulpPick f true (magCode f .rne 1 1) ch else
      let q := magFrac m e
      if q.1 ≥ 200 * q.2 then (if n then ulpPick f false 0 ch else f.inf) else
        let v := expFix q.1 q.2
        ulpPick f false (if n then floorCode f (2 ^ 320) v else floorCode f v (2 ^ 320)) ch

/-- 1 / sqrt in a format (R166). -/
def rsqrtF (f : Fmt) (ty x : Nat) : Nat :=
  match fdec f x with
  | .nan => f.nan
  | .inf n => if n then f.nan else 0
  | .fin n m e =>
    if m = 0 then f.inf + signBit f n else if n then f.nan else
      let q := magFrac m e
      -- floor of sqrt(den / num) × 2^200
      let y := q.2 * 2 ^ 400 / q.1
      let r := isqrt y
      let exact := decide (r * r * q.1 = q.2 * 2 ^ 400)
      ulpPick f (exact && decide (magCode f .rne r (2 ^ 200) = floorCode f r (2 ^ 200))) (floorCode f r (2 ^ 200))
        (Config.ulpChoice 1 ty x)

/-! INT4, FP4, ternary (R35, R36, R42). -/

/-- An INT4 code's value; 1000b is invalid and used as 0 (R35). -/
def int4Val (c : Nat) : Int := if c % 16 = 8 then 0 else signed c 4

/-- An FP4 code's value doubled (R148). -/
def fp4Val2 (c : Nat) : Int :=
  let m : Int := match c % 8 with
    | 0 => 0 | 1 => 1 | 2 => 2 | 3 => 3 | 4 => 4 | 5 => 6 | 6 => 8 | _ => 12
  if bitAt c 3 then -m else m

/-- A ternary code's value; 10b is invalid and used as 0 (R42). -/
def ternVal (c : Nat) : Int := match c % 4 with
  | 1 => 1 | 3 => -1 | _ => 0

/-- A scale code is valid when 00h–7Eh (R38). 7Fh lies outside the valid codes and outside the codes R38 names
invalid; the model takes it as invalid (log entry 13). -/
def scaleOk (c : Nat) : Bool := decide (c ≤ 0x7E)

/-- Smallest E4M3 code whose value is at least num / den (R47, R53). -/
def ceilScale (num den : Nat) : Nat :=
  let c := floorCode e4m3 num den
  match fdec e4m3 c with
  | .fin _ m e => let q := magFrac m e; if q.1 * den ≥ num * q.2 then c else c + 1
  | _ => c

end Sys2Proof.Machine
end

