-- ==== Sys2Proof/Machine/State.lean ====
section
/-! DEFINITION. The state: everything the spec gives the block, as plain data, and the machine after reset. -/

namespace Sys2Proof.Machine

/-- Why a step stops. -/
inductive Fault where
  /-- Raised by nothing in this model: every command has an effect. Safe. -/
  | none
  deriving DecidableEq, Repr

/-- Why a step is refused. -/
inductive Refusal where
  /-- Raised by exec for a command without a meaning: its mnemonic. Safe. -/
  | notModelled (mnemonic : String)
  deriving DecidableEq, Repr

/-! ## Event log and time (R7–R9, R15, R31) -/

/-- An event record (R7); the stamp is the Lamplighter counter when the record entered the log. -/
structure EventRec where
  code : W16
  sev : W8
  tenant : W8
  unit : W32
  stamp : W64
  payload : BitVec 128
  deriving DecidableEq, Repr

/-- Time sources, correlation sample and 64-bit read latches. -/
structure TimeSt where
  /-- Lamplighter 64-bit microsecond counter (R8). -/
  stampUs : W64 := 0
  /-- Control-processor island time in ns since that island last left Off (R31). -/
  cpNs : W64 := 0
  /-- MGT_CLKCORR_CTL.busy. -/
  busy : Bool := false
  /-- MGT_CLKCORR_CTL.valid. -/
  valid : Bool := false
  /-- MGT_CLKCORR_STAMP. -/
  corrStamp : W64 := 0
  /-- MGT_CLKCORR_CPTIME. -/
  corrCp : W64 := 0
  /-- MGT_CLKCORR_UNC. -/
  corrUnc : W16 := 0
  /-- High halves latched by 32-bit reads of a low half (R15), by window and offset. -/
  latches : Store W32 := []
  deriving DecidableEq, Repr

/-- The device log: the last 65,536 records, oldest first, and MGT_LOG_WCNT (R303). -/
structure LogSt where
  recs : List EventRec := []
  count : W64 := 0
  /-- The log is ready; until then events are queued and stamped on arrival (R443). -/
  ready : Bool := false
  queued : List EventRec := []
  deriving DecidableEq, Repr

/-- What the block sends out, in order. -/
inductive Output where
  /-- A posted write into host memory with the function's requester ID (R280, R294). -/
  | hostWrite (fn : Nat) (addr : W64) (bytes : Bytes)
  /-- An MSI-X message (R297). -/
  | msix (fn vec : Nat)
  /-- The completion of a register read (R281, R15). -/
  | readData (v : W64)
  /-- The completion of a configuration request. -/
  | cfgData (v : W32)
  /-- Request Retry Status, and an Unsupported Request (R276, R452). -/
  | cfgRetry
  | cfgUr
  /-- A management response record: session, command code and ID, status, final, data (R363). -/
  | mgmt (sid code : Nat) (id : W32) (status : W16) (final : Bool) (data : Bytes)
  /-- A handshake record of the management protocol (R359). -/
  | hello (conn : Nat) (bytes : Bytes)
  /-- An SPDM response: transport, bytes (R358). -/
  | spdm (via : Nat) (bytes : Bytes)
  /-- A frame handed to a fabric port's serialiser (R308). -/
  | frame (port : Nat) (kind vl : Nat) (seq : Nat) (bytes : Bytes)
  /-- A Wick command word sent to a power stage (R385). -/
  | wick (stage cmd value : Nat)
  /-- A response on the SMBus (R395, R450). -/
  | smbus (bytes : Bytes)
  /-- A request to the host for image bytes, a parked page or an input buffer (R280). -/
  | hostRead (fn : Nat) (addr : W64) (len : Nat)
  /-- A value returned to a policy program's call (R136, R137). -/
  | policyResult (v : Nat) (data : Bytes)
  deriving DecidableEq, Repr

/-! ## Cores (chapter "Core grid and programming model") -/

/-- A reduction context: n, A, B (R153–R157). -/
structure RedCtx where
  n : W64 := 0
  a : W32 := 0
  b : W32 := 0
  deriving DecidableEq, Repr

/-- A message channel: its descriptor, and the messages received and not freed (R170). -/
structure ChanSt where
  peer : W16 := 0xFFFF
  peerCh : W8 := 0
  slotLog2 : W8 := 0
  slots : W8 := 0
  enable : Bool := false
  ring : W32 := 0
  /-- Sends this side may make now, and the side that granted them: physical core × 16 + channel + 1, 0 for none. -/
  credits : W16 := 0
  grantor : Nat := 0
  /-- Unread messages discarded on disable, saturating. -/
  dropped : W32 := 0
  /-- Ring slot of the oldest message not freed. -/
  head : Nat := 0
  /-- Lengths of the messages received and not freed, oldest first. -/
  lens : List Nat := []
  /-- Credits the peer returned that have not arrived yet. -/
  returning : Nat := 0
  /-- A recv has returned the oldest message: it is no longer unread (R170). -/
  headRead : Bool := false
  deriving DecidableEq, Repr

/-- A queued DMA descriptor and the address of the dma instruction that queued it (R176, R177). -/
structure DmaEnt where
  pc : BitVec 22
  desc : Bytes
  deriving DecidableEq, Repr

/-- A DMA queue: descriptors in order, how many of them have started, and the completion count. -/
structure DmaQ where
  ents : List DmaEnt := []
  started : Nat := 0
  count : W64 := 0
  deriving DecidableEq, Repr

/-- An array call or attention call a core has outstanding: its ticket and its descriptor as the call unit read it. -/
structure CoreCall where
  ticket : W32
  desc : Bytes
  deriving DecidableEq, Repr

/-- A trace record: core cycle, pc and kind (R178). -/
structure TraceRec where
  cycle : W64
  pc : BitVec 22
  /-- 0 taken branch, 1 send, 2 recv, 3 acall issue, 4 call completion, 5 DMA completion, 6 fault, 7 clock change. -/
  kind : Nat
  deriving DecidableEq, Repr

/-- Counts and flags of one operation that reads scales or writes a narrower format (R38, R41, R53). -/
structure OpStat where
  saturated : Nat := 0
  zeroed : Nat := 0
  badScales : Nat := 0
  scaleOverflow : Bool := false
  nonFinite : Bool := false
  deriving DecidableEq, Repr

/-- One physical core. -/
structure CoreSt where
  /-- s0–s31. -/
  s : Store W64 := []
  /-- v0–v15. -/
  v : Store (BitVec 1024) := []
  /-- a0–a3: element (i, j) of accumulator n at key 1,024 n + 32 i + j. -/
  acc : Store W32 := []
  /-- Tiles that the matrix instruction in progress on an accumulator reads, by accumulator: address and length (R168). -/
  mma : Store (List (Nat × Nat)) := []
  /-- The last such operation of the core. -/
  op : OpStat := {}
  /-- p0–p7. -/
  p : Store W32 := []
  /-- c0–c3. -/
  ctx : Store RedCtx := []
  /-- Number of the dispatch that left the unwritten registers undefined (R179); 0 since reset. -/
  epoch : Nat := 0
  pc : BitVec 22 := 0
  /-- Runtime area and kernel SRAM. -/
  sram : List Host.Cell := []
  ch : Store ChanSt := []
  dma : Store DmaQ := []
  /-- Array-call slots in use, oldest first. -/
  calls : List CoreCall := []
  nextTicket : W32 := 0
  /-- The attention call of the core's serving runtime (R200). -/
  attCall : List CoreCall := []
  attTicket : W32 := 0
  /-- COR_STATUS.state: 0 runtime, 1 kernel running, 2 halted by debug, 3 faulted. -/
  state : BitVec 2 := 0
  /-- State to return to when a debug halt ends. -/
  resumeTo : BitVec 2 := 0
  stalled : Bool := false
  cause : BitVec 3 := 0
  /-- COR_CLK.req, actual and changing. -/
  req : BitVec 7 := 60
  actual : BitVec 7 := 0
  changing : Bool := false
  /-- A change of the frequency in force is under way: the core stalls (R164). -/
  relock : Bool := false
  tenant : BitVec 6 := 0
  infMade : Bool := false
  nanMade : Bool := false
  empty : Bool := false
  infCount : BitVec 12 := 0
  nanCount : BitVec 12 := 0
  /-- COR_CYCLE at the stamp cycFrom. -/
  cycBase : W64 := 0
  cycFrom : W64 := 0
  faultPc : BitVec 22 := 0
  faultAddr : BitVec 22 := 0
  faultCode : W8 := 0
  faultValid : Bool := false
  /-- COR_WATCHDOG.ms. -/
  wd : BitVec 10 := 20
  traceEn : Bool := false
  /-- COR_DBG_CTL.attached. -/
  attached : Bool := false
  /-- COR_BRK0–3 and COR_WP0–1. -/
  brk : Store W32 := []
  wp : Store W32 := []
  /-- The next instruction runs in spite of a breakpoint on it: set by resume and step. -/
  brkSkip : Bool := false
  /-- A single step is under way: the core halts again after one instruction. -/
  stepping : Bool := false
  trace : List TraceRec := []
  job : Option KernelJob := none
  /-- COR_DBG_SEL (R371). -/
  dbgSel : W32 := 0
  deriving DecidableEq, Repr

/-- A message between injection and arrival (R170, R171): destination core and channel fixed at injection (R161). -/
structure Msg where
  src : Nat
  dst : Nat
  ch : Nat
  bytes : Bytes
  deriving DecidableEq, Repr

/-- A kernel dispatch to a core that is held to a wake of its domain (R29). -/
structure HeldDispatch where
  core : Nat
  tenant : Nat
  entry : BitVec 22
  arg : W32
  base : Nat
  code : List (BitVec 8)
  job : KernelJob
  deriving DecidableEq, Repr

/-- The core grid. -/
structure GridSt where
  cores : Store CoreSt := []
  /-- COR_MAP: physical core of a logical one where it differs from R160's; 272 marks a position without a core. -/
  map : Store Nat := []
  net : List Msg := []
  /-- Dispatches held until their cores run again, in order (R29). -/
  held : List HeldDispatch := []
  /-- Contexts whose requests a kernel fault ends, and the fault code (R177). -/
  faulted : List (Nat × Nat) := []
  /-- Contexts whose work had an array or attention call refused since the last sailing end, with the code (R173, R200). -/
  refused : List (Nat × W16) := []
  /-- Calls that ended faulted since the last sailing end: core, dispatch, descriptor (R342). -/
  faultCalls : List (Nat × Nat × Bytes) := []
  /-- Kernels dispatched to each core in the sailing in progress (R337, R344). -/
  ran : List (Nat × KernelJob) := []
  deriving DecidableEq, Repr

/-! ## Recipes, tallies and NUM events (chapter "Outlier path and precision control") -/

/-- A layer tally of the current sailing (R133); every field saturates at its width. -/
structure Tally where
  elements : Nat := 0
  saturated : Nat := 0
  zeroed : Nat := 0
  dynTaken : Nat := 0
  overflow : Nat := 0
  residualSat : Nat := 0
  underflow : Nat := 0
  scaleOvf : Nat := 0
  nonFinite : Nat := 0
  invalid : Nat := 0
  deriving DecidableEq, Repr

/-- A recipe record (16 bytes). -/
structure Recipe where
  k : W8 := 0
  rounding : W8 := 0
  dynSlots : W8 := 0
  exec : W8 := 0
  next : W8 := 0xFF
  satLimit : W16 := 0
  zeroedLimit : W16 := 0
  rmsLo : W16 := 0
  rmsHi : W16 := 0
  persist : W8 := 1
  deriving DecidableEq, Repr

/-- A hold of one second on an event combination (R139). -/
structure NumHold where
  sev : W8
  tenant : W8
  unit : W32
  /-- Payload of the last occurrence held, with its count fields summed. -/
  payload : BitVec 128
  /-- Occurrences held. -/
  held : Nat
  deriving DecidableEq, Repr

/-- A recipe switch accepted and not yet in force (R136). -/
structure SwitchReq where
  idx : W8
  /-- 0 policy program, 1 default policy. -/
  source : Nat
  /-- Waits for digital entries: epochs still allowed. -/
  waitEpochs : Option Nat
  deriving DecidableEq, Repr

/-- A quantiser's generator (R56): the seed of its last seeding and the draws since. -/
structure RngSt where
  seed : BitVec 128 := 0
  draws : Nat := 0
  deriving DecidableEq, Repr

/-- A hook call queued for a policy program (R137). -/
structure HookCall where
  /-- 0 on_layer_flags, 1 on_epoch, 2 on_generation, 3 on_request, 4 on_sailing. -/
  hook : Nat
  model : W16
  gen : W16
  layer : W16
  arg : Nat
  /-- Of on_layer_flags: the current recipe and the closed tally. -/
  recipe : Nat := 0
  tally : Tally := {}
  deriving DecidableEq, Repr

/-- A policy program loaded for CP4, with its control and activity fields. -/
structure PolicySt where
  enable : Bool := false
  defaultOff : Bool := false
  loaded : Bool := false
  disabled : Bool := false
  switches : W16 := 0
  refused : W16 := 0
  aborts : W16 := 0
  queue : List HookCall := []
  /-- The hook invocation in progress, and the switches it has asked for: layer key and recipe index (R137). -/
  running : Option HookCall := none
  asked : List (Nat × Nat) := []
  /-- Control-processor times of the aborts within the last 60 s. -/
  abortNs : List W64 := []
  prog : Bytes := []
  deriving DecidableEq, Repr

structure NumSt where
  policy : PolicySt := {}
  /-- SRV_NUM_FLAGS. -/
  flags : BitVec 7 := 0
  holds : Store NumHold := []
  /-- Tallies of the layers that ran in the sailing, by layer key. -/
  tallies : Store Tally := []
  /-- Current recipe per layer; unlisted layers run recipe 0 (R135). -/
  current : Store W8 := []
  /-- Recipes listed in the image: layer key × 16 + index. -/
  listed : Store Recipe := []
  pending : Store SwitchReq := []
  /-- Consecutive sailings in which the layer ran with any of flags 0–2 raised (R138). -/
  flaggedRuns : Store Nat := []
  /-- Quantiser generators by core, or 272 + pipeline. -/
  rng : Store RngSt := []
  deriving DecidableEq, Repr

/-! ## Host interface (chapter "Host interface") -/

/-- A submission ring (R283). -/
structure SqSt where
  base : W64 := 0
  sizeLog2 : BitVec 5 := 0
  cq : BitVec 4 := 0
  enable : Bool := false
  head : W16 := 0
  /-- Last tail written to the doorbell. -/
  tail : W16 := 0
  active : Bool := false
  error : Bool := false
  cause : BitVec 3 := 0
  deriving DecidableEq, Repr

/-- A completion entry in the hold with the result data it covers (R296). -/
structure HeldEnt where
  /-- Bytes 0–30 of the entry; the phase is added when it is written. -/
  entry : Bytes
  /-- Result data: host address and bytes. -/
  data : List (W64 × Bytes)
  /-- The context whose entry it is; none for command entries. -/
  ctx : Option Nat
  /-- Tokens, bytes of token IDs and bytes of UTF-8 that the request's earlier entries cover. -/
  before : Nat × Nat × Nat := (0, 0, 0)
  deriving DecidableEq, Repr

/-- A completion ring (R283, R294–R297). -/
structure CqSt where
  base : W64 := 0
  sizeLog2 : BitVec 5 := 0
  vector : BitVec 6 := 0
  intEn : Bool := false
  enable : Bool := false
  aggCount : BitVec 4 := 0
  aggUs : W8 := 0
  tail : W16 := 0
  phase : Bool := true
  /-- Head last accepted from the doorbell. -/
  head : W16 := 0
  active : Bool := false
  error : Bool := false
  cause : BitVec 3 := 0
  held : List HeldEnt := []
  /-- C002h has been raised since the hold last became non-empty. -/
  holdTold : Bool := false
  unsignalled : Nat := 0
  deriving DecidableEq, Repr

/-- An MSI-X table entry. -/
structure MsixEnt where
  addr : W64 := 0
  data : W32 := 0
  masked : Bool := true
  deriving DecidableEq, Repr

/-- One function's BAR0, configuration bits and rings. -/
structure FnSt where
  evtEnable : Bool := false
  evtIntEn : Bool := false
  evtVector : BitVec 6 := 0
  evtMinSev : BitVec 3 := 3
  evtWcnt : W32 := 0
  evtRcnt : W32 := 0
  evtLost : W32 := 0
  /-- Records in the window, by slot 0–511. -/
  evtRecs : Store EventRec := []
  /-- Stamp at which C007h and C008h were last raised for the window, plus 1; 0 never. -/
  c007At : Nat := 0
  c008At : Nat := 0
  sq : Store SqSt := []
  cq : Store CqSt := []
  msix : Store MsixEnt := []
  pba : W64 := 0
  d3hot : Bool := false
  /-- Bus Master Enable of the function's command register. -/
  bme : Bool := false
  /-- Other writable configuration bits, by dword offset. -/
  cfgSpace : Store W32 := []
  ready : Bool := false
  /-- Tenant-facing counters as last published (R375). -/
  pubCtx : BitVec 21 := 0
  pubTokens : W32 := 0
  deriving DecidableEq, Repr

structure HifSt where
  fns : Store FnSt := []
  /-- VF Enable of the SR-IOV capability. -/
  vfEnable : Bool := false
  /-- 16 × function + ring of the SQ that CP0 served last (R285). -/
  turn : Nat := 1023
  /-- Entries that wait for the restart of CP3, in order: function, ring, entry (R341). -/
  late : List (Nat × Nat × HeldEnt) := []
  rate : BitVec 3 := 0
  width : BitVec 3 := 0
  flit : Bool := false
  pm : BitVec 2 := 0
  up : Bool := false
  /-- Start step 5 has begun; stamp from which configuration requests are answered (R452). -/
  trained : Bool := false
  cfgFrom : Option W64 := none
  dmaFail : W16 := 0
  ringErr : W16 := 0
  aerCorr : W16 := 0
  aerUncorr : W16 := 0
  winEnable : Bool := false
  winBase : BitVec 42 := 0
  /-- HIF_DEV_POWER as last published, in W. -/
  devPower : BitVec 10 := 0
  deriving DecidableEq, Repr

/-! ## Array dies, tiles and the array port (chapters "Analogue array tiles", "Array correction, drift and wear" and
"Accumulation and reductions"). A tile-plane's key is bits [27:0] of its unit ID; a tile's key is die × 4,096 + tile. -/

/-- Tile column record (R94). Units: off 1/8 count, dP and dN 1/256 count. -/
structure TileRec where
  /-- off[0..1,039] where not 0. -/
  off : Store Int := []
  dP : Int := 0
  dN : Int := 0
  /-- Powered hour at which null_age began to count. -/
  nullAge : Nat := 0
  retired : Bool := false
  deriving DecidableEq, Repr

/-- Tile-plane correction record (R95). Lists of 16 group values are sparse, 0 where unlisted. -/
structure CorrRec where
  ref0 : Store Int := []
  delta : Int := 0
  pilotMask : W8 := 0
  /-- Plane gain in units of 1/32,768. -/
  gp : Nat := 32768
  trim : Store Int := []
  /-- d in units of 0.01 %. -/
  drift : Int := 0
  tVer : Int := 0
  /-- refresh_due, hard_limit, trim_overflow, gain_clamp, steer_limit. -/
  flags : BitVec 5 := 0
  /-- Powered hours at which the ages age and cand_age began to count. -/
  age : Nat := 0
  candAge : Nat := 0
  deriving DecidableEq, Repr

/-- Compensation entry (R111). -/
structure CompEnt where
  row : Nat
  pair : Nat
  /-- 0 subtract the row's signed pulse, 1 add it. -/
  sign : Bool
  stuckOn : Bool
  pos : Nat
  deriving DecidableEq, Repr

/-- Candle record of a position (R103); base in units of 0.05 %. -/
structure Candle where
  seed : W32
  s : Nat
  base : List Int
  deriving DecidableEq, Repr

/-- What a row-group position of a plane holds (R63). -/
structure SegRef where
  handle : Nat
  model : W16
  gen : W16
  tenant : Nat
  rowSeg : Nat
  colSlab : Nat
  deriving DecidableEq, Repr

/-- One tile-plane: state table entry (R90), correction record, defect list, compensation entries, candles, content. -/
structure PlaneSt where
  /-- State code of the tile-plane state table. Planes 160–199 read 8 unless retired. -/
  state : Nat := 0
  programs : Nat := 0
  corr : CorrRec := {}
  defects : List Defect := []
  comp : List CompEnt := []
  candles : Store Candle := []
  segs : Store SegRef := []
  /-- Row permutations in use: position × 8 + block, 32 physical rows (R110); identity where unlisted. -/
  perms : Store (List Nat) := []
  /-- Powered second of the last hard limit (R108). -/
  lastHard : Option Nat := none
  /-- Program step 1–7 while in Programming or Verifying; 0 otherwise. -/
  step : Nat := 0
  paused : Bool := false
  /-- What the program is for: 0 load or move, 1 refresh of this plane, 2 shadow of a refresh, 3 swap-in. -/
  why : Nat := 0
  /-- Stamp at which it became Suspect (R83). -/
  suspectUs : Nat := 0
  /-- A candle check is due, in the queue, or running; how many hours overdue it is; the corrected counts its passes gave, by
  position, in 1/256 count; whether the last check moved a trim by more than 41 (R105). -/
  candleDue : Bool := false
  candleOverdue : Nat := 0
  candleRes : Store (List Int) := []
  trimMoved : Bool := false
  /-- Index of each permuted position's table in its die's permutation area (R110). -/
  permAt : Store Nat := []
  /-- Pairs whose defect scan is queued (R104). -/
  scans : List Nat := []
  /-- Store planes: codewords written since the plane was last erased, and how many of them are valid (R115); the codewords that a
  spare codeword of planes 198–199 has replaced, with the spare's key, plane × 128 + codeword (R113). -/
  storeUsed : Nat := 0
  storeValid : Nat := 0
  spares : Store Nat := []
  deriving DecidableEq, Repr

/-- A refresh in progress, kept under the plane being refreshed (R117, R119). -/
structure Refresh where
  /-- Step 1–8 of the refresh sequence. -/
  step : Nat
  /-- The shadow tile-plane; none while digital entries serve the segments or no shadow is found. -/
  shadow : Option Nat
  digital : Bool
  /-- The plane whose lists the next flip moves, where it is not the plane being refreshed: a shadow that became Suspect or Retired
  while it carried them. -/
  carrier : Option Nat
  /-- Shadows that have failed verify in this refresh (R119). -/
  tried : List Nat := []
  deriving DecidableEq, Repr

/-- Tile-map entry (R81). -/
structure MapEnt where
  /-- Analogue: tile-plane key. Digital: logical core. -/
  loc : Nat
  pos : Nat := 0
  digital : Bool := false
  valid : Bool := true
  perm : Bool := false
  rowSeg : Nat := 0
  colSlab : Nat := 0
  colsM1 : Nat := 511
  digPage : W32 := 0
  deriving DecidableEq, Repr

/-- Handle table entry (R81) with its segment lists, and the outlier descriptor of the matrix (R124). -/
structure HandleEnt where
  model : W16 := 0
  gen : W16 := 0
  tenant : Nat := 0
  /-- 0 invalid, 1 active, 2 retiring. -/
  state : Nat := 0
  rowSegs : Nat := 0
  colSlabs : Nat := 0
  lastRowsM1 : Nat := 255
  lastColsM1 : Nat := 511
  listSel : Bool := false
  list0 : List MapEnt := []
  list1 : List MapEnt := []
  /-- Designation list (R123). -/
  des : List Nat := []
  desCore : Nat := 0
  desCores : Nat := 1
  /-- Address of the outlier block in the owner's HBM region (R124). -/
  blockAddr : Nat := 0
  /-- Slabs whose outlier copies are staged in the cores of the run, and the staged rows: slab × 256 + list index, 512 codes of two
  bits as R42 (R125). -/
  staged : List Nat := []
  copies : Store (BitVec 1024) := []
  /-- Golden weights of the matrix: segment index × 131,072 + weight index, where not 0 (R114). -/
  golden : Store Int := []
  /-- Weights whose code is 10b in the copies that digital entries use, decompressed in HBM: numbers as those of golden (R42). -/
  digBad : List Nat := []
  /-- Segments with neither a healthy analogue copy nor a readable golden record (R236). -/
  lost : List Nat := []
  /-- The seven codewords of a segment's golden record, plane × 128 + codeword, and the record's header, by segment index (R114,
  R115). -/
  goldenAt : Store (List Nat) := []
  goldenHdr : Store Bytes := []
  /-- Layer index of the matrix, its expert (FFFFh for a dense one) and its tensor entry (R214). -/
  layer : W16 := 0
  expert : W16 := 0xFFFF
  tensor : Nat := 0
  /-- 0 never used; else 1 + the epoch boundaries since the index became invalid, at most 3 (R175). -/
  freedEpoch : Nat := 0
  deriving DecidableEq, Repr

/-- A pass descriptor (R84) with the bookkeeping of its call. -/
structure PassDesc where
  /-- 0 pass of a call, 1 candle pass, 2 null pass, 3 pilot pass of a self-check. -/
  kind : Nat
  plane : Nat
  pos : Nat
  /-- Driven blocks. -/
  mask : BitVec 8
  /-- Codes in the group's row order, and the physical row of each (R72, R110). -/
  codes : List Int
  rows : List Nat
  shifts : BitVec 16
  scale : W8
  s : Nat
  /-- Core and ticket of the call; for maintenance passes core 272. -/
  core : Nat
  ticket : W32
  handle : W32
  rowSeg : Nat
  slab : Nat
  cols : Nat
  /-- Pass counted in the call's segments: a residual pass of the group (R129). -/
  residual : Bool
  refire : Bool
  deriving DecidableEq, Repr

/-- A pass whose slot has begun, with the parameters in force then (R93). -/
structure RunPass where
  desc : PassDesc
  corr : CorrRec
  tile : TileRec
  comp : List CompEnt
  /-- Slot it began in, and whether the delay-locked line left lock during that slot (R78). -/
  slot : Nat
  unlocked : Bool
  deriving DecidableEq, Repr

/-- Maintenance passes that wait for room in their die's queue: kind as in a descriptor, plane, position, and how many are left. -/
structure MaintReq where
  kind : Nat
  plane : Nat
  pos : Nat
  left : Nat
  deriving DecidableEq, Repr

/-- One die. -/
structure DieSt where
  share : Nat := 0
  lock : Bool := false
  held : Bool := false
  suspect : Bool := false
  linkDown : Bool := false
  retired : Bool := false
  refireQ : List PassDesc := []
  trafficQ : List PassDesc := []
  maintQ : List PassDesc := []
  /-- Maintenance passes due that have no place in the queue yet, in order (R84). -/
  maintWait : List MaintReq := []
  running : List RunPass := []
  /-- Consecutive slots traffic has filled the share (R85). -/
  fullSlots : Nat := 0
  /-- Something waits for room in the traffic queue; 3007h raised and not re-armed (R86). -/
  stalled : Bool := false
  stallTold : Bool := false
  /-- Stamp at which the stall began. -/
  stallUs : Nat := 0
  /-- Readings of the null passes of a tile's set in progress, by tile (R102). -/
  nulls : Store (List (List Nat)) := []
  /-- A pilot self-check runs: its pilot passes of each plane still to be resolved, and the planes that failed (R90). -/
  checking : Bool := false
  checkLeft : Store Nat := []
  checkFails : List Nat := []
  /-- Slots run, and the die temperature in 0.25 °C. -/
  slotNo : Nat := 0
  temp : Int := 0
  /-- Total buffers allocated, their peak, and TIL_TOTALS.waited. -/
  buffers : Nat := 0
  peak : Nat := 0
  waited : Bool := false
  progLimit : Nat := 64
  kappa : Nat := 0
  /-- Planes in Programming or Verifying in the order they started. -/
  programming : List Nat := []
  /-- Programs that wait for one of the 64 places: reason and plane (R84). -/
  progWait : List (Nat × Nat) := []
  /-- The die's permutation area of the operator region in HBM: tables of 160 bytes by index (R110). -/
  permTabs : Store Bytes := []
  /-- Compensation entries used of the pool (R96). -/
  compUsed : Nat := 0
  deriving DecidableEq, Repr

/-- Column totals of a call, slab and die, or of a call's hub totals. -/
structure TotalBuf where
  die : Nat
  slab : Nat
  /-- FP32 totals where not +0.0. -/
  totals : Store W32
  /-- Passes of the buffer not yet promoted or resolved. -/
  open_ : Nat
  sent : Bool
  deriving DecidableEq, Repr

/-- A segment whose passes are held for a replacement list (R83). -/
structure HeldSeg where
  seg : Nat
  passes : List PassDesc
  /-- The plane became Suspect during a refresh whose shadow is being programmed: the stamp at which it did. -/
  refreshHold : Option Nat
  deriving DecidableEq, Repr

/-- Digital work a core owes a call: an outlier partial of a slab (R127) or a digital entry's product (R83, R130). -/
structure DigitalDue where
  core : Nat
  seg : Nat
  slab : Nat
  outlier : Bool
  /-- Blocks of the group the product covers, and whether it covers the side record's residuals. -/
  mask : W8
  res : Bool
  deriving DecidableEq, Repr

/-- An array call between issue and completion. -/
structure ArrCall where
  core : Nat
  ticket : W32
  tenant : Nat
  key : Nat
  handle : W32
  groups : Nat
  firstSlab : Nat
  slabs : Nat
  dest : Nat
  status : Nat
  /-- Segment list resolved at acceptance. -/
  list : List MapEnt
  recs : List Bytes
  sides : List Bytes
  resid : Bytes
  /-- Passes accepted and not yet in a die queue, in the call's order (R86). -/
  waiting : List PassDesc
  bufs : List TotalBuf
  /-- Hub totals by column where not +0.0, and how many contributions are due. -/
  hub : Store W32
  due : List DigitalDue
  holds : List HeldSeg
  fault : Bool
  nonFinite : Bool
  passes : Nat
  /-- Waits for staged outlier copies (R125); 2006h raised; stamp at acceptance. -/
  unstaged : Bool
  told : Bool
  sinceUs : Nat
  deriving DecidableEq, Repr

structure ArrSt where
  planes : Store PlaneSt := []
  tiles : Store TileRec := []
  dies : Store DieSt := []
  handles : Store HandleEnt := []
  calls : List ArrCall := []
  /-- TIL_BUDGET. -/
  budget : Nat := 0
  budgetFloor : Bool := false
  passCnt : W64 := 0
  splitGroups : W32 := 0
  extraPasses : W32 := 0
  flagged : W16 := 0
  repeated : W16 := 0
  /-- TIL_QUERY and the unit its results hold. -/
  query : W32 := 0
  queryValid : Bool := false
  refreshes : Store Refresh := []
  /-- Swap tokens (R121). -/
  swapTokens : Rat := 0
  /-- Correction records as last copied to the golden-store metadata (R96): by tile-plane and by tile. -/
  savedPlanes : Store CorrRec := []
  savedTiles : Store TileRec := []
  /-- Powered hour of the last scrub of each store codeword: plane × 128 + codeword (R116); codewords whose rewriting is deferred
  while the input is below 38 V (R381). -/
  scrubbed : Store Nat := []
  rewrites : List Nat := []
  /-- Golden records whose write is deferred while the input is below 38 V: handle index, segment index, plane (R381). -/
  goldenWait : List (Nat × Nat × Nat) := []
  /-- Replacement lists the array port has asked of placement and not been given: handle index and segment (R83). -/
  asks : List (Nat × Nat) := []
  deriving DecidableEq, Repr

/-! ## Unit health (chapter "Silent errors and unit health") -/

/-- A unit's health record, kept under its unit ID (R345). -/
structure UnitRec where
  /-- 0 in service, 1 Suspect, 2 retired. -/
  state : Nat := 0
  /-- Powered seconds of the events of the last 30 days, newest first. -/
  times : List Nat := []
  life : Nat := 0
  /-- Event code that last charged the unit. -/
  cause : W16 := 0
  deriving DecidableEq, Repr

/-- A ledger record (R350): type, cause, class, unit, powered time in s, payload. -/
structure LedgerRec where
  type : W8
  cause : W8
  class_ : W16
  unit : W32
  ptime : W64
  payload : BitVec 112
  deriving DecidableEq, Repr

/-- A ledger sector (R350). -/
structure Sector where
  seq : W32 := 0
  /-- FFh erased, 7Fh open, 3Fh full, 1Fh obsolete. -/
  state : W8 := 0xFF
  recs : List LedgerRec := []
  deriving DecidableEq, Repr

/-- A cross-check in progress (R336, R337). -/
structure Xchk where
  a : W32
  b : W32
  seed : W32
  /-- Digests of the pair once they differ; the arbiter runs. -/
  digests : Option (W32 × W32)
  /-- The third unit; none while none is free. -/
  arbiter : Option W32
  deriving DecidableEq, Repr

structure RelSt where
  units : Store UnitRec := []
  /-- Powered time in µs (R345). -/
  ptimeUs : Nat := 0
  /-- VSTBY was lost since the device last served (R105). -/
  vstbyLost : Bool := false
  xchk : Option Xchk := none
  /-- Units still to be cross-checked after run_now (R336). -/
  xchkDue : List W32 := []
  /-- Layers with a non-finite result since the last sailing end: their planes are still to be checked (R344). -/
  layersDue : List Nat := []
  /-- Powered second of each unit's last passing cross-check. -/
  lastPass : Store Nat := []
  /-- MGT_XCHK_CTL.interval_s. -/
  xchkSecs : BitVec 10 := 60
  /-- Corrected errors of each memory unit in the hour (R338). -/
  corrected : Store Nat := []
  /-- HBM stacks that failed training in this start: they stay Off, their channels count as retired (R428). -/
  hbmOff : List Nat := []
  /-- Retired HBM frames per channel. -/
  frames : Store Nat := []
  /-- Invalid ternary codes of a unit since its last 4016h. -/
  tern : Store Nat := []
  sectors : Store Sector := []
  openSector : BitVec 6 := 0
  ledgerFailed : Bool := false
  /-- Records whose write is deferred while the input is below 38 V (R381). -/
  deferred : List LedgerRec := []
  /-- Event records written this hour: per unit, and in all; events held per unit (R351). -/
  hourUnit : Store Nat := []
  hourAll : Nat := 0
  hourHeld : Store Nat := []
  /-- MGT_REL_EST and the powered second of the last 4013h. -/
  est : W32 := 0
  estTold : Option Nat := none
  /-- Detections of the five fault classes of R348: powered seconds within 30 days, newest first. -/
  detections : Store (List Nat) := []
  /-- capacity_reduced and the causes that hold, bit n − 1 for cause n of 4007h (R347). -/
  reduced : Bool := false
  /-- Evaluations in a row without a cause (R376). -/
  clean : Nat := 0
  causes : BitVec 6 := 0
  /-- Control processors to restart, with the cause of 4010h; those under the permanent rule (R341). -/
  cpDown : Store Nat := []
  cpPermanent : Store Bool := []
  /-- Contexts with a level-3 trigger in the sailing in progress: trigger 1–8 of 400Dh (R342). -/
  marks : Store Nat := []
  /-- Analogue tile-planes retired in life. -/
  retiredPlanes : Nat := 0
  /-- MGT_UNIT_QUERY and its result. -/
  query : W32 := 0
  queryValid : Bool := false
  deriving DecidableEq, Repr

/-! ## Attention pipelines and context memory (chapter "Attention pipelines and context memory") -/

/-- A page entry (R202) with the page's stored bytes (R190). -/
structure PageEnt where
  /-- First granule of the tier, 40 bits. -/
  loc : BitVec 40 := 0
  /-- 0 hot, 1 HBM, 2 host, 3 discarded. -/
  tier : Nat := 1
  valid : Bool := true
  moving : Bool := false
  shared : Bool := false
  fill : Nat := 0
  crc : W32 := 0
  heat : W16 := 0
  data : Bytes := []
  deriving DecidableEq, Repr

/-- Prefix record and the prefix's key–value map (R207–R209): page key layer × 16,384 + index. -/
structure PrefixRec where
  model : W16
  gen : W16
  tenant : Nat
  /-- 0 invalid, 1 loading, 2 active, 3 retiring. -/
  state : Nat
  length : Nat
  refs : Nat
  map : Store PageEnt
  /-- HBM addresses of the map and of its map blocks by layer × 64 + block (R202), and the HBM the image declares (R228). -/
  addr : W64 := 0
  blocks : Store Nat := []
  hbmBytes : Nat := 0
  deriving DecidableEq, Repr

/-- A resident adapter set (R237). -/
structure AdapterRec where
  model : W16
  gen : W16
  tenant : Nat
  /-- 1 loading, 2 active, 3 retiring. -/
  state : Nat
  sects : Store Bytes
  /-- The HBM the image declares (R228). -/
  hbmBytes : Nat := 0
  deriving DecidableEq, Repr

/-- Absorbed query of one row and head (R182): FP4 codes, scales, FP8 positional part. -/
structure AbsQ where
  codes : List Nat
  scales : List Nat
  pos : List Nat
  deriving DecidableEq, Repr

/-- A partial triple (m, l, o) of R184, FP32 codes. -/
structure Triple where
  m : W32
  l : W32
  o : List W32
  deriving DecidableEq, Repr

/-- A partial of a row, head and slice, and the physical pipeline that made it (R198). -/
structure Partial where
  pipe : Nat
  t : Triple
  deriving DecidableEq, Repr

/-- An attention call between acceptance and completion. Row and head key: row × 256 + head. -/
structure AttCallSt where
  core : Nat
  ticket : W32
  ctx : Nat
  desc : Bytes
  /-- Position of the first row. -/
  pos0 : Nat
  absorbed : Store AbsQ := []
  /-- Partials not merged yet by (row × 256 + head) × 256 + slice; those of other pipelines than the lead stand in the staging area of the
  tenant's HBM region. -/
  parts : Store Partial := []
  /-- Merged triples, and how many of its slices each holds. -/
  merged : Store Triple := []
  slices : Store Nat := []
  /-- Outputs of expanded rows and heads. -/
  outs : Store (List W32) := []
  /-- Lead pipeline of a row and head (R198). -/
  leads : Store Nat := []
  items : Nat := 0
  fault : Bool := false
  /-- Counts and flags of the call's items, and of its appends (R38, R41, R53). -/
  op : OpStat := {}
  appended : OpStat := {}
  deriving DecidableEq, Repr

/-- The 512 KiB SRAM of a pipeline (R180), as the last item left it: accumulators o, absorbed queries, the stored pages or up-projection
tiles read, running maxima and sums. -/
structure PipeSram where
  acc : List W32 := []
  queries : List AbsQ := []
  buffers : List Bytes := []
  sums : List (W32 × W32) := []
  /-- Tenant whose data it is. -/
  tenant : Nat := 0
  deriving DecidableEq, Repr

/-- A physical pipeline: state 0 idle, 1 running, 2 halted by debug, 3 faulted; stage of R181. -/
structure PipeSt where
  state : Nat := 0
  stage : Nat := 0
  sram : PipeSram := {}
  /-- The last operation of the pipeline that quantises or reads scales. -/
  op : OpStat := {}
  deriving DecidableEq, Repr

/-- A page move in progress and its target tier (R205). -/
structure PageMove where
  key : PageKey
  tier : Nat
  deriving DecidableEq, Repr

/-- An item of the sailing and the logical pipeline it was given to (R197). -/
structure ItemGiven where
  pipe : Nat
  cost : Nat
  ctx : Nat
  block : Nat
  head : Nat
  slice : Nat
  deriving DecidableEq, Repr

structure AttSt where
  /-- ATT_MAP: physical pipeline of a logical one where it differs from R180's; 68 marks a position without a pipeline. -/
  map : Store Nat := []
  pipes : Store PipeSt := []
  /-- ATT_ITEM_TARGET.cycles. -/
  itemTarget : BitVec 18 := 20000
  items : W32 := 0
  emptyRows : BitVec 12 := 0
  parkFail : BitVec 12 := 0
  calls : List AttCallSt := []
  moves : List PageMove := []
  prefixes : Store PrefixRec := []
  adapters : Store AdapterRec := []
  /-- Items and summed cost of each logical pipeline in the last sailing (R197). -/
  assign : Store (Nat × Nat) := []
  /-- The items of the sailing in progress. -/
  given : List ItemGiven := []
  deriving DecidableEq, Repr

/-! ## Models, loading and placement (chapter "Model images, loading and placement") -/

/-- A layer record of the graph (R462). -/
structure LayerInfo where
  attKind : Nat
  mask : Nat
  window : Nat
  heads : Nat
  dh : Nat
  dl : Nat
  p : Nat
  fmt : Nat
  sigma : W32
  params : Bytes
  deriving DecidableEq, Repr

/-- A generation of a model (R231). -/
structure GenSt where
  /-- 1 Loading, 2 Ready, 3 Active, 4 Draining, 5 Retiring, 6 Retired. -/
  state : Nat
  owner : Nat
  held : Bool := false
  forcePrev : Bool := false
  flotilla : Bool := false
  /-- This module is the root of its broadcast load (R230). -/
  root : Bool := false
  /-- Seconds it lets its predecessor drain, 0 for no limit. -/
  drainLimit : Nat := 0
  swappable : Bool := false
  /-- A swappable model is resident in the swap pool. -/
  swappedIn : Bool := false
  positions : Nat := 0
  /-- Golden records, those of its section records included (R228, R430). -/
  records : Nat := 0
  hbmBytes : Nat := 0
  handles : List Nat := []
  layers : List LayerInfo := []
  tensors : List Bytes := []
  frameSize : Nat := 0
  /-- Duration coefficients f, r and a in µs (R255). -/
  f : Rat := 0
  r : Rat := 0
  a : Rat := 0
  /-- Expanded sections by key section-table index × 65,536 + tensor: kernels, digital weights, tokeniser tables. -/
  sects : Store Bytes := []
  /-- Tokeniser table (section 09h); empty for none. -/
  tok : Bytes := []
  /-- Members that reported Ready, and whether a switch report has arrived (R232). -/
  readyFrom : List Nat := []
  switchSeen : Bool := false
  /-- unload kept the golden records (R233). -/
  keepGolden : Bool := false
  /-- Cause of 9007h with which it became Retiring; Retired carries it too (R243). -/
  retireCause : Nat := 3
  deriving DecidableEq, Repr

structure ModelSt where
  /-- 0 not resident, 1 serving, 2 replacing, 3 unavailable, 4 stored. -/
  state : Nat := 0
  /-- Highest generation accepted while resident or stored. -/
  highest : W16 := 0
  deriving DecidableEq, Repr

/-- A block taken in and not decoded yet (R216). -/
structure BlockIn where
  shard : Nat
  ord : Nat
  section_ : Nat
  tensor : Nat
  table : W16
  kind : Nat
  elen : Nat
  block : Nat
  bytes : Bytes
  /-- Its table is in a slot and counts it: it is in the decode queue. -/
  ready : Bool
  /-- 9006h raised for this wait. -/
  told : Bool := false
  deriving DecidableEq, Repr

/-- A load in progress. -/
structure LoadSt where
  origin : Origin
  record : Bytes
  model : W16
  gen : W16
  tenant : Nat
  /-- 1 fetching header and sections, 2 shards, 3 programming, 4 waiting for the old generation to retire (R235). -/
  phase : Nat := 1
  /-- Drain-and-replace, and its dry pass. -/
  dnr : Bool := false
  dry : Bool := false
  hdr : Bytes := []
  sect : Bytes := []
  startUs : W64
  got : List Nat := []
  /-- Failed fetches of a shard; key 2^32 − 1 is the header. -/
  tries : Store Nat := []
  /-- Shards refetched for a block fault, and the status that fault ends the load with. -/
  refetched : Store Nat := []
  queue : List BlockIn := []
  /-- Next block of a tensor or section: key section × 65,536 + tensor. -/
  next : Store Nat := []
  /-- Delivered blocks: key (section × 65,536 + tensor) × 2^24 + block. -/
  data : Store Bytes := []
  /-- The layer graph and the lists have been checked. -/
  checked : Bool := false
  /-- Planes still to be programmed and verified. -/
  planes : List Nat := []
  programmed : Nat := 0
  /-- Its segments have been placed, and the planes that have not begun programming (R229). -/
  placed : Bool := false
  notBegun : List Nat := []
  /-- The ternary tensors of the image that this module keeps, one for each handle of the new generation (R230). -/
  kept : List Nat := []
  deriving DecidableEq, Repr

/-- A decode-table slot (R221). -/
structure DTab where
  model : W16
  gen : W16
  table : W16
  lens : List Nat
  count : Nat
  /-- Stamp since which the count is 0. -/
  idleUs : W64
  deriving DecidableEq, Repr

/-- A model command whose entry or final record is not written yet (R289). sub: 1 load, 2 activate, 3 retire, 4 unload,
5 cancel. -/
structure ModelCmd where
  origin : Origin
  sub : Nat
  model : W16
  gen : W16
  deriving DecidableEq, Repr

/-- A plan entry in force: done, withdrawn, and the planes it is programming. -/
structure PlanRun where
  entry : PlanEntry
  done : Bool := false
  withdrawn : Bool := false
  /-- Withdrawn under R24, which is what PLC_MIG_STAT counts. -/
  overruled : Bool := false
  /-- New handle of a replica. -/
  copy : Option Nat := none
  deriving DecidableEq, Repr

structure PlcSt where
  models : Store ModelSt := []
  /-- By model × 65,536 + generation. -/
  gens : Store GenSt := []
  loads : List LoadSt := []
  dtabs : Store DTab := []
  cmds : List ModelCmd := []
  hints : List Bytes := []
  /-- PLC_EPOCH_CTL; the epoch length in force since the last boundary. -/
  seconds : BitVec 10 := 10
  secondsNow : BitVec 10 := 10
  migRate : BitVec 14 := 200
  swapMin : W32 := 1000000
  epoch : W32 := 0
  computing : Bool := false
  /-- The plan computed for the next boundary, the plan in force, and its dropped entries. -/
  nextPlan : List PlanEntry := []
  nextDropped : Nat := 0
  plan : List PlanRun := []
  dropped : Nat := 0
  /-- Expert assignments of the epoch: (layer key × 65,536 + expert) to count. -/
  experts : Store Nat := []
  /-- Epochs in a row in which an expert's wanted number of copies stayed lower (R240). -/
  lower : Store Nat := []
  /-- Copies of an expert: (layer key × 65,536 + expert) to its handles (R240). -/
  expertTab : Store (List Nat) := []
  /-- Passes the calls of each handle fire in the epoch, on analogue planes or as they would (R241). -/
  passes : Store Nat := []
  /-- Both counts of the epoch before, frozen (R238). -/
  frozenExperts : Store Nat := []
  frozenPasses : Store Nat := []
  /-- Calls of each handle in the epoch, the sailings in which it was called, the handles called in the sailing in progress, the epoch's
  sailings, and the same of the epoch before (R238). -/
  calls : Store Nat := []
  sailed : Store Nat := []
  calledNow : List Nat := []
  sailings : Nat := 0
  frozenCalls : Store Nat := []
  frozenSailed : Store Nat := []
  frozenSailings : Nat := 0
  /-- Dies that read 5 °C or more below their throttle point at some time of the epoch, and of the epoch before (R238). -/
  cooled : W16 := 0
  frozenCooled : W16 := 0
  genQuery : W16 := 0
  genValid : Bool := false
  attQuery : BitVec 6 := 0
  attValid : Bool := false
  /-- MGT_LOAD_STAT.shards. -/
  shards : W32 := 0
  /-- Drain limits running: generation key to the limit in seconds. -/
  drains : Store Nat := []
  /-- Requests pinned on other members, by member × 2^32 + generation key (R329). -/
  remote : Store Nat := []
  deriving DecidableEq, Repr

/-! ## Serving (chapter "Serving") -/

/-- A candidate node of a verify call (R268): token, parent (none: the pending token's own), and the draft's distribution it
was drawn from. -/
structure Cand where
  tok : Nat
  parent : Option Nat
  q : List (Nat × W32)
  deriving DecidableEq, Repr

/-- Context descriptor (R247) with what it names: history, key–value map, speculation pages, frames. -/
structure CtxSt where
  tag : W32
  state : Nat
  tenant : Nat
  cls : Nat
  drop : Bool
  omitSpecial : Bool
  beamMember : Bool := false
  firstDone : Bool := false
  variant : Option W16
  model : W16
  gen : W16 := 0
  prefix_ : Option W16
  adapter : Option W16
  fn : Nat
  sq : Nat
  ring : Nat
  io : W8
  length : Nat := 0
  toFill : Nat
  generated : Nat := 0
  maxTokens : Nat
  pending : Option Nat := none
  acceptedAt : W64
  due : Option Nat
  ttft : Nat
  tbt : Nat
  pausedAt : W64 := 0
  rng : W64
  temp : W32
  topP : W32
  repPen : W32
  lenPen : W32
  topK : Nat
  mode : Nat
  beamWidth : Nat
  spec : Nat
  specLen : Nat
  branches : Nat
  draft : W16
  draftCtx : Option Nat := none
  /-- For a draft context: the context it drafts for. -/
  draftOf : Option Nat := none
  beamLead : Option Nat := none
  /-- Beams of a lead context, in order. -/
  beams : List Nat := []
  stops : List Nat
  stopEnd : Bool
  result : W64
  resultLen : Nat
  idsUsed : Nat := 0
  bytesUsed : Nat := 0
  held : Bytes := []
  sailings : Nat := 0
  late : Nat := 0
  specProp : W32 := 0
  specAcc : W32 := 0
  history : List Nat := []
  /-- HBM addresses: the key–value map (R202), its map blocks by layer × 64 + block, and the history's 64 KiB extents, the first being the
  descriptor's history address (R247, R248). -/
  kvMap : W64 := 0
  blocks : Store Nat := []
  extents : List Nat := []
  frames : Bytes := []
  /-- Own pages by layer × 16,384 + index, and cross pages. -/
  pages : Store PageEnt := []
  cross : Store PageEnt := []
  /-- Speculation page of each layer: entries in node order (R195). -/
  specPage : Store (List Bytes) := []
  cands : List Cand := []
  cancelled : Bool := false
  /-- Status of cause 2 or 5 of R261 that applies at the next sailing end. -/
  endWith : Option W16 := none
  /-- Size of the last prefill chunk. -/
  lastChunk : Nat := 0
  /-- Paused by the composition of the sailing in progress (R253: minimum pause). -/
  justPaused : Bool := false
  /-- Sum of log p of a beam, FP32, and finished hypotheses: beam index, score, tokens (R266). -/
  score : W32 := 0
  finished : List (Nat × W32 × List Nat) := []
  specTold : Bool := false
  /-- Waits for the admission program's answer (R273). -/
  awaitHook : Bool := false
  /-- Its next sailing is a recompute counted towards level 4 (R342, R343). -/
  redone : Bool := false
  deriving DecidableEq, Repr

/-- A row or chunk placed in a sailing. kind: 0 prefill chunk, 1 decode row, 2 verify. -/
structure SailRow where
  ctx : Nat
  kind : Nat
  start : Nat
  n : Nat
  deriving DecidableEq, Repr

/-- The sailing in progress. -/
structure SailSt where
  rows : List SailRow := []
  startNs : W64 := 0
  /-- The sailing's target in µs: the one in force when it was composed (R251). -/
  target : Nat := 6000
  estimate : Rat := 0
  running : Bool := false
  told : Bool := false
  deriving DecidableEq, Repr

/-- The admission policy program (R273). -/
structure AdmitSt where
  enable : Bool := false
  loaded : Bool := false
  disabled : Bool := false
  prog : Bytes := []
  queue : List HookCall := []
  running : Option HookCall := none
  abortNs : List W64 := []
  deriving DecidableEq, Repr

structure SrvSt where
  ctxs : Store CtxSt := []
  /-- Variant entries as the operator wrote them. -/
  variants : Store Bytes := []
  sail : SailSt := {}
  /-- The common factor s (R255). -/
  s : Rat := 1
  servedUs : Nat := 0
  /-- SRV_SAIL_CTL. -/
  target : BitVec 15 := 6000
  share : BitVec 7 := 40
  minChunk : BitVec 10 := 64
  /-- SRV_SAIL_STAT. -/
  measured : W16 := 0
  estimate : W16 := 0
  sequences : BitVec 13 := 0
  prefill : BitVec 14 := 0
  sailNo : Nat := 0
  adm : AdmitSt := {}
  /-- Class caps in percent set by the program. -/
  caps : Store Nat := []
  /-- Tokens, late tokens and DEADLINE_MISSED of the second in progress, by tenant × 4 + 0, 1, 2; and SRV_RATE. -/
  second : Store Nat := []
  /-- Tokens delivered to each function's requests since the last publication (R282). -/
  tok100 : Store Nat := []
  rate : W64 := 0
  query : BitVec 20 := 0
  queryValid : Bool := false
  deriving DecidableEq, Repr


/-! ## Criley fabric (chapter "Criley fabric and flotillas") -/

/-- A fabric port. -/
structure PortSt where
  state : Nat := 0
  peer : Nat := 0
  fence : Nat := 0
  carrying : Bool := false
  fwDiff : Bool := false
  /-- Last transit samples in ns, newest first (R312). -/
  transits : List Nat := []
  /-- Next sequence to send; frames sent and not acknowledged, oldest first; resends of the oldest (R311). -/
  txSeq : W16 := 0
  txQ : List Frame := []
  resends : Nat := 0
  /-- Frames that wait for credits or for the limits of R311, in arrival order. -/
  waitQ : List Frame := []
  /-- Place in the weighted round robin of R310. -/
  turn : Nat := 0
  /-- Next sequence expected; stamp of a nak while it still holds further naks off; frames accepted since the last ack. -/
  rxNext : W16 := 0
  nakUs : Option Nat := none
  unacked : Nat := 0
  /-- Cumulative credits granted by the peer, consumed by this side, and granted to the peer, by VL (R310). -/
  granted : Store W32 := []
  used : Store W32 := []
  given : Store W32 := []
  /-- Heartbeats sent; count of the last one received. -/
  hbSent : W32 := 0
  hbSeen : Option W32 := none
  /-- Last record accepted: serial, protocol minor, ready flag; whether 8003h has been raised for its digest (R314, R315). -/
  accepted : Bool := false
  serial : W64 := 0
  minor : Nat := 0
  peerReady : Bool := false
  genTold : Bool := false
  /-- FAB_PORT_CNT. -/
  crcErr : W16 := 0
  resendCnt : W16 := 0
  fecUncorr : W16 := 0
  hbMissed : W16 := 0
  deriving DecidableEq, Repr

/-- A message whose fragments are arriving. -/
structure MsgIn where
  src : Nat
  msg : Nat
  frags : Nat
  held : Store Bytes
  deriving DecidableEq, Repr

/-- A ferry the home waits for (R323, R327). -/
structure FerrySt where
  id : Nat
  dst : Nat
  key : LayerKey
  expert : W16
  tenant : Nat
  /-- Context and slot of each token. -/
  tokens : List (Nat × Nat)
  body : Bytes
  /-- Statuses of the failures so far: 1–5 of the return, 6 timeout, 7 lost. -/
  failures : List Nat := []
  deriving DecidableEq, Repr

/-- A ferry queued at its destination, with the budget left (R325). -/
structure FerryJob where
  budget : Nat
  src : Nat
  msg : Nat
  deriving DecidableEq, Repr

/-- A migration of a Paused request to another member (R330). -/
structure MigrSt where
  ctx : Nat
  target : Nat
  /-- The target has admitted the context: it serves it. -/
  admitted : Bool := false
  origin : Option Origin := none
  deriving DecidableEq, Repr

structure FabSt where
  ports : Store PortSt := []
  /-- Members reachable over Up links, this module included; 0 while standalone. -/
  view : W64 := 0
  /-- Port states and peers last announced by each member (R316). -/
  announced : Store (List (Nat × Nat)) := []
  /-- First serial seen under each member index. -/
  serials : Store W64 := []
  nextMsg : W32 := 0
  /-- Keys of flooded frames seen: fragment × 2^48 + source × 2^32 + message ID. -/
  seen : List Nat := []
  inbound : List MsgIn := []
  /-- Messages completed, with their stamps (R322). -/
  finished : List (Nat × Nat) := []
  /-- Frames and whole messages accepted and not yet acted on, with their port. -/
  accepted : List (Nat × Frame) := []
  /-- Epoch statistics held: member to epoch and record. -/
  stats : Store (Nat × Bytes) := []
  /-- Plans announced: member to epoch, view and digest. -/
  plans : Store (Nat × W64 × Nat) := []
  /-- Own cross-module plan computed: epoch, digest, copies by (layer key × 65,536 + expert). -/
  ownPlan : Option (Nat × Nat × Store (List Nat)) := none
  planEpoch : W32 := 0
  fails : W8 := 0
  computing : Bool := false
  /-- Members with copies of each expert under the plan in force, ascending. -/
  copies : Store (List Nat) := []
  /-- Copies of this module that the plan in force removes, kept until its first epoch ends (R319). -/
  leaving : List Nat := []
  /-- Epoch number taken from a join record at the next boundary (R317). -/
  jump : Option W32 := none
  ferries : List FerrySt := []
  nextFerry : W32 := 0
  jobs : List FerryJob := []
  sent : W32 := 0
  resent : W16 := 0
  failed : W16 := 0
  /-- Last 2,048 shards staged: model, generation, index, frame (R230). -/
  staged : List (W16 × W16 × Nat × Bytes) := []
  migrs : List MigrSt := []
  /-- Contexts served for another member: context to home × 2^32 + context there (R330). -/
  guests : Store Nat := []
  deriving DecidableEq, Repr

/-! ## Security, tenants and debug (chapter "Security, tenants and debug") -/

/-- An enrolment entry (R360, R361): SM2 public key, role 0 administrator, 1 maintenance, 2 observer, label. -/
structure EnrolEnt where
  key : Bytes
  role : Nat
  label : Bytes
  deriving DecidableEq, Repr

/-- The key of a slot (R365, R366). -/
structure SlotKey where
  key : Bytes := []
  imported : Bool := false
  /-- First 4 bytes of SM3(key ‖ tenant byte). -/
  check : W32 := 0
  deriving DecidableEq, Repr

/-- A command of a session whose final response is due (R363): its declared bulk length and the bytes that have arrived. -/
structure PendCmd where
  id : W32
  code : Nat
  len : Nat := 0
  got : Bytes := []
  /-- Kind of a policy program; whether the flash takes a reconfigure's block. -/
  arg : Nat := 0
  flag : Bool := true
  deriving DecidableEq, Repr

/-- A management session (R359, R362). -/
structure SessSt where
  conn : Nat
  /-- The handshake has completed. -/
  established : Bool := false
  idx : Nat
  key : Bytes
  role : Nat
  /-- The member that holds the connection; none for a direct session. -/
  via_ : Option Nat := none
  /-- The member the operator addresses, whose records this module relays. -/
  target : Option Nat := none
  /-- Payloads of the client hello and of the device hello. -/
  hello : Bytes
  answer : Bytes := []
  /-- Keys and salts of both directions; how often they were renewed and the stamp of the last time. -/
  keys : Bytes := []
  rekeys : Nat := 0
  keyUs : W64 := 0
  /-- Next sequence expected, next sequence sent, stamp of the last record. -/
  rx : W64 := 0
  tx : W64 := 0
  lastUs : W64 := 0
  cmds : List PendCmd := []
  deriving DecidableEq, Repr

/-- A debug session (R370). -/
structure DbgSt where
  num : W32
  /-- The management session that opened it; none over SMBus. -/
  sid : Option Nat
  level : Nat
  /-- Units in scope; F0000000h for the whole device. -/
  scope : List W32
  /-- Action classes used on units, and the actions counted. -/
  used : List (Nat × W32) := []
  actions : Nat := 0
  /-- Cores it halted. -/
  halted : List Nat := []
  deriving DecidableEq, Repr

/-- A nonce issued for an authorisation (R355). -/
structure NonceEnt where
  nonce : Bytes
  action : Nat
  stamp : W64
  deriving DecidableEq, Repr

/-- A tenant scrub (chapter "Security, tenants and debug", "Scrub between tenants"). -/
structure ScrubSt where
  slot : Nat
  /-- Step 1–6 in progress; step 1 complete; no place among the four that run (R379). -/
  step : Nat := 1
  fenced : Bool := false
  waits : Bool := false
  startUs : W64
  /-- The session and command whose final response it owes. -/
  reply : Option (Nat × W32) := none
  /-- Shared planes whose refresh has begun. -/
  shared : List Nat := []
  deriving DecidableEq, Repr

/-- State of an SPDM transport (R358): 0 none, 1 version, 2 capabilities, 3 algorithms; the messages so far. -/
structure SpdmSt where
  stage : Nat := 0
  log : Bytes := []
  deriving DecidableEq, Repr

structure SecSt where
  /-- Fuses (R354): lifecycle 0 Blank, 1 Provisioned, 2 Production, 3 Returned; the rollback counts; seed and serial. -/
  lifecycle : Nat := 0
  fwRollback : Nat := 0
  lanternRollback : Nat := 0
  seed : Bytes := []
  serial : W64 := 0
  /-- Key slots 0–63: 0 Unassigned, 1 Assigned, 2 Scrubbing. -/
  slots : Store Nat := []
  keys : Store SlotKey := []
  /-- Enrolment table and the Skelren certificate of the Lantern data partition. -/
  enrol : Store EnrolEnt := []
  cert : Bytes := []
  nonces : List NonceEnt := []
  sessions : Store SessSt := []
  nextSess : W32 := 1
  /-- Stamps of failed handshakes; the end of a lockout (R360). -/
  hsFails : List W64 := []
  lockUntil : Option W64 := none
  debugs : List DbgSt := []
  nextDbg : W32 := 1
  /-- debug_attached, and the stamp of the last close. -/
  attached : Bool := false
  closedUs : W64 := 0
  /-- Debug sessions opened since start-up at levels 1, 2 and 3 (R357). -/
  opened : Store Nat := []
  /-- Records of the audit ring, oldest first, and the next sequence (R372, R373). -/
  audit : List Bytes := []
  /-- The record written last, freed or not: the next one's chain covers it (R372). -/
  lastAudit : Bytes := []
  auditSeq : W64 := 0
  /-- Slots with a scrub-pending mark in the order of acceptance, and the scrubs in progress or waiting (R379). -/
  marks : List Nat := []
  scrubs : List ScrubSt := []
  /-- SEC_SLOT_QUERY. -/
  query : BitVec 6 := 0
  queryValid : Bool := false
  /-- SEC_MBOX: bytes delivered, status (0 busy, 1 accepted, 2 refused, 3 nonce pending), nonce. -/
  mbox : Bytes := []
  mboxStat : Nat := 0
  mboxNonce : Bytes := []
  /-- SPDM transports: 0 DOE, 1 MCTP on SMBus, 2 + session number. -/
  spdm : Store SpdmSt := []
  /-- Domains held at Idle or above by debug sessions (R371). -/
  holds : List Nat := []
  deriving DecidableEq, Repr


/-! ## Power and thermal control (chapter "Power delivery, power states and thermal control") -/

/-- A power stage (R382–R386). -/
structure StageSt where
  /-- Failed phases, by phase. -/
  failed : W8 := 0
  /-- Last accepted target in mV; whether the stage is enabled, and the stamp at which its ramp ends; the
  stamp at which its soft-start ends. -/
  target : Nat := 0
  enabled : Bool := false
  rampEnd : W64 := 0
  goodFrom : W64 := 0
  /-- SET_ILIM in 0.1 A; 0 while none has been accepted: the rated current applies. -/
  ilim : Nat := 0
  /-- Status item 6, its fault bits [4:1]. -/
  status : W16 := 0
  /-- Marked faulty, the pings that have succeeded in a row, and the failures of the command in progress (R385). -/
  faulty : Bool := false
  pings : Nat := 0
  fails : Nat := 0
  /-- No healthy phase is left: the rail is lost. -/
  lost : Bool := false
  derated : Bool := false
  /-- READ items 0–4 as last measured. -/
  power : Nat := 0
  vin : Nat := 0
  iin : Nat := 0
  vout : Nat := 0
  iout : Nat := 0
  deriving DecidableEq, Repr

/-- A power domain (R391–R394). -/
structure DomSt where
  /-- State code: 0 Run, 2 Sleep, 3 Deep Sleep, 4 Off; Idle is a matter of its islands. -/
  state : Nat := 4
  /-- Target of an entry in progress, and the steps of it that are complete. -/
  entry : Option Nat := none
  step : Nat := 0
  /-- A wake request arrived during the entry (R394). -/
  wakeAsked : Bool := false
  /-- A move down asked for while a wake runs: it waits until the domain is in Run. -/
  downAsked : Option Nat := none
  /-- Step 1–4 of the wake in progress, 0 for none; whether the step has been run again. -/
  wake : Nat := 0
  rerun : Bool := false
  deriving DecidableEq, Repr

/-- A clock island: its frequency in 25 MHz units, and whether its clock is stopped (R28, R29). -/
structure IslandSt where
  freq : Nat := 0
  idle : Bool := false
  deriving DecidableEq, Repr

structure PwrSt where
  /-- 0 no VSTBY, 1 standby, 2 starting, 3 serving, 4 recovery. -/
  mode : Nat := 0
  /-- FAULT_N is asserted: recovery, or standby entered through rail loss (R450). -/
  faultN : Bool := false
  stages : Store StageSt := []
  /-- PWR_ENVELOPE as written, and E and Bfull in force since the last window. -/
  envW : Nat := 450
  envB : Nat := 13750
  e : Nat := 450
  bfull : Nat := 13750
  /-- Thermal limit L in W, the rung k, and the windows in a row that count for a raise (R388). -/
  l : Rat := 450
  k : Nat := 0
  lows : Nat := 0
  /-- Windows in a row above T at rung 36, the sailing hold and the stamp of its assertion (R389). -/
  above : Nat := 0
  hold : Bool := false
  holdUs : W64 := 0
  /-- Power of the last 10 windows, newest first, in 10 mW; sum and count of the second; input voltage and current. -/
  last : List Nat := []
  secSum : Nat := 0
  secN : Nat := 0
  vin : Nat := 0
  iin : Nat := 0
  /-- Stamp of the first step of L below E. -/
  throttleUs : W64 := 0
  /-- Ceiling of core clocks in 25 MHz units and of pipeline clocks in MHz; steps of 100 and 75 MHz that a derated quadrant
  lowers its own (R382). -/
  coreCeil : Nat := 0
  pipeCeil : Nat := 0
  quad : Store Nat := []
  /-- The input has been below 38 V; above 60 V (R381). -/
  vinLow : Bool := false
  vinHigh : Bool := false
  doms : Store DomSt := []
  islands : Store IslandSt := []
  /-- PWR_WAKE. -/
  wakeSource : Nat := 0
  wakeDom : Nat := 0
  query : BitVec 9 := 0
  queryValid : Bool := false
  /-- THERM_TRIP_N asserted, stamp of the trip, stamps of the trips of the last 24 h, and of the restarts (R400, R401). -/
  tripped : Bool := false
  tripUs : W64 := 0
  trips : List W64 := []
  /-- A further restart was refused, and whether THM_TRIP_CTL.clear has been written since. -/
  locked : Bool := false
  cleared : Bool := false
  /-- The restart of R401 is due: no standby command has come since the trip. -/
  restartDue : Bool := false
  /-- Stamp until which L stays at E/2 after a trip restart; the restart is in progress while `tripStart`. -/
  tripStart : Bool := false
  halfUntil : Option W64 := none
  deriving DecidableEq, Repr

/-! ## Lamplighter and analogue monitor (chapter "Lamplighter and the analogue monitor") -/

/-- A ring-oscillator sensor, in 0.25 °C (R397). -/
structure SensorSt where
  raw : Int := 0
  used : Int := 0
  replaced : Bool := false
  /-- Consecutive reads that differ by more than 6 °C, or while replaced agree within 3 °C; stamp of the replacement. -/
  run : Nat := 0
  sinceUs : W64 := 0
  deriving DecidableEq, Repr

/-- A thermal region, in 0.25 °C. -/
structure RegionSt where
  temp : Int := 0
  blind : Bool := false
  /-- Consecutive reads that meet the trip condition. -/
  hot : Nat := 0
  deriving DecidableEq, Repr

/-- A note record (R422). -/
structure NoteRec where
  stamp : W64
  code : W16
  sev : W8
  source : W8
  value : W32
  deriving DecidableEq, Repr

/-- The watch processor (R417–R421). -/
structure WatchSt where
  /-- 0 safe, 1 default program, 2 operator program. -/
  mode : Nat := 0
  w : Store W16 := []
  z : Bool := false
  n : Bool := false
  c : Bool := false
  pc : Nat := 0
  data : Store W16 := []
  /-- Retained copy of the default program; the operator program and whether it is stopped. -/
  dflt : List W16 := []
  prog : List W16 := []
  loaded : Bool := false
  stopped : Bool := false
  faulted : Bool := false
  cause : Nat := 0
  /-- Mask of the WAIT in progress; the sources latched; the sources that ended the last WAIT. -/
  waiting : Option (BitVec 6) := none
  latched : BitVec 6 := 0
  ended : BitVec 6 := 0
  /-- Register that waits for a CONV, and the channel of a CONV that waits for a place in the urgent queue. -/
  conv : Option Nat := none
  convWait : Option Nat := none
  /-- Timer period in ms, 0 stopped. -/
  timerMs : Nat := 0
  /-- A program that replaces the running one at its next WAIT: 0 a default program, 1 a loaded operator program, 2 the stopped
  operator program; a stop that waits. -/
  next : Option (Nat × List W16) := none
  stopAsked : Bool := false
  /-- Stamp words latched by a read of F0A0h. -/
  stampLatch : W64 := 0
  deriving DecidableEq, Repr

/-- Who asked for an urgent conversion: a register write, the watch program, or a watch program that has ended since. -/
inductive UrgentBy where
  | register
  | program
  | gone
  deriving DecidableEq, Repr

/-- A conversion in progress: its channel and who asked for it, with the reference (0 internal, 1 external, 2 supply) and the gain
that it began with (R407, R412). -/
structure ConvCur where
  channel : Nat
  urgent : Option UrgentBy
  ref : Nat := 0
  gain : Nat := 1
  deriving DecidableEq, Repr

/-- Result of a channel (R414) and its window's state (R415). -/
structure ChanRes where
  raw : W16 := 0
  filt : W16 := 0
  sat : Bool := false
  refFault : Bool := false
  valid : Bool := false
  /-- A sample has entered the filter since its reset. -/
  primed : Bool := false
  stamp : W32 := 0
  /-- 0 inside, 1 below, 2 above; consecutive samples above, below and inside. -/
  win : Nat := 0
  nHi : Nat := 0
  nLo : Nat := 0
  nIn : Nat := 0
  deriving DecidableEq, Repr

/-- The converter and its sequencer (R407–R415). -/
structure AdcSt where
  /-- The hub has read the configuration: its sequencer settings apply (R405). -/
  configured : Bool := false
  /-- 0 list, 1 loop table. -/
  mode : Nat := 1
  run : Bool := false
  intRefOn : Bool := false
  listLast : Nat := 0
  loopLast : Nat := 0
  listPeriod : Nat := 0
  entry : Nat := 0
  /-- Repeats of the loop entry done; its delay is running. -/
  reps : Nat := 0
  delaying : Bool := false
  passActive : Bool := false
  passPending : Bool := false
  cur : Option ConvCur := none
  refWait : Bool := false
  /-- A change takes effect at the end of the conversion in progress (R412). -/
  restart : Bool := false
  urgent : List (Nat × UrgentBy) := []
  urgentFull : Bool := false
  selfFail : Bool := false
  passes : BitVec 19 := 0
  list : Store W32 := []
  loop : Store W32 := []
  chcfg : Store W32 := []
  win : Store W64 := []
  res : Store ChanRes := []
  /-- ADC_URGENT_RES: code, sat, ref_fault, valid. -/
  resCode : W16 := 0
  resSat : Bool := false
  resFault : Bool := false
  resValid : Bool := false
  /-- Internal reference on and ready, stamp of its last use; external reference ready; 0003h raised since. -/
  intReady : Bool := false
  intUsed : W64 := 0
  extReady : Bool := false
  extTold : Bool := false
  deriving DecidableEq, Repr

structure LmpSt where
  sensors : Store SensorSt := []
  regions : Store RegionSt := []
  /-- THM_SENSOR_QUERY. -/
  query : BitVec 9 := 0
  queryValid : Bool := false
  watch : WatchSt := {}
  notes : List NoteRec := []
  noteCnt : W32 := 0
  /-- Duty of each output that a program has set; the failsafe duty applies to the others. -/
  duty : Store Nat := []
  rpm : W16 := 0
  stale : Bool := false
  staleTold : Bool := false
  /-- Seconds without a pulse. -/
  quiet : Nat := 0
  deriving DecidableEq, Repr

/-! ## Configuration flash, start-up and firmware (chapter "Start-up, configuration and firmware update") -/

/-- A boot header copy (R427). -/
structure BootHdr where
  seq : W32 := 0
  active : Nat := 0
  /-- 0 committed, 1 trial, 2 committing. -/
  state : Nat := 0
  /-- 0 empty, 1 valid, 2 rejected, 3 writing, of slots A and B. -/
  statusA : Nat := 0
  statusB : Nat := 0
  deriving DecidableEq, Repr

/-- A firmware slot: header and payload bytes as written (R437). -/
structure FwSlot where
  hdr : Bytes := []
  data : Bytes := []
  /-- The default Lamplighter program of component 6, decrypted. -/
  dflt : List W16 := []
  deriving DecidableEq, Repr

/-- An entry of the configuration report (R436). -/
structure ReportEnt where
  tag : Nat
  inst : Nat
  outcome : Nat
  value : W64
  deriving DecidableEq, Repr

structure NorSt where
  /-- The two halves of the configuration partition. -/
  half0 : Bytes := []
  half1 : Bytes := []
  /-- The two boot header copies. -/
  boot0 : BootHdr := { seq := 1, statusA := 1 }
  boot1 : BootHdr := {}
  slotA : FwSlot := {}
  slotB : FwSlot := {}
  /-- CFG_STATUS and the report. -/
  half : Nat := 0
  usable : Bool := false
  digestOk : Bool := false
  tailBad : Bool := false
  pending : Bool := false
  report : List ReportEnt := []
  digest : Bytes := []
  /-- Fields of tags 0403h and 0406h and other byte strings in force, by tag × 256 + instance. -/
  strings : Store Bytes := []
  /-- CFG_BOOT_STAT: cause, step reached, slot, fallback, recovery, duration in ms. -/
  cause : Nat := 0
  step : Nat := 0
  slot : Nat := 0
  fallback : Bool := false
  recovery : Bool := false
  /-- The flash, and with it the Lantern data partition, could not be read at the last start (R429). -/
  dataGone : Bool := false
  duration : W32 := 0
  /-- Step in progress, 0 outside a start. -/
  at_ : Nat := 0
  /-- Wake sources recorded during a start (R431), and a standby command that waits for serving. -/
  wakes : List Nat := []
  standbyWaits : Bool := false
  /-- CFG_FW_STAT.state: 0 idle, 1 receiving, 2 verified, 3 trial, 4 committing, 5 reverting; the components handed over, in
  order, and confirmed; stamps of the handovers. -/
  fwState : Nat := 0
  /-- Next offset of the transfer. -/
  nextOff : Nat := 0
  handed : List Nat := []
  confirmed : List Nat := []
  handedUs : Store W64 := []
  deriving DecidableEq, Repr

/-! ## Pins (chapter "Pins, electrical characteristics and package") -/

structure PinSt where
  /-- Levels: PERST_N, ALERT_N and MGT_PHY_RST_N. -/
  perstN : Bool := false
  alertN : Bool := true
  phyRstN : Bool := false
  /-- The SMBus logic is awake. -/
  smbAwake : Bool := false
  deriving DecidableEq, Repr

/-! ## The device and the queue of waiting commands -/

/-- Everything the spec gives the block. -/
structure Dev where
  time : TimeSt := {}
  log : LogSt := {}
  grid : GridSt := {}
  num : NumSt := {}
  arr : ArrSt := {}
  rel : RelSt := {}
  att : AttSt := {}
  pwr : PwrSt := {}
  lmp : LmpSt := {}
  adc : AdcSt := {}
  nor : NorSt := {}
  pins : PinSt := {}
  sec : SecSt := {}
  hif : HifSt := {}
  plc : PlcSt := {}
  srv : SrvSt := {}
  fab : FabSt := {}
  /-- HBM: bytes of tenant regions at tenant × 2^48 + offset, where not 0. -/
  hbm : List Host.Cell := []
  /-- Configuration fields in force where not at their default: tag × 256 + instance (R433, R434). -/
  cfg : Store Nat := []
  /-- What the block has sent out, oldest first. -/
  out : List Output := []
  /-- Free values taken so far: the model's own field (log entry 4). -/
  freeCtr : Nat := 0
  deriving DecidableEq, Repr

/-- The block and the commands that wait for it, first in, first out. -/
structure State where
  dev : Dev
  pending : List Instr
  deriving DecidableEq, Repr

/-- The block right after reset: every field at the value the spec states, or at the value the log names; no command
waits. -/
def State.reset : State := { dev := {}, pending := [] }

end Sys2Proof.Machine
end

