-- ==== Sys2Proof/Machine/Ops.lean ====
section
/-! DEFINITION. Named operations on the device: events (R7–R9, R139, R299), interrupts (R297), unit IDs (R2), access to
cores, dies and planes, free values. -/

namespace Sys2Proof.Machine

abbrev Out := Host.Outcome State Fault Refusal

/-- Run an effect on the device; the queue stays as it is. -/
def run (f : Dev → Dev) (s : State) : Out := .next { s with dev := f s.dev }

/-! Unit IDs (R2). -/

def uCore (k : Nat) : W32 := BitVec.ofNat 32 k
def uPlane (pid : Nat) : W32 := BitVec.ofNat 32 (0x10000000 + pid)
def uDie (d : Nat) : W32 := BitVec.ofNat 32 (0x20000000 + d)
def uPipe (p : Nat) : W32 := BitVec.ofNat 32 (0x30000000 + p)
def uHbm (c : Nat) : W32 := BitVec.ofNat 32 (0x40000000 + c)
def uPort (p : Nat) : W32 := BitVec.ofNat 32 (0x50000000 + p)
def uCp (c : Nat) : W32 := BitVec.ofNat 32 (0x60000000 + c)
def uStage (n : Nat) : W32 := BitVec.ofNat 32 (0x70000000 + n)
def uSensor (n : Nat) : W32 := BitVec.ofNat 32 (0x80000000 + n)
def uAdc (n : Nat) : W32 := BitVec.ofNat 32 (0x90000000 + n)
def uFn (n : Nat) : W32 := BitVec.ofNat 32 (0xA0000000 + n)
def uLantern : W32 := 0xB0000000
def uLamp : W32 := 0xC0000000
def uDevice : W32 := 0xF0000000

/-- A unit ID is valid: its kind is not reserved and its index lies in the range of R2. -/
def unitOk (u : W32) : Bool :=
  let k := bits u.toNat 28 4
  let i := bits u.toNat 0 16
  let hi := bits u.toNat 16 12
  match k with
  | 0 => hi = 0 ∧ i < 272
  | 1 => bits u.toNat 8 4 = 0 ∧ bits u.toNat 0 8 < 200
  | 2 => hi = 0 ∧ i < 16
  | 3 => hi = 0 ∧ i < 68
  | 4 => hi = 0 ∧ i < 128
  | 5 => hi = 0 ∧ i < 8
  | 6 => hi = 0 ∧ i < 8
  | 7 => hi = 0 ∧ i < 12
  | 8 => hi = 0 ∧ i < 360
  | 9 => hi = 0 ∧ i < 24
  | 10 => hi = 0 ∧ i < 64
  | 11 | 12 | 15 => bits u.toNat 0 28 = 0
  | _ => false

/-- Key of a tile-plane: bits [27:0] of its unit ID. -/
def planeKey (die tile plane : Nat) : Nat := die * 2 ^ 24 + tile * 2 ^ 12 + plane
def pidOf (p : PlaneId) : Nat := planeKey p.die p.tile p.plane
def pkDie (k : Nat) : Nat := bits k 24 4
def pkTile (k : Nat) : Nat := bits k 12 12
def pkPlane (k : Nat) : Nat := bits k 0 8

/-! Free values. -/

/-- Take the next free value of w bits. -/
def fresh (w : Nat) (d : Dev) : BitVec w × Dev :=
  (Config.freeBits d.freeCtr w, { d with freeCtr := d.freeCtr + 1 })

/-- n random bytes from the Lantern's DRBG. -/
def drbg (n : Nat) (d : Dev) : Bytes × Dev := (padTo n (Config.drbg d.freeCtr), { d with freeCtr := d.freeCtr + 1 })

/-! Quantiser generators (R56): unit k is core k, or pipeline k − 272. -/

/-- Seed a unit's generator with 128 bits of the Lantern's DRBG. -/
def rngSeed (unit : Nat) (d : Dev) : Dev :=
  let r := drbg 16 d
  { r.2 with num.rng := sPut {} r.2.num.rng unit ⟨BitVec.ofNat 128 (ofLe r.1), 0⟩ }

/-- Where a unit's next draws stand among the draws of every seeding. -/
def rngAt (d : Dev) (unit : Nat) : Nat := let g := sGet {} d.num.rng unit; g.seed.toNat * 2 ^ 33 + g.draws

/-- n draws of a group or block have been taken; 2³² draws after a seeding the next group's come from a new one. -/
def rngUsed (unit n : Nat) (d : Dev) : Dev :=
  if n = 0 then d else
    let g := sGet {} d.num.rng unit
    if g.draws + n ≥ 2 ^ 32 then rngSeed unit d
    else { d with num.rng := sPut {} d.num.rng unit { g with draws := g.draws + n } }

/-! Outputs. -/

def emit (o : Output) (d : Dev) : Dev := { d with out := d.out ++ [o] }

/-! Host functions and interrupts. -/

def getFn (d : Dev) (n : Nat) : FnSt := sGet {} d.hif.fns n
def setFn (n : Nat) (f : FnSt) (d : Dev) : Dev := { d with hif.fns := sPut {} d.hif.fns n f }

/-- Signal an MSI-X vector: a masked vector sets its PBA bit and is delivered when unmasked (R297). -/
def signalVec (n vec : Nat) (d : Dev) : Dev :=
  let f := getFn d n
  if (sGet {} f.msix vec).masked then setFn n { f with pba := f.pba ||| (1 <<< vec) } d
  else emit (.msix n vec) d

/-! Events. -/

/-- Append a record to the device log: the last 65,536 records stay (R303). An event of severity 3 or 4 that is logged
asserts ALERT_N (R450). -/
def logAppend (r : EventRec) (d : Dev) : Dev :=
  let l := d.log.recs ++ [r]
  { d with
    log.recs := l.drop (l.length - 65536), log.count := d.log.count + 1
    pins.alertN := d.pins.alertN && decide (r.sev.toNat < 3) }

/-- Enter a record in the device log; before the log is ready the record is queued (R443). -/
def logRec (r : EventRec) (d : Dev) : Dev :=
  if d.log.ready then logAppend r d else { d with log.queued := d.log.queued ++ [r] }

/-- A record with the stamp of this moment (R8). -/
def mkRec (code : W16) (sev : W8) (tenant : Nat) (unit : W32) (p : BitVec 128) (d : Dev) : EventRec :=
  ⟨code, sev, BitVec.ofNat 8 tenant, unit, d.time.stampUs, p⟩

/-- At least one second since the time kept as stamp + 1; 0 is never. -/
def secondSince (at_ : Nat) (d : Dev) : Bool := at_ = 0 ∨ d.time.stampUs.toNat ≥ at_ - 1 + 1000000

/-- Place a record in its tenant's event window (R299); a full window counts it and C007h, once a second at most,
reports the loss: a record of the same tenant, which meets the full window too. -/
def windowPlace (r : EventRec) (d : Dev) : Dev :=
  let n := r.tenant.toNat
  let f := getFn d n
  if n ≥ 64 ∨ !f.evtEnable then d
  else if f.evtWcnt - f.evtRcnt = 512 then
    let f' := { f with evtLost := BitVec.ofNat 32 (satAdd 32 f.evtLost.toNat 1) }
    if secondSince f.c007At d then
      logRec (mkRec 0xC007 1 n (uFn n) (pay [(16, 1, n), (20, 4, f'.evtLost.toNat)]) d)
        (setFn n { f' with c007At := d.time.stampUs.toNat + 1, evtLost := BitVec.ofNat 32 (satAdd 32 f'.evtLost.toNat 1) } d)
    else setFn n f' d
  else
    let d1 := setFn n { f with
      evtRecs := sSet f.evtRecs (f.evtWcnt.toNat % 512) r
      evtWcnt := f.evtWcnt + 1 } d
    if f.evtIntEn ∧ r.sev.toNat ≥ min 4 f.evtMinSev.toNat then signalVec n f.evtVector.toNat d1 else d1

/-- Raise an event: the log first, then the tenant's window. -/
def raise (code : W16) (sev : W8) (tenant : Nat) (unit : W32) (p : BitVec 128) (d : Dev) : Dev :=
  let r := mkRec code sev tenant unit p d
  windowPlace r (logRec r d)

/-- Count fields of the payload of a NUM or SRV event: byte offset and width (R139, R275). -/
def numCounts (code : W16) : List (Nat × Nat) :=
  if code.toNat ≤ 0x2004 then [(22, 4)]
  else if code.toNat = 0x2005 then [(24, 4)]
  else if code.toNat = 0x2006 then [(20, 4)]
  else if code.toNat = 0x2008 ∨ code.toNat = 0x200B ∨ code.toNat = 0x200C then [(24, 4), (28, 4)]
  else if code.toNat = 0x2009 ∨ code.toNat = 0x200A then [(24, 4)]
  else if code.toNat = 0x2012 ∨ code.toNat = 0xB003 ∨ code.toNat = 0xB004 then [(20, 4)]
  else if code.toNat = 0xB005 then [(16, 4), (20, 4)]
  else if code.toNat = 0xB007 then [(16, 4)]
  else []

/-- The suppressed field of codes 2001h–2005h. -/
def numSuppressed (code : W16) : Option (Nat × Nat) :=
  if code.toNat ≤ 0x2004 then some (26, 4) else if code.toNat = 0x2005 then some (28, 4) else none

def payField (p : BitVec 128) (off w : Nat) : Nat := bits p.toNat (8 * (off - 16)) (8 * w)

def paySet (p : BitVec 128) (off w v : Nat) : BitVec 128 :=
  p - pay [(off, w, payField p off w)] + pay [(off, w, v)]

/-- Payload of the new occurrence with its count fields summed with those held. -/
def numMerge (code : W16) (old new_ : BitVec 128) : BitVec 128 :=
  (numCounts code).foldl
    (fun p f => paySet p f.1 f.2 (satAdd (8 * f.2) (payField old f.1 f.2) (payField new_ f.1 f.2))) new_

def holdKey (k : HoldKey) : Nat := k.code.toNat * 2 ^ 32 + k.model.toNat * 2 ^ 16 + k.layer.toNat

/-- Raise a NUM event under the rate limit of R139: at most one event a second for a combination. -/
def raiseNum (k : HoldKey) (sev : W8) (tenant : Nat) (unit : W32) (p : BitVec 128) (d : Dev) : Dev :=
  match sFind d.num.holds (holdKey k) with
  | some h =>
    let p' := if h.held = 0 then p else numMerge k.code h.payload p
    { d with num.holds := sSet d.num.holds (holdKey k) ⟨sev, BitVec.ofNat 8 tenant, unit, p', h.held + 1⟩ }
  | none =>
    raise k.code sev tenant unit p
      { d with num.holds := sSet d.num.holds (holdKey k) ⟨sev, BitVec.ofNat 8 tenant, unit, p, 0⟩ }

/-- The hold of a combination ends: the occurrences held raise one event and a new hold, none ends the hold (R139). -/
def numHoldEnd (k : HoldKey) (d : Dev) : Dev :=
  match sFind d.num.holds (holdKey k) with
  | none => d
  | some h =>
    if h.held = 0 then { d with num.holds := sDel d.num.holds (holdKey k) }
    else
      let p := match numSuppressed k.code with
        | some f => paySet h.payload f.1 f.2 h.held
        | none => h.payload
      raise k.code h.sev h.tenant.toNat h.unit p
        { d with num.holds := sSet d.num.holds (holdKey k) { h with held := 0 } }

def layerKey (model gen layer : W16) : Nat := model.toNat * 2 ^ 32 + gen.toNat * 2 ^ 16 + layer.toNat

/-! Cores. -/

def getCore (d : Dev) (k : Nat) : CoreSt := sGet {} d.grid.cores k
def setCore (k : Nat) (c : CoreSt) (d : Dev) : Dev := { d with grid.cores := sPut {} d.grid.cores k c }
def modCore (k : Nat) (f : CoreSt → CoreSt) (d : Dev) : Dev := setCore k (f (getCore d k)) d

/-- Physical core of a logical one (R160): row r, column c at r × 17 + c until remapped; 272 is none. -/
def physCore (d : Dev) (l : Nat) : Nat := (sFind d.grid.map l).getD (l / 16 * 17 + l % 16)

/-- Logical core a physical one holds. -/
def logicalCore (d : Dev) (k : Nat) : Option Nat := (List.range 256).find? fun l => physCore d l = k

/-- Core cycles since the island left Off: the frequency in force counts 25 per unit and µs (R164). -/
def coreCycles (d : Dev) (c : CoreSt) : W64 :=
  c.cycBase + (d.time.stampUs - c.cycFrom) * 25 * BitVec.ofNat 64 c.actual.toNat

/-- Add a trace record when tracing is enabled: the ring holds 16 KiB of 16-byte records (R178). -/
def addTrace (d : Dev) (kind : Nat) (c : CoreSt) : CoreSt :=
  if c.traceEn then
    let t := c.trace ++ [⟨coreCycles d c, c.pc, kind⟩]
    { c with trace := t.drop (t.length - 1024) }
  else c

/-! Clocks of cores (R28, R164, R387). -/

def getStage (d : Dev) (n : Nat) : StageSt := sGet {} d.pwr.stages n

/-- Highest core frequency in MHz at a VCORE in mV (R387); pipelines follow the same line up to 1,200 MHz. -/
def freqAt (mv : Nat) : Nat := if mv < 600 then 0 else 600 + (mv - 600) * 4

/-- VCORE of a quadrant in force. -/
def vcore (d : Dev) (q : Nat) : Nat := let s := getStage d q; if s.enabled && !s.lost then s.target else 0

/-- Ceilings of a quadrant: cores in 25 MHz units, pipelines in MHz. -/
def coreCeilOf (d : Dev) (q : Nat) : Nat := min d.pwr.coreCeil (72 - 4 * sGet 0 d.pwr.quad q)
def pipeCeilOf (d : Dev) (q : Nat) : Nat := min d.pwr.pipeCeil (1200 - 75 * sGet 0 d.pwr.quad q)

/-- Frequency a core may run at now, in 25 MHz units: the lower of what is requested and the ceiling, as far as its voltage allows. -/
def coreMay (d : Dev) (k req : Nat) : Nat := min req (min (coreCeilOf d (k / 68)) (freqAt (vcore d (k / 68)) / 25))
def coreTarget (d : Dev) (k : Nat) : Nat := coreMay d k (getCore d k).req.toNat

/-- The frequency in force is to change: the core stalls until it has. -/
def mustRelock (d : Dev) (k : Nat) (c : CoreSt) : Bool := decide (c.actual ≠ 0) && decide (coreMay d k c.req.toNat ≠ c.actual.toNat)

/-! Units. -/

def getUnit (d : Dev) (u : W32) : UnitRec := sGet {} d.rel.units u.toNat
def setUnit (u : W32) (x : UnitRec) (d : Dev) : Dev := { d with rel.units := sPut {} d.rel.units u.toNat x }

/-- Physical pipeline of a logical one (R180): (n >> 4) × 17 + (n & 15) until remapped; 68 is none. -/
def physPipe (d : Dev) (n : Nat) : Nat := (sFind d.att.map n).getD (n / 16 * 17 + n % 16)
def logicalPipe (d : Dev) (p : Nat) : Option Nat := (List.range 64).find? fun n => physPipe d n = p

/-- A physical core is retired. -/
def coreRetired (d : Dev) (k : Nat) : Bool := decide ((sGet {} d.rel.units (uCore k).toNat).state = 2)

/-! Dies, tiles, planes. -/

def getDie (d : Dev) (n : Nat) : DieSt := sGet {} d.arr.dies n
def setDie (n : Nat) (x : DieSt) (d : Dev) : Dev := { d with arr.dies := sPut {} d.arr.dies n x }
def modDie (n : Nat) (f : DieSt → DieSt) (d : Dev) : Dev := setDie n (f (getDie d n)) d
def getTile (d : Dev) (key : Nat) : TileRec := sGet {} d.arr.tiles key
def setTile (key : Nat) (x : TileRec) (d : Dev) : Dev := { d with arr.tiles := sPut {} d.arr.tiles key x }
def tileKey (pid : Nat) : Nat := pkDie pid * 4096 + pkTile pid
def getPlane (d : Dev) (pid : Nat) : PlaneSt := sGet {} d.arr.planes pid
def setPlane (pid : Nat) (x : PlaneSt) (d : Dev) : Dev := { d with arr.planes := sPut {} d.arr.planes pid x }
def modPlane (pid : Nat) (f : PlaneSt → PlaneSt) (d : Dev) : Dev := setPlane pid (f (getPlane d pid)) d

/-- State code of a tile-plane: planes 160–199 are Store unless retired (R61); every plane of a retired tile or die is
Retired (R89). -/
def planeState (d : Dev) (pid : Nat) : Nat :=
  let st := (getPlane d pid).state
  if (getDie d (pkDie pid)).retired || (getTile d (tileKey pid)).retired then 7 else if pkPlane pid ≥ 160 ∧ st ≠ 7 then 8 else st

/-- Change a tile-plane's state with 3003h; a Retired plane stays Retired (R89). Owner: 1 placement, 2 reliability,
3 sequencer. -/
def planeTo (owner new_ : Nat) (pid : Nat) (d : Dev) : Dev :=
  let old := planeState d pid
  if old = 7 ∨ old = new_ then d
  else raise 0x3003 1 0 (uPlane pid) (pay [(16, 1, old), (17, 1, new_), (18, 1, owner)])
    (modPlane pid (fun p => { p with state := new_, suspectUs := if new_ = 6 then d.time.stampUs.toNat else p.suspectUs }) d)

/-! Power domains (R391). -/

def getDom (d : Dev) (n : Nat) : DomSt := sGet {} d.pwr.doms n
def setDom (n : Nat) (x : DomSt) (d : Dev) : Dev := { d with pwr.doms := sPut {} d.pwr.doms n x }
def modDom (n : Nat) (f : DomSt → DomSt) (d : Dev) : Dev := setDom n (f (getDom d n)) d

/-- Start waking a domain from Sleep or below; a wake that meets an entry stops it at the next step (R394). -/
def domWake (n : Nat) (d : Dev) : Dev :=
  let x := getDom d n
  if x.entry.isSome then setDom n { x with wakeAsked := true } d
  else if x.wake ≠ 0 ∨ x.state ≤ 1 ∨ (345 ≤ n ∧ n < 349 ∧ d.rel.hbmOff.contains (n - 345)) then d
  else setDom n { x with wake := 1, rerun := false } d

/-- PWR_WAKE. -/
def wakeRecord (source dom : Nat) (d : Dev) : Dev := { d with pwr.wakeSource := source, pwr.wakeDom := dom }

/-- Domains that serve: network-on-chip, control processors, HBM. A wake from below Idle is recorded
(R29, R284, R332). -/
def wakeServing (source : Nat) (d : Dev) : Dev :=
  (List.range 9).foldl (fun x i =>
    let n := 340 + i
    if (getDom x n).state ≥ 2 ∨ (getDom x n).entry.isSome then domWake n (wakeRecord source n x) else x) d

/-- A request to a domain: an idle island of it runs again, and one below Idle, or entering a state, is asked to wake (R29). -/
def domAsk (n : Nat) (d : Dev) : Dev :=
  let x := sGet {} d.pwr.islands n
  domWake n (if x.idle then { d with pwr.islands := sPut {} d.pwr.islands n { x with idle := false } } else d)

/-- Requests to a domain are held (R29): it is below Idle, or enters a state; every island that can address it is told at the entry's
start. -/
def domHolds (d : Dev) (n : Nat) : Bool := let x := getDom d n; decide (x.state ≥ 2) || x.entry.isSome

def getHandle (d : Dev) (i : Nat) : HandleEnt := sGet {} d.arr.handles i
def setHandle (i : Nat) (h : HandleEnt) (d : Dev) : Dev := { d with arr.handles := sPut {} d.arr.handles i h }

end Sys2Proof.Machine
end

