-- ==== Sys2Proof/Machine/ConfigBlock.lean ====
section
/-! DEFINITION. The configuration fields in force and their defaults (R434), and the HBM regions they lay out. -/

namespace Sys2Proof.Machine

/-- Default of a configuration field (field table of R434). Byte-string fields are little-endian numbers. -/
def cfgDefault (tag inst : Nat) : Nat :=
  match tag with
  | 0x0101 => 450 | 0x0102 => 13750 | 0x0103 => 1000 | 0x0104 => 100 | 0x0105 => 10
  | 0x0106 => 100 | 0x0107 => 82 | 0x0108 => 90 | 0x0109 => 110 | 0x0110 => 60
  | 0x0201 => 6000 | 0x0202 => 40 | 0x0203 => 64 | 0x0204 => 20000 | 0x0205 => 10 | 0x0206 => 200
  | 0x0207 => 1000000 | 0x0208 => 10
  | 0x0301 => if inst = 0 then 1048576 else 16384
  | 0x0302 => 0 | 0x0303 => 60 | 0x0304 => 0 | 0x0305 => 0 | 0x0306 => 0
  | 0x0401 => 0 | 0x0402 => 0 | 0x0403 => 0 | 0x0404 => 7340 | 0x0405 => 0x5A
  | 0x0501 => 0 | 0x0502 => 0 | 0x0503 => 0x010101 | 0x0504 => 0x0707
  | 0x0601 => 1 | 0x0602 => 1 | 0x0604 => 0 | 0x0608 => 25 | 0x0609 => 1024 | 0x060A => 2
  | _ => 0

/-- A configuration field in force. -/
def cfgGet (d : Dev) (tag inst : Nat) : Nat := (sFind d.cfg (tag * 256 + inst)).getD (cfgDefault tag inst)

/-- Throttle point of a region in °C (tags 0106h–0109h). -/
def throttlePoint (d : Dev) (r : Nat) : Nat :=
  cfgGet d (if r < 4 then 0x0106 else if r < 20 then 0x0107 else if r < 24 then 0x0108 else 0x0109) 0

/-- GiB in bytes. -/
def gib : Nat := 2 ^ 30

/-- HBM channels that are retired or, in a stack that stayed Off, count as retired (R428). -/
def retiredChannels (d : Dev) : Nat :=
  (List.range 128).countP fun c => d.rel.hbmOff.contains (c / 32) || decide ((getUnit d (uHbm c)).state = 2)

/-- HBM region of a tenant in bytes; tenant 0 receives what remains of 192 GB (R434), less the 1.5 GB of each retired channel (R345; log
entry 195). -/
def regionSize (d : Dev) (t : Nat) : Nat :=
  if t = 0 then 192000000000 - 1500000000 * retiredChannels d - ((List.range 63).foldl (fun s i => s + cfgGet d 0x0302 (i + 1)) 0) * gib
  else cfgGet d 0x0302 t * gib

/-- A range lies in the regions of a tenant (R176). -/
def inRegion (d : Dev) (t off len : Nat) : Bool := decide (off + len ≤ regionSize d t)

/-- Key of a byte of a tenant's region. -/
def hbmKey (t off : Nat) : Nat := t * 2 ^ 48 + off

def hbmGet (d : Dev) (t off n : Nat) : Bytes := getBytes d.hbm (hbmKey t off) n
def hbmPut (t off : Nat) (bs : Bytes) (d : Dev) : Dev := { d with hbm := putBytes d.hbm (hbmKey t off) bs }

end Sys2Proof.Machine
end

