-- ==== Sys2Proof/Machine/FabricOps.lean ====
section
/-! DEFINITION. Fabric operations: the place in the flotilla and the port roles (R307), frames and their CRC (R308),
credits, priorities and sending (R310, R311), routing (R320, R321), flooding, port states (R313) and the view (R316). -/

namespace Sys2Proof.Machine

/-! Place in the flotilla (R307). -/

def flotillaId (d : Dev) : Nat := cfgGet d 0x0501 0
def standalone (d : Dev) : Bool := flotillaId d = 0
def selfMember (d : Dev) : Nat := cfgGet d 0x0502 0 % 64
/-- Size of a dimension 0–2. -/
def dimSize (d : Dev) (i : Nat) : Nat := max 1 (bits (cfgGet d 0x0503 0) (8 * i) 8)
def memberCount (d : Dev) : Nat := dimSize d 0 * dimSize d 1 * dimSize d 2
/-- Coordinate of a member in a dimension. -/
def coord (d : Dev) (m i : Nat) : Nat :=
  match i with
  | 0 => m % dimSize d 0
  | 1 => m / dimSize d 0 % dimSize d 1
  | _ => m / (dimSize d 0 * dimSize d 1)
/-- The member one step from m in a dimension: up (+) or down (−), round the ring. -/
def stepFrom (d : Dev) (m i : Nat) (up : Bool) : Nat :=
  let n := dimSize d i
  let c := coord d m i
  let c' := if up then (c + 1) % n else (c + n - 1) % n
  let unit := match i with
    | 0 => 1
    | 1 => dimSize d 0
    | _ => dimSize d 0 * dimSize d 1
  m - c * unit + c' * unit

/-- Role of a port: 0–5 for +x to −z, 6 spare, 7 unused. -/
def portRole (d : Dev) (p : Nat) : Nat :=
  if p < 6 then (if dimSize d (p / 2) = 1 then 7 else if dimSize d (p / 2) = 2 ∧ p % 2 = 1 then 6 else p)
  else if bits (cfgGet d 0x0504 0) (8 * (p - 6)) 8 < 6 then 6 else 7
/-- The direction port a spare backs. -/
def backed (d : Dev) (p : Nat) : Option Nat :=
  if portRole d p ≠ 6 then none else if p < 6 then some (p - 1) else some (bits (cfgGet d 0x0504 0) (8 * (p - 6)) 8)
/-- The member a port's role implies as its peer. -/
def impliedPeer (d : Dev) (p : Nat) : Option Nat :=
  match portRole d p with
  | 7 => none
  | 6 => (backed d p).map fun q => stepFrom d (selfMember d) (q / 2) (q % 2 = 0)
  | q => some (stepFrom d (selfMember d) (q / 2) (q % 2 = 0))
/-- Spares of a direction port. -/
def sparesOf (d : Dev) (p : Nat) : List Nat := (List.range 8).filter fun s => backed d s = some p

def getPort (d : Dev) (p : Nat) : PortSt := sGet {} d.fab.ports p
def setPort (p : Nat) (x : PortSt) (d : Dev) : Dev := { d with fab.ports := sPut {} d.fab.ports p x }
def modPort (p : Nat) (f : PortSt → PortSt) (d : Dev) : Dev := setPort p (f (getPort d p)) d

/-! Frames (R308). -/

/-- CRC-32 of the IEEE 802.3 frame check sequence. -/
def crc32 (bs : Bytes) : Nat := (bs.foldl (crcByteRefl 0xEDB88320) 0xFFFFFFFF) ^^^ 0xFFFFFFFF

def fType (f : Frame) : Nat := fld f.hdr 0 1
def fVl (f : Frame) : Nat := bits (fld f.hdr 1 1) 0 3
def fLast (f : Frame) : Bool := bitAt (fld f.hdr 1 1) 3
def fLen (f : Frame) : Nat := fld f.hdr 2 2
def fSeq (f : Frame) : W16 := BitVec.ofNat 16 (fld f.hdr 4 2)
def fAck (f : Frame) : W16 := BitVec.ofNat 16 (fld f.hdr 6 2)
def fTenant (f : Frame) : Nat := fld f.hdr 8 1
def fSrc (f : Frame) : Nat := fld f.hdr 9 1
def fDst (f : Frame) : Nat := fld f.hdr 10 1
def fHops (f : Frame) : Nat := fld f.hdr 11 1
def fMsg (f : Frame) : Nat := fld f.hdr 12 4
def fFrag (f : Frame) : Nat := fld f.hdr 16 2
def fFrags (f : Frame) : Nat := fld f.hdr 18 2
/-- A field of the header given by its byte offset 20–31. -/
def fSpec (f : Frame) (off n : Nat) : Nat := fld f.hdr off n

def mkHdr (type vl : Nat) (last : Bool) (len tenant src dst hops msg frag frags : Nat) (spec : Bytes) : Bytes :=
  toLe 1 type ++ toLe 1 (vl + 8 * b2n last) ++ toLe 2 len ++ toLe 4 0 ++ toLe 1 tenant ++ toLe 1 src ++ toLe 1 dst ++ toLe 1 hops
    ++ toLe 4 msg ++ toLe 2 frag ++ toLe 2 frags ++ padTo 12 spec

/-- A header with its sequence and ack fields set. -/
def hdrSeq (h : Bytes) (seq ack : W16) : Bytes := h.take 4 ++ toLe 2 seq.toNat ++ toLe 2 ack.toNat ++ h.drop 8
def hdrVl (h : Bytes) (vl : Nat) : Bytes := h.take 1 ++ toLe 1 (fld h 1 1 / 8 * 8 + vl) ++ h.drop 2
def hdrHops (h : Bytes) (n : Nat) : Bytes := h.take 11 ++ toLe 1 n ++ h.drop 12
def hdrBudget (h : Bytes) (b : Nat) : Bytes := h.take 28 ++ toLe 4 b

def withCrc (h p : Bytes) : Frame := ⟨h, p, BitVec.ofNat 32 (crc32 (h ++ p))⟩
def crcGood (f : Frame) : Bool := decide (f.crc.toNat = crc32 (f.hdr ++ f.payload) ∧ f.hdr.length = 32)

/-- VLs a type allows. -/
def vlsOf (type : Nat) : List Nat :=
  match type with
  | 0x01 | 0x02 | 0x03 | 0x04 => [7]
  | 0x10 | 0x11 | 0x12 | 0x13 | 0x14 | 0x15 => [0]
  | 0x20 | 0x21 | 0x22 => [1]
  | 0x30 => [2, 3]
  | 0x31 => [4, 5]
  | 0x40 | 0x41 => [6]
  | _ => []
def flooded (type : Nat) : Bool := decide (0x11 ≤ type ∧ type ≤ 0x15)

/-- Credits of 256 B a frame takes (R310). -/
def creditsOf (f : Frame) : Nat := ceilDiv (36 + f.payload.length) 256
/-- Receiver buffer of a VL in credits. -/
def vlBuffer (vl : Nat) : Nat := match vl with
  | 0 => 128
  | 1 => 256
  | _ => 768

/-! Sending. -/

/-- Frame types a port state carries. -/
def stateCarries (state type : Nat) : Bool :=
  match state with
  | 3 => true
  | 2 | 6 => decide (type ≤ 0x04) || type = 0x10
  | 4 => decide (type ≤ 0x04) || type = 0x10 || type = 0x11 || type = 0x20
  | _ => false

/-- Hand a frame to the serialiser. -/
def putOut (p : Nat) (f : Frame) (d : Dev) : Dev := emit (.frame p (fType f) (fVl f) (fSeq f).toNat (f.hdr ++ f.payload ++ toLe 4 f.crc.toNat)) d

/-- A VL7 frame: not sequenced, not credited; its ack field names the next sequence expected. -/
def sendLink (p type : Nat) (payload : Bytes) (d : Dev) : Dev :=
  let x := getPort d p
  if !stateCarries x.state type then d else
    let h := hdrSeq (mkHdr type 7 true payload.length 0 (selfMember d) 0xFF 32 0 0 1 []) 0 x.rxNext
    putOut p (withCrc h payload) (setPort p { x with unacked := 0 } d)

/-- Credits of a VL that may be consumed now. -/
def creditLeft (x : PortSt) (vl : Nat) : Nat := (sGet 0 x.granted vl - sGet 0 x.used vl).toNat

/-- A frame may be sent now: credits, 4,096 frames, 4 MiB unacknowledged (R310, R311). -/
def maySend (x : PortSt) (f : Frame) : Bool :=
  decide (creditsOf f ≤ creditLeft x (fVl f) ∧ x.txQ.length < 4096
    ∧ x.txQ.foldl (fun a g => a + 36 + g.payload.length) 0 + 36 + f.payload.length ≤ 4194304)

/-- Transmit a sequenced frame: it takes the next sequence and stays until acknowledged. -/
def transmit (p : Nat) (f : Frame) (d : Dev) : Dev :=
  let x := getPort d p
  let g := withCrc (hdrSeq f.hdr x.txSeq x.rxNext) f.payload
  putOut p g (setPort p { x with
    txSeq := x.txSeq + 1, txQ := x.txQ ++ [g], used := sSet x.used (fVl f) (sGet 0 x.used (fVl f) + BitVec.ofNat 32 (creditsOf f))
    unacked := 0 } d)

/-- Turns of the weighted round robin: VL4 and VL5 four each, VL2 and VL3 three, VL6 two, VL1 one. -/
def rrTurns : List Nat := [4, 5, 2, 3, 6, 1, 4, 5, 2, 3, 4, 5, 6, 2, 3, 4, 5]

/-- The next waiting frame to send and the turn after it: VL0 first, then by weighted round robin among those that may go;
frames of one VL stay in order. -/
def pickFrame (x : PortSt) : Option (Frame × Nat) :=
  let first : Nat → Option Frame := fun vl => match x.waitQ.find? fun f => fVl f = vl with
    | some f => if maySend x f then some f else none
    | none => none
  match first 0 with
  | some f => some (f, x.turn)
  | none => (List.range 17).findSome? fun i =>
    let t := (x.turn + i) % 17
    (first (rrTurns.getD t 0)).map fun f => (f, (t + 1) % 17)

def drainN : Nat → Nat → Dev → Dev
  | 0, _, d => d
  | n + 1, p, d =>
    let x := getPort d p
    match pickFrame x with
    | some (f, t) => drainN n p (transmit p f (setPort p { x with waitQ := x.waitQ.erase f, turn := t } d))
    | none => d
/-- Send the waiting frames of a port that may go. -/
def drainPort (p : Nat) (d : Dev) : Dev := drainN (getPort d p).waitQ.length p d

/-- Give a sequenced frame to a port; none carries the tag of a tenant being scrubbed (R378). -/
def sendOn (p : Nat) (f : Frame) (d : Dev) : Dev :=
  if !stateCarries (getPort d p).state (fType f) || decide (sGet 0 d.sec.slots (fTenant f) = 2) then d
  else drainPort p (modPort p (fun x => { x with waitQ := x.waitQ ++ [f] }) d)

/-! Routing (R320, R321). -/

/-- The port that carries a direction's traffic: the direction port while it is Up, or a spare that carries for it. -/
def carrier (d : Dev) (p : Nat) : Option Nat :=
  if (getPort d p).state = 3 ∧ (getPort d p).carrying then some p
  else (sparesOf d p).find? fun s => (getPort d s).carrying

/-- State of a direction as another member announced it: some port of its role or a spare is Up towards the neighbour. -/
def announcedUp (d : Dev) (m n : Nat) : Bool :=
  match sFind d.fab.announced m with
  | some ps => ps.any fun x => decide (x.1 = 3 ∧ x.2 = n)
  | none => false

/-- A link between neighbours is usable. -/
def linkUp (d : Dev) (m i : Nat) (up : Bool) : Bool :=
  let n := stepFrom d m i up
  if m = selfMember d then (List.range 8).any fun p => (getPort d p).state = 3 && decide ((getPort d p).peer = n)
  else announcedUp d m n

/-- Steps of a dimension on a torus or mesh route: shorter way, + on a tie; round the other way when a link is down. -/
def dimWay (d : Dev) (mesh : Bool) (src dst i : Nat) : Option Bool :=
  let n := dimSize d i
  let a := coord d src i
  let b := coord d dst i
  let fwd := (b + n - a) % n
  let walk : Bool → Bool := fun up =>
    let k := if up then fwd else n - fwd
    ((List.range k).foldl (fun (acc : Nat × Bool) _ => (stepFrom d acc.1 i up, acc.2 && linkUp d acc.1 i up)) (src, true)).2
  if mesh then (let up := decide (a < b); if walk up then some up else none)
  else
    let pref := decide (2 * fwd ≤ n)
    if walk pref then some pref else if walk (!pref) then some (!pref) else none

/-- Place of a member with one coordinate replaced by another member's. -/
def withCoord (d : Dev) (m dst i : Nat) : Nat :=
  let unit := match i with
    | 0 => 1
    | 1 => dimSize d 0
    | _ => dimSize d 0 * dimSize d 1
  m - coord d m i * unit + coord d dst i * unit

/-- A route exists from this member. -/
def reachable (d : Dev) (mesh : Bool) (dst : Nat) : Bool :=
  ((List.range 3).foldl (fun (acc : Nat × Bool) i =>
    if coord d acc.1 i = coord d dst i then acc else
      (withCoord d acc.1 dst i, acc.2 && (dimWay d mesh acc.1 dst i).isSome)) (selfMember d, true)).2

/-- The first hop towards a member: dimension and way. -/
def firstHop (d : Dev) (mesh : Bool) (dst : Nat) : Option (Nat × Bool) :=
  match (List.range 3).find? fun i => coord d (selfMember d) i ≠ coord d dst i with
  | none => none
  | some i => (dimWay d mesh (selfMember d) dst i).map fun w => (i, w)

/-- Hops of a ferry route. -/
def hopsTo (d : Dev) (dst : Nat) : Nat :=
  (List.range 3).foldl (fun a i =>
    let n := dimSize d i
    let f := (coord d dst i + n - coord d (selfMember d) i) % n
    a + match dimWay d false (selfMember d) dst i with
      | some true => f
      | some false => n - f
      | none => min f (n - f)) 0

/-- The port for a hop; with both ports of a size-2 dimension the + port. -/
def hopPort (d : Dev) (h : Nat × Bool) : Option Nat :=
  let p := 2 * h.1 + (if h.2 then 0 else 1)
  if dimSize d h.1 = 2 then carrier d (2 * h.1) else carrier d p

/-- A hop crosses its dimension's wrap link. -/
def crossesWrap (d : Dev) (h : Nat × Bool) : Bool :=
  let c := coord d (selfMember d) h.1
  let n := dimSize d h.1
  decide (n > 1) && (if h.2 then c = n - 1 else c = 0)

/-- Send a frame of VL1–VL6 on its next hop: the upper VL of a ferry's pair once it crosses the wrap link, the lower one where
it starts a dimension. fresh says that it starts a dimension here. Without a route it is dropped. -/
def routeFrame (starts : Bool) (f : Frame) (d : Dev) : Dev :=
  let ferry := fType f = 0x30 || fType f = 0x31
  match firstHop d (!ferry) (fDst f) with
  | none => d
  | some h =>
    let low := if fType f = 0x30 then 2 else 4
    let vl := if !ferry then fVl f else if crossesWrap d h then low + 1 else if starts then low else fVl f
    match hopPort d h with
    | some p => sendOn p { f with hdr := hdrVl f.hdr vl } d
    | none => d

/-! Messages. -/

/-- Fragments of 9,180 B of a body. -/
def fragment (body : Bytes) : List Bytes :=
  if body.isEmpty then [[]] else (List.range (ceilDiv body.length 9180)).map fun i => (body.drop (9180 * i)).take 9180

/-- Message ID for a new message. -/
def newMsg (d : Dev) : Nat × Dev := (d.fab.nextMsg.toNat, { d with fab.nextMsg := d.fab.nextMsg + 1 })

/-- Frames of a message. -/
def messageFrames (type vl tenant src dst msg : Nat) (spec body : Bytes) : List Frame :=
  let fs := fragment body
  (List.range fs.length).map fun i =>
    let b := fs.getD i []
    withCrc (mkHdr type vl (i + 1 = fs.length) b.length tenant src dst 32 msg i fs.length spec) b

/-- Send a routed message to a member. -/
def sendMsg (type vl tenant dst : Nat) (spec body : Bytes) (d : Dev) : Dev :=
  let r := newMsg d
  (messageFrames type vl tenant (selfMember d) dst r.1 spec body).foldl (fun x f => routeFrame true f x) r.2

/-- Key of a flooded frame: fragment, source, message ID. -/
def seenKey (frag src msg : Nat) : Nat := frag * 2 ^ 48 + src * 2 ^ 32 + msg

/-- Flood a message: one copy on each Up port; its own key counts as seen. -/
def flood (type : Nat) (spec body : Bytes) (d : Dev) : Dev :=
  let r := newMsg d
  let fs := messageFrames type 0 0 (selfMember d) 0xFF r.1 spec body
  (List.range 8).foldl (fun x p => if stateCarries (getPort x p).state type && decide ((getPort x p).state ≠ 6) then fs.foldl (fun y f => sendOn p f y) x else x)
    { r.2 with fab.seen := (List.range fs.length).map (fun i => seenKey i (selfMember d) r.1) ++ r.2.fab.seen }

/-! View (R316). -/

def inView (d : Dev) (m : Nat) : Bool := d.fab.view.getLsbD m
/-- Members of the view. -/
def viewMembers (d : Dev) : List Nat := (List.range 64).filter (inView d)

/-- Members an own Up port or an announced Up link reaches from a set. -/
def growView (d : Dev) (v : List Nat) : List Nat :=
  (List.range (memberCount d)).filter fun m => v.contains m || v.any fun a =>
    if a = selfMember d then (List.range 8).any fun p => (getPort d p).state = 3 && decide ((getPort d p).peer = m)
    else announcedUp d a m
def reachSet (d : Dev) : List Nat := (List.range 64).foldl (fun v _ => growView d v) [selfMember d]

end Sys2Proof.Machine
end

