-- ==== Sys2Proof/Machine/SecOps.lean ====
section
/-! DEFINITION. Security: SEC events (R380), the Lantern's values (R354, R357), audit records (R372, R373), replies and sessions
(R359–R363), debug sessions (R370, R371, R374), tenant slots (R365). -/

namespace Sys2Proof.Machine

/-- A SEC event with the Lantern as its unit. -/
def secEv (code : W16) (sev : W8) (tenant : Nat) (fs : List (Nat × Nat × Nat)) (d : Dev) : Dev :=
  raise code sev tenant uLantern (pay fs) d

/-! Values of the Lantern. -/

def sm3 (bs : Bytes) : Bytes := padTo 32 (Config.sm3 bs)

/-- A firmware slot: 0 A, 1 B. -/
def fwSlot (d : Dev) (n : Nat) : FwSlot := if n = 0 then d.nor.slotA else d.nor.slotB
/-- Manifest version of an image header (R437). -/
def hdrVersion (h : Bytes) : Nat := fld h 12 4
/-- The slot component c runs from: the booted slot, or the trial slot once it has been handed over. -/
def runSlot (d : Dev) (c : Nat) : Nat := if d.nor.handed.contains c then 1 - d.nor.slot else d.nor.slot
/-- Digest of a component in a slot's manifest (R437). -/
def manifestDigest (s : FwSlot) (c : Nat) : Bytes := padTo 32 (s.hdr.drop (64 * c + 32))
def runDigest (d : Dev) (c : Nat) : Bytes := manifestDigest (fwSlot d (runSlot d c)) c

/-- Sign a digest with the attestation key. -/
def signAk (digest : Bytes) (d : Dev) : Bytes × Dev :=
  (padTo 64 (Config.sm2Sign 1 d.sec.seed (runDigest d 1) digest d.freeCtr), { d with freeCtr := d.freeCtr + 1 })

/-- A Skelren authorisation (R355): a signature over serial, an unexpired nonce issued for the action, and the action code.
The nonce is good for one. -/
def authOk (what : Nat) (sig : Bytes) (d : Dev) : Bool × Dev :=
  let a := Config.actionCode what
  let good : NonceEnt → Bool := fun n => decide (n.action = a ∧ (d.time.stampUs - n.stamp).toNat ≤ 600000000)
    && Config.sm2Verify 0 (sm3 (toLe 8 d.sec.serial.toNat ++ n.nonce ++ toLe 1 a)) sig
  match d.sec.nonces.find? good with
  | some n => (true, { d with sec.nonces := d.sec.nonces.erase n })
  | none => (false, d)

/-- Issue a nonce for an action code. -/
def issueNonce (action : Nat) (d : Dev) : Bytes × Dev :=
  let r := drbg 32 d
  (r.1, { r.2 with sec.nonces := r.2.sec.nonces ++ [⟨r.1, action, d.time.stampUs⟩] })

/-! Sessions and replies. -/

def getSess (d : Dev) (n : Nat) : Option SessSt := sFind d.sec.sessions n
def setSess (n : Nat) (x : SessSt) (d : Dev) : Dev := { d with sec.sessions := sSet d.sec.sessions n x }

/-- Bytes of a response record's plaintext. -/
def responseBytes (code : Nat) (id : W32) (status : W16) (final : Bool) (data : Bytes) : Bytes :=
  toLe 2 code ++ toLe 2 status.toNat ++ toLe 4 id.toNat ++ toLe 8 (b2n final) ++ data

/-- A record of a session, to its connection or over the fabric to the member that holds it (R331). -/
def sendRecord (n : Nat) (x : SessSt) (code : Nat) (id : W32) (status : W16) (final : Bool) (data : Bytes) (d : Dev) : Dev :=
  match x.via_ with
  | none => emit (.mgmt n code id status final data) d
  | some m => sendMsg 0x20 1 0 m [] (Config.sealRec x.keys x.tx.toNat (responseBytes code id status final data)) d

/-- Answer a command: its session's next response record, or the SMBus. A final response ends the command (R363). -/
def reply (sid : Option Nat) (code : Nat) (id : W32) (status : W16) (final : Bool) (data : Bytes) (d : Dev) : Dev :=
  match sid with
  | none => emit (.smbus (responseBytes code id status final data)) d
  | some n => match getSess d n with
    | none => d
    | some x =>
      let cmds := if final then x.cmds.filter fun c => c.id ≠ id else x.cmds
      sendRecord n x code id status final data (setSess n { x with tx := x.tx + 1, cmds := cmds } d)

/-! Audit (R372, R373). -/

def auditFree (d : Dev) : Nat := 6144 - d.sec.audit.length

/-- The first 64 bytes of an audit record. -/
def auditHead (seq : W64) (stamp : W64) (sid : Option Nat) (who : Option SessSt) (action level : Nat) (unit : W32) (tenant count : Nat)
    (prev : Bytes) : Bytes :=
  let idx := match who with
    | some x => x.idx
    | none => 0xFF
  let role := match who with
    | some x => x.role
    | none => 0xFF
  toLe 8 seq.toNat ++ toLe 8 stamp.toNat ++ toLe 4 (sid.getD 0) ++ toLe 1 idx ++ toLe 1 role ++ toLe 1 action ++ toLe 1 level
    ++ toLe 4 unit.toNat ++ toLe 1 tenant ++ toLe 3 count ++ padTo 32 (sm3 prev)

/-- Append an audit record: chained and signed. -/
def auditPut (sid : Option Nat) (action level : Nat) (unit : W32) (tenant count : Nat) (d : Dev) : Dev :=
  let who := match sid with
    | some n => getSess d n
    | none => none
  let h := auditHead d.sec.auditSeq d.time.stampUs sid who action level unit tenant count d.sec.lastAudit
  let r := signAk (sm3 h) d
  { r.2 with sec.audit := r.2.sec.audit ++ [h ++ r.1], sec.lastAudit := h ++ r.1, sec.auditSeq := r.2.sec.auditSeq + 1 }

/-- An audited command is refused while fewer than 16 records are free: 7008h. -/
def auditShort (need : Nat) (d : Dev) : Bool := decide (auditFree d < need)
def auditRefuse (action : Nat) (d : Dev) : Dev := secEv 0x7008 3 0 [(16, 4, auditFree d), (20, 1, action)] d

/-! Debug sessions. -/

/-- A unit lies in a scope. -/
def inScope (x : DbgSt) (u : W32) : Bool := x.scope.contains uDevice || x.scope.contains u

/-- The open debug session of at least a level that covers a unit. -/
def dbgFor (d : Dev) (level : Nat) (u : W32) : Option DbgSt := d.sec.debugs.find? fun x => decide (level ≤ x.level) && inScope x u

def setDbg (x : DbgSt) (d : Dev) : Dev := { d with sec.debugs := d.sec.debugs.map fun y => if y.num = x.num then x else y }

/-- Power domain of a unit. -/
def unitDom (u : W32) : Option Nat :=
  let i := bits u.toNat 0 16
  match bits u.toNat 28 4 with
  | 0 => some i
  | 1 => some (349 + bits u.toNat 24 4)
  | 2 => some (349 + i)
  | 3 => some (272 + i)
  | 4 => some (345 + i / 32)
  | 5 => some (366 + i)
  | 6 => some 344
  | 10 => some 365
  | _ => none

/-- Domains of a scope. -/
def scopeDoms (x : DbgSt) : List Nat :=
  if x.scope.contains uDevice then List.range 375 else (x.scope.filterMap unitDom).eraseDups

/-- Domains held by sessions of level 2 and 3 (R371). -/
def dbgHolds (l : List DbgSt) : List Nat := ((l.filter fun x => decide (2 ≤ x.level)).flatMap scopeDoms).eraseDups

/-- Cores that a debug session names. -/
def namedCores (l : List DbgSt) (k : Nat) : Bool := l.any fun x => inScope x (uCore k)

/-- The attached fields, the holds, and what follows from the sessions open. -/
def dbgSettle (d : Dev) : Dev :=
  (List.range 272).foldl (fun x k =>
    let a := namedCores d.sec.debugs k
    if (getCore x k).attached = a then x else modCore k (fun c => { c with attached := a }) x)
    { d with sec.holds := dbgHolds d.sec.debugs }

/-- A halted core goes on; the instruction at its pc runs in spite of a breakpoint (R178). -/
def coreResume (k : Nat) (d : Dev) : Dev :=
  modCore k (fun c => if c.state = 2 then { c with state := c.resumeTo, brkSkip := true, stepping := false } else c) d

/-- Close a debug session: the cores it halted resume, 7007h, the close record (R370, R372). -/
def dbgClose (x : DbgSt) (d : Dev) : Dev :=
  let d1 := x.halted.foldl (fun y k => coreResume k y) { d with sec.debugs := d.sec.debugs.erase x }
  let d2 := dbgSettle { d1 with sec.closedUs := d.time.stampUs }
  let unit := x.scope.headD uDevice
  secEv 0x7007 1 0 [(16, 1, x.level), (20, 4, x.actions)] (auditPut x.sid 0x02 x.level unit 0 x.actions d2)

/-- Every open debug session is closed when only 8 records remain free (R373). -/
def auditCheck (d : Dev) : Dev :=
  if auditFree d > 8 || d.sec.debugs.isEmpty then d
  else auditRefuse 0 (d.sec.debugs.foldl (fun x s => dbgClose s x) d)

/-- Append an audit record; a ring nearly full closes the debug sessions. -/
def audit (sid : Option Nat) (action level : Nat) (unit : W32) (tenant count : Nat) (d : Dev) : Dev :=
  auditCheck (auditPut sid action level unit tenant count d)

/-- An action of a class on a unit within a debug session: its first use is recorded (R372). -/
def dbgUse (x : DbgSt) (cls : Nat) (unit : W32) (tenant : Nat) (d : Dev) : Dev :=
  let seen := x.used.contains (cls, unit)
  let y := { x with actions := x.actions + 1, used := if seen then x.used else x.used ++ [(cls, unit)] }
  let d1 := setDbg y d
  if seen then d1 else audit x.sid cls x.level unit tenant 0 d1

/-- Close a management session: 7002h; the debug sessions it opened close too (R370). Reasons 1 command, 2 idle, 3 tag or
sequence, 4 key removed. -/
def sessClose (n reason : Nat) (d : Dev) : Dev :=
  match getSess d n with
  | none => d
  | some x =>
    let d1 := (d.sec.debugs.filter fun y => y.sid = some n).foldl (fun z y => dbgClose y z) d
    let d2 := { d1 with sec.sessions := sDel d1.sec.sessions n, sec.spdm := sDel d1.sec.spdm (2 + n) }
    if x.established then secEv 0x7002 1 0 [(20, 4, n), (24, 1, reason)] d2 else d2

/-- The next record of a session: a failed tag or a sequence that is not the next one closes it (R359). -/
def recordIn (n : Nat) (seq : W64) (tagOk : Bool) (d : Dev) : Option SessSt × Dev :=
  match getSess d n with
  | none => (none, d)
  | some x =>
    if !x.established || x.target.isSome then (none, d)
    else if !tagOk || seq ≠ x.rx then (none, sessClose n 3 d)
    else
      let y := { x with rx := x.rx + 1, lastUs := d.time.stampUs }
      (some y, setSess n y d)

/-! Tenant slots. -/

def slotState (d : Dev) (t : Nat) : Nat := sGet 0 d.sec.slots t
/-- A slot's state; the function of a slot is ready while it is Assigned from serving onward, and during a scrub
(R301). -/
def setSlot (t st : Nat) (d : Dev) : Dev := { d with sec.slots := sPut 0 d.sec.slots t st }

/-- Key created or imported: check value and 7009h (R366). -/
def keyActive (t source : Nat) (key : Bytes) (d : Dev) : Dev :=
  let check := BitVec.ofNat 32 (fld (sm3 (key ++ toLe 1 t)) 0 4)
  secEv 0x7009 1 t [(16, 1, source), (20, 4, check.toNat)]
    { d with sec.keys := sPut {} d.sec.keys t { key := key, imported := decide (source = 1), check := check } }

/-- A key or slot command is refused: 700Ah. -/
def slotRefuse (t reason : Nat) (d : Dev) : Dev := secEv 0x700A 3 t [(16, 1, reason)] d

end Sys2Proof.Machine
end

