-- ==== Sys2Proof/Machine/Join.lean ====
section
/-! DEFINITION. Flotilla records (R314, R435): what a module sends when it joins, and again whenever a field changes. -/

namespace Sys2Proof.Machine

/-- Digest of the flotilla-relevant fields: tag, length and value of each, in tag order. -/
def configDigest (d : Dev) : Bytes :=
  let f : Nat → Nat → Bytes := fun tag n => toLe 2 tag ++ toLe 2 n ++ toLe n (cfgGet d tag 0)
  sm3 (f 0x0205 2 ++ f 0x0206 2 ++ f 0x0207 4 ++ f 0x0501 8 ++ f 0x0503 3)

/-- Digest of the generation table: model, generation, state of every entry in Loading to Draining, sorted. -/
def genDigest (d : Dev) : Bytes :=
  sm3 ((d.plc.gens.filter fun g => decide (1 ≤ g.2.state ∧ g.2.state ≤ 4)).flatMap fun g =>
    toLe 2 (g.1 / 65536) ++ toLe 2 g.1 ++ toLe 1 g.2.state)

/-- The record a port sends. -/
def joinRecord (p : Nat) (d : Dev) : Bytes :=
  toLe 8 (flotillaId d) ++ toLe 1 (selfMember d) ++ (List.range 3).map (fun i => BitVec.ofNat 8 (dimSize d i)) ++ [1, 0, 0, 0]
    ++ toLe 4 (hdrVersion (fwSlot d d.nor.slot).hdr) ++ toLe 4 d.plc.epoch.toNat ++ toLe 8 d.sec.serial.toNat
    ++ configDigest d ++ genDigest d ++ toLe 1 p ++ toLe 1 (b2n (getPort d p).accepted) ++ List.replicate 14 0

/-- Send a join frame on a port. -/
def sendJoin (p : Nat) (d : Dev) : Dev :=
  let r := newMsg d
  sendOn p (withCrc (mkHdr 0x10 0 true 112 0 (selfMember d) 0xFF 32 r.1 0 1 []) (joinRecord p d)) r.2

/-- A field of the record has changed: every trained port sends it again. -/
def joinRefresh (d : Dev) : Dev :=
  if standalone d then d else
    (List.range 8).foldl (fun x p => if stateCarries (getPort x p).state 0x10 then sendJoin p x else x) d

end Sys2Proof.Machine
end

