-- ==== Sys2Proof/Machine/HostOps.lean ====
section
/-! DEFINITION. Host rings: completion entries, holds, interrupts (R283, R285, R291, R294, R296, R297), and failed reads. -/

namespace Sys2Proof.Machine

def getSq (d : Dev) (fn n : Nat) : SqSt := sGet {} (getFn d fn).sq n
def setSq (fn n : Nat) (x : SqSt) (d : Dev) : Dev := let f := getFn d fn; setFn fn { f with sq := sPut {} f.sq n x } d
def getCq (d : Dev) (fn n : Nat) : CqSt := sGet {} (getFn d fn).cq n
def setCq (fn n : Nat) (x : CqSt) (d : Dev) : Dev := let f := getFn d fn; setFn fn { f with cq := sPut {} f.cq n x } d

/-- Entries of a ring. -/
def ringSize (sizeLog2 : BitVec 5) : Nat := 2 ^ sizeLog2.toNat

/-- A CQ slot is free: tail + 1 does not equal head round the ring (R284). -/
def cqFree (q : CqSt) : Bool := decide ((q.tail.toNat + 1) % ringSize q.sizeLog2 ≠ q.head.toNat % ringSize q.sizeLog2)

/-- Signal the vector of a CQ: it covers every entry written before. -/
def cqSignal (fn n : Nat) (d : Dev) : Dev :=
  let q := getCq d fn n
  signalVec fn q.vector.toNat (setCq fn n { q with unsignalled := 0 } d)

/-- Signal a CQ with int_en = 1 when more than agg_count entries are unsignalled, or at once when agg_us = 0 (R297). -/
def cqMaybeSignal (fn n : Nat) (d : Dev) : Dev :=
  let q := getCq d fn n
  if q.intEn && (decide (q.unsignalled > q.aggCount.toNat) || q.aggUs = 0) then cqSignal fn n d else d

/-- The final entry of a request that waited in a hold has been written: its descriptor, its beams' and its draft's are Free (R249). -/
def endingDone (h : HeldEnt) (d : Dev) : Dev :=
  match h.ctx.bind fun i => (sFind d.srv.ctxs i).map fun c => (i, c) with
  | none => d
  | some (i, c) =>
    if c.state ≠ 6 then d else
      { d with srv.ctxs := (i :: (c.beams ++ c.draftCtx.toList)).foldl (fun m j => if (sGet c m j).state = 6 then sDel m j else m) d.srv.ctxs }

/-- Held entries that are discarded end their requests too. -/
def dropHeld (hs : List HeldEnt) (d : Dev) : Dev := hs.foldl (fun x h => endingDone h x) d

/-- Write result data, bytes 0–30, then byte 31; the tail advances and the phase inverts when it wraps (R294). -/
def cqWrite (fn n : Nat) (h : HeldEnt) (d : Dev) : Dev :=
  let q := getCq d fn n
  let sq := bits (h.entry.getD 30 0).toNat 0 4
  let bytes := h.entry.take 28 ++ toLe 2 (getSq d fn sq).head.toNat ++ (h.entry.drop 30).take 1
  let a := q.base + BitVec.ofNat 64 (32 * q.tail.toNat)
  let d1 := h.data.foldl (fun x w => emit (.hostWrite fn w.1 w.2) x) d
  let d2 := emit (.hostWrite fn (a + 31) [BitVec.ofNat 8 (128 * b2n q.phase)]) (emit (.hostWrite fn a bytes) d1)
  let t := (q.tail.toNat + 1) % ringSize q.sizeLog2
  cqMaybeSignal fn n (setCq fn n { q with
    tail := BitVec.ofNat 16 t, phase := if t = 0 then !q.phase else q.phase, unsignalled := q.unsignalled + 1 } d2)

/-- Write an entry when a slot is free and nothing is held, else hold it in order; C002h when a hold becomes non-empty (R296). An
inactive ring takes no entry (R283). -/
def cqPut (fn n : Nat) (h : HeldEnt) (d : Dev) : Dev :=
  let f := getFn d fn
  let q := getCq d fn n
  if !q.active then d
  else if f.d3hot || !q.held.isEmpty || !cqFree q then
    let d1 := setCq fn n { q with held := q.held ++ [h], holdTold := true } d
    if q.holdTold then d1 else
      raise 0xC002 1 fn (uFn fn) (pay [(16, 1, fn), (17, 1, n), (20, 4, q.held.length + 1)]) d1
  else cqWrite fn n h d

/-- CP3, which writes the completions, is down (R341). -/
def cp3Down (d : Dev) : Bool := (sFind d.rel.cpDown 3).isSome

/-- Deliver an entry; while CP3 is down it waits for the restart (R341). -/
def cqDeliver (fn n : Nat) (h : HeldEnt) (d : Dev) : Dev :=
  if cp3Down d then { d with hif.late := d.hif.late ++ [(fn, n, h)] } else cqPut fn n h d

/-- Entries of some rings that wait for CP3 are discarded. -/
def lateDrop (p : Nat → Nat → Bool) (d : Dev) : Dev :=
  dropHeld ((d.hif.late.filter fun e => p e.1 e.2.1).map (·.2.2)) { d with hif.late := d.hif.late.filter fun e => !p e.1 e.2.1 }

/-- Write held entries while slots are free. -/
def cqDrainN : Nat → Nat → Nat → Dev → Dev
  | 0, _, _, d => d
  | k + 1, fn, n, d =>
    let q := getCq d fn n
    match q.held with
    | [] => setCq fn n { q with holdTold := false } d
    | h :: r => if cp3Down d || (getFn d fn).d3hot || !q.active || !cqFree q then d
      else cqDrainN k fn n (endingDone h (cqWrite fn n h (setCq fn n { q with held := r } d)))

def cqDrain (fn n : Nat) (d : Dev) : Dev := cqDrainN ((getCq d fn n).held.length + 1) fn n d

/-- CP3 runs again: held entries first, then what waited for it (R341). -/
def lateWrite (d : Dev) : Dev :=
  let d1 := d.hif.fns.foldl (fun x f => f.2.cq.foldl (fun y q => cqDrain f.1 q.1 y) x) { d with hif.late := [] }
  d.hif.late.foldl (fun x e =>
    let y := cqDeliver e.1 e.2.1 e.2.2 x
    if (getCq y e.1 e.2.1).held.contains e.2.2 then y else endingDone e.2.2 y) d1

/-- A function has held entries on some CQ. -/
def fnHeld (f : FnSt) : Bool := f.cq.any fun e => !e.2.held.isEmpty

/-- Bytes 0–30 of a completion entry (R291). -/
def entryOf (tag : W32) (status : W16) (kind count : Nat) (ctx : Nat) (generated ids bytes last sq : Nat) : Bytes :=
  toLe 4 tag.toNat ++ toLe 2 status.toNat ++ [BitVec.ofNat 8 kind, BitVec.ofNat 8 (min 255 count)] ++ toLe 4 ctx
    ++ toLe 4 generated ++ toLe 4 ids ++ toLe 4 bytes ++ toLe 4 last ++ [0, 0, BitVec.ofNat 8 (sq % 16)]

/-- A command entry: kind 3; bytes 24–27 model and generation. -/
def commandEntry (tag : W32) (status : W16) (model gen sq : Nat) : Bytes :=
  entryOf tag status 3 0 0xFFFFFFFF 0 0 0 (model + gen * 65536) sq

/-- The completion ring a submission ring names. -/
def cqOf (d : Dev) (fn sq : Nat) : Nat := (getSq d fn sq).cq.toNat

def sendCommandEntry (fn sq : Nat) (tag : W32) (status : W16) (model gen : Nat) (d : Dev) : Dev :=
  cqDeliver fn (cqOf d fn sq) { entry := commandEntry tag status model gen sq, data := [], ctx := none } d

/-- The ring's next entry may be fetched: ready, active, an entry waits, the function in D0 (R283, R285, R300, R301). -/
def ringWaits (d : Dev) (fn n : Nat) : Bool :=
  let q := getSq d fn n
  (getFn d fn).ready && !(getFn d fn).d3hot && q.active && !q.error && q.head != q.tail

/-- Turns before a ring is served: functions in ascending order, and rings in ascending order within one (R285). -/
def turnsTo (d : Dev) (fn n : Nat) : Nat := (16 * fn + n + 1023 - d.hif.turn % 1024) % 1024

/-- The device fetches the ring's next entry: the ring waits, and no ring that waits comes before it in the round (R285). -/
def canFetch (d : Dev) (fn n : Nat) : Bool :=
  ringWaits d fn n &&
    d.hif.fns.all fun f => f.2.sq.all fun r => !ringWaits d f.1 r.1 || decide (turnsTo d fn n ≤ turnsTo d f.1 r.1)

/-- The head advances as the entry is copied into the device, and the ring has had its turn. -/
def fetchEntry (fn n : Nat) (d : Dev) : Dev :=
  let q := getSq d fn n
  let d1 := setSq fn n { q with head := BitVec.ofNat 16 ((q.head.toNat + 1) % ringSize q.sizeLog2) } d
  { d1 with hif.turn := 16 * fn + n }

/-- Stop a ring on an error: C001h. -/
def ringStop (fn n : Nat) (cq : Bool) (cause value : Nat) (d : Dev) : Dev :=
  let d0 := { d with hif.ringErr := BitVec.ofNat 16 (satAdd 16 d.hif.ringErr.toNat 1) }
  let d1 := if cq then setCq fn n { getCq d0 fn n with active := false, error := true, cause := BitVec.ofNat 3 cause, held := [] }
      (lateDrop (fun f r => f = fn && r = n) (dropHeld (getCq d0 fn n).held d0))
    else setSq fn n { getSq d0 fn n with active := false, error := true, cause := BitVec.ofNat 3 cause } d0
  raise 0xC001 2 fn (uFn fn) (pay [(16, 1, fn), (17, 1, n + 16 * b2n cq), (18, 1, cause), (20, 4, value)]) d1

/-- A host read failed: C003h. -/
def hostReadFailed (fn target result : Nat) (addr : W64) (d : Dev) : Dev :=
  raise 0xC003 2 fn (uFn fn) (pay [(16, 1, fn), (17, 1, target), (18, 1, result), (24, 8, addr.toNat)])
    { d with hif.dmaFail := BitVec.ofNat 16 (satAdd 16 d.hif.dmaFail.toNat 1) }

/-! Submission entry header (R286). -/

def eTag (e : Bytes) : W32 := BitVec.ofNat 32 (fld e 4 4)
/-- Bytes 8–31 are in use for opcode 01h alone; bytes 2–3 are reserved. -/
def headerOk (e : Bytes) (sub : Nat) (input : Bool) : Bool :=
  decide (fld e 1 1 = sub) && zeros e 2 2 && (input || zeros e 8 24)

end Sys2Proof.Machine
end

