-- ==== Sys2Proof/Machine/Quantiser.lean ====
section
/-! DEFINITION. The quantiser: row groups (R45, R47–R52), designated residuals (R126), dynamic slots (R128), FP4 blocks
(R53, R54). FP32 values are their codes. -/

namespace Sys2Proof.Machine

def f32Abs (x : Nat) : Nat := x % 2 ^ 31
def f32Neg (x : Nat) : Bool := bitAt x 31
/-- a ≥ b for FP32 codes of non-negative values. -/
def f32Ge (a b : Nat) : Bool := decide (a ≥ b)
def f32NonFinite (x : Nat) : Bool := decide (f32Abs x ≥ 0x7F800000)
def f32Zero (x : Nat) : Bool := decide (f32Abs x = 0)

/-- E4M3 scale code as FP32 code. -/
def scale32 (c : Nat) : Nat := (cvt e4m3 fp32 .rne c).code

/-- scale × 2^−m. -/
def unit32 (scale m : Nat) : Nat := mul32 (scale32 scale) (encFrac fp32 .rne false 1 (2 ^ m)).code

/-- A non-negative FP32 value rounded to an integer (R55: the integer grid). -/
def roundInt (r : Rnd) (x : Nat) : Nat :=
  match fdec fp32 x with
  | .fin _ m e => let q := magFrac m e; roundQ r q.1 q.2
  | _ => 8

/-- One group's inputs: elements as FP32 codes, designation, scale factor field, stochastic rounding, residual format. -/
structure QIn where
  x : List Nat
  des : List Bool
  k : Nat
  sto : Bool
  e5 : Bool
  draws : Nat

/-- Per-element outcome. -/
structure QElem where
  code : Int
  sat : Bool
  zeroed : Bool
  deriving DecidableEq, Repr

/-- Group record fields. -/
structure QRec where
  codes : List Int
  scale : Nat
  shifts : List Nat
  zeroMask : Nat
  flags : Nat
  lengthM1 : Nat
  sat : List Nat
  zeroed : List Nat
  fp8Sat : Nat
  /-- FP8 residual bytes of the designated elements, ascending. -/
  resid : List Nat
  deriving DecidableEq, Repr

def elem (i : QIn) (n : Nat) : Nat := i.x.getD n 0
def isDes (i : QIn) (n : Nat) : Bool := i.des.getD n false

/-- Elements of a block, by index. -/
def blockIdx (i : QIn) (b : Nat) : List Nat := (List.range 32).map (32 * b + ·) |>.filter (· < i.x.length)

/-- Sum of squares of the non-designated elements: in element order in each block, then the block sums in order (R47). -/
def sumSquares (i : QIn) : Nat :=
  (List.range 8).foldl (fun acc b =>
    add32 acc ((blockIdx i b).foldl (fun s n => if isDes i n then s else add32 s (mul32 (elem i n) (elem i n))) 0)) 0

/-- Number of non-designated elements. -/
def nFree (i : QIn) : Nat := ((List.range i.x.length).filter fun n => !isDes i n).length

/-- t = k × sqrt(ss / n) / 7 with k = field / 16 clamped to 2.0–8.0. -/
def target (i : QIn) : Nat :=
  let k := (encFrac fp32 .rne false (clampNat 32 128 i.k) 16).code
  div32 (mul32 k (sqrt32 (div32 (sumSquares i) (nat32 (nFree i))))) (nat32 7)

/-- Largest magnitude of the block's non-designated elements. -/
def blockMax (i : QIn) (b : Nat) : Nat :=
  (blockIdx i b).foldl (fun m n => if isDes i n then m else max m (f32Abs (elem i n))) 0

/-- 7.5 × unit. -/
def satLevel (u : Nat) : Nat := mul32 0x40F00000 u

/-- Largest shift m in 0–3 at which the block does not saturate (R49). -/
def blockShift (scale amax : Nat) : Nat :=
  if !f32Ge amax (satLevel (unit32 scale 3)) then 3
  else if !f32Ge amax (satLevel (unit32 scale 2)) then 2
  else if !f32Ge amax (satLevel (unit32 scale 1)) then 1
  else 0

/-- One element's code (R47, R48). -/
def quantElem (i : QIn) (u n : Nat) : QElem :=
  let x := elem i n
  let r := div32 (f32Abs x) u
  let mode : Rnd := if i.sto then .sto (Config.draw16 (i.draws + n)).toNat else .rne
  if isDes i n then ⟨sgn (f32Neg x) (min (roundInt .rne r) 7), false, false⟩
  else if f32Ge r 0x40F00000 then ⟨sgn (f32Neg x) 7, true, false⟩
  else
    let q := min (roundInt mode r) 7
    ⟨sgn (f32Neg x) q, false, decide (q = 0) && !f32Zero x⟩

/-- FP8 of a residual, and 1 when R459 counts it as saturated. -/
def residFp8 (e5 : Bool) (x : Nat) : Nat × Nat :=
  if e5 then ((cvt fp32 e5m2 .rne x).code, 0)
  else let e := cvt fp32 e4m3 .rne x; (e.code, b2n e.ovf)

/-- x − code × u in FP32. -/
def residual (x : Nat) (code : Int) (u : Nat) : Nat :=
  sub32 x (rnd fp32 (fmulV (fdec fp32 u) (.fin (decide (code < 0)) code.natAbs 0)))

def padFlag (i : QIn) : Nat := if i.x.length < 256 then 16 else 0

/-- A zero group (R50, R51): underflow counts each non-zero non-designated element as zeroed. -/
def zeroRecord (i : QIn) (underflow : Bool) : QRec :=
  let rs := ((List.range i.x.length).filter (isDes i)).map fun n => residFp8 i.e5 (elem i n)
  { codes := List.replicate 256 0, scale := 0, shifts := List.replicate 8 3, zeroMask := 255
    flags := 1 + b2n underflow * 2 + padFlag i, lengthM1 := i.x.length - 1, sat := List.replicate 8 0
    zeroed := (List.range 8).map fun b =>
      if underflow then ((blockIdx i b).filter fun n => !isDes i n && !f32Zero (elem i n)).length else 0
    fp8Sat := (rs.map (·.2)).sum, resid := rs.map (·.1) }

/-- A non-finite group (R52): residual bytes are 00h. -/
def nonFiniteRecord (i : QIn) : QRec :=
  { codes := List.replicate 256 0, scale := 0, shifts := List.replicate 8 3, zeroMask := 255
    flags := 1 + 8 + padFlag i, lengthM1 := i.x.length - 1, sat := List.replicate 8 0, zeroed := List.replicate 8 0
    fp8Sat := 0, resid := ((List.range i.x.length).filter (isDes i)).map fun _ => 0 }

/-- A normal record under a scale. -/
def normalRecord (i : QIn) (scale : Nat) (ovf : Bool) : QRec :=
  let ms := (List.range 8).map fun b => blockShift scale (blockMax i b)
  let us := ms.map (unit32 scale)
  let es := (List.range i.x.length).map fun n => quantElem i (us.getD (n / 32) 0) n
  let codes := es.map (·.code) ++ List.replicate (256 - i.x.length) 0
  let rs := ((List.range i.x.length).filter (isDes i)).map fun n =>
    residFp8 i.e5 (residual (elem i n) ((es.getD n ⟨0, false, false⟩).code) (us.getD (n / 32) 0))
  let cnt : (QElem → Bool) → Nat → Nat := fun p b => (((es.drop (32 * b)).take 32).filter p).length
  { codes := codes, scale := scale, shifts := ms
    zeroMask := (List.range 8).foldl (fun z b =>
      z + b2n (((codes.drop (32 * b)).take 32).all (· == 0)) * 2 ^ b) 0
    flags := b2n ovf * 4 + padFlag i, lengthM1 := i.x.length - 1
    sat := (List.range 8).map (cnt (·.sat)), zeroed := (List.range 8).map (cnt (·.zeroed))
    fp8Sat := (rs.map (·.2)).sum, resid := rs.map (·.1) }

/-- 2^−9 and 448 in FP32. -/
def f32Min : Nat := 0x3B000000
def f32Max : Nat := 0x43E00000

/-- Smallest E4M3 code at or above a positive FP32 value. -/
def ceilScale32 (t : Nat) : Nat :=
  match fdec fp32 t with
  | .fin _ m e => let q := magFrac m e; ceilScale q.1 q.2
  | _ => 0x7E

/-- quantise_group (R47). -/
def quantise (i : QIn) : QRec :=
  if i.x.any f32NonFinite then nonFiniteRecord i
  else if nFree i = 0 || f32Zero (sumSquares i) then zeroRecord i false
  else
    let t := target i
    if !f32Ge t f32Min then zeroRecord i true
    else if decide (t > f32Max) then normalRecord i 0x7E true
    else normalRecord i (ceilScale32 t) false

/-- Codes packed two to a byte (R35). -/
def packNibbles (cs : List Int) : Bytes :=
  (List.range (cs.length / 2)).map fun j =>
    BitVec.ofNat 8 (wrap 4 (cs.getD (2 * j) 0) + 16 * wrap 4 (cs.getD (2 * j + 1) 0))

/-- The 160-byte group record (R45). -/
def recBytes (r : QRec) : Bytes :=
  packNibbles r.codes ++ [BitVec.ofNat 8 r.scale]
    ++ toLe 2 ((List.range 8).foldl (fun a b => a + (r.shifts.getD b 0) * 4 ^ b) 0)
    ++ [BitVec.ofNat 8 r.zeroMask, BitVec.ofNat 8 r.flags, BitVec.ofNat 8 r.lengthM1, 0, 0]
    ++ r.sat.map (BitVec.ofNat 8) ++ r.zeroed.map (BitVec.ofNat 8) ++ toLe 2 r.fp8Sat ++ List.replicate 6 0

/-- Insert a candidate by residual magnitude descending, then index ascending. -/
def insCand (c : Nat × Nat) : List (Nat × Nat) → List (Nat × Nat)
  | [] => [c]
  | e :: r => if f32Abs e.2 > f32Abs c.2 ∨ (f32Abs e.2 = f32Abs c.2 ∧ e.1 < c.1) then e :: insCand c r else c :: e :: r

/-- Insert by index ascending. -/
def insRow (c : Nat × Nat) : List (Nat × Nat) → List (Nat × Nat)
  | [] => [c]
  | e :: r => if e.1 < c.1 then e :: insRow c r else c :: e :: r

/-- The 32-byte side record of a group (R128). -/
def sideBytes (i : QIn) (r : QRec) (slots : Nat) : Bytes :=
  let us := r.shifts.map (unit32 r.scale)
  let sat := if r.scale = 0 then [] else
    (List.range i.x.length).filter fun n => (quantElem i (us.getD (n / 32) 0) n).sat
  let cand := sat.map fun n => (n, residual (elem i n) (r.codes.getD n 0) (us.getD (n / 32) 0))
  let sorted := cand.foldl (fun l c => insCand c l) []
  let take := (sorted.take (min slots 16)).foldl (fun l c => insRow c l) []
  let overflow := sat.length - take.length
  if take.isEmpty then [0, 0, BitVec.ofNat 8 (min 255 overflow)] ++ List.replicate 29 0 else
    let t := div32 (take.foldl (fun m c => max m (f32Abs c.2)) 0) (nat32 7)
    let sc := if decide (t > f32Max) then 0x7E else if !f32Ge t f32Min then 0x01 else ceilScale32 t
    let q := take.map fun c => div32 (f32Abs c.2) (scale32 sc)
    let rsat := (q.filter fun x => f32Ge x 0x40F00000).length
    let codes := (take.zip q).map fun p => sgn (f32Neg p.1.2) (min (roundInt .rne p.2) 7)
    [BitVec.ofNat 8 take.length, BitVec.ofNat 8 sc, BitVec.ofNat 8 (min 255 overflow), BitVec.ofNat 8 (b2n (decide (rsat > 0)))]
      ++ padTo 16 (take.map fun c => BitVec.ofNat 8 c.1)
      ++ packNibbles (codes ++ List.replicate (16 - codes.length) 0) ++ [BitVec.ofNat 8 rsat, 0, 0, 0]

/-- FP4 E2M1 as a format without infinity or NaN (R36). -/
def e2m1 : Fmt := ⟨2, 1, 1, 7, 0, 0⟩

def OpStat.add (a b : OpStat) : OpStat :=
  ⟨a.saturated + b.saturated, a.zeroed + b.zeroed, a.badScales + b.badScales, a.scaleOverflow || b.scaleOverflow, a.nonFinite || b.nonFinite⟩

/-- An FP4 block: codes and scale of 32 FP32 elements, with the counts and flags of R53 (R54). draws: stochastic rounding from that
draw on. An element is saturated where its scaled magnitude exceeds 6, which only a scale overflow gives. -/
def fp4Stat (x : List Nat) (draws : Option Nat) : (List Nat × Nat) × OpStat :=
  let zero := (x.map fun _ => 0, 0)
  if x.any f32NonFinite then (zero, { nonFinite := true }) else
    let a := x.foldl (fun m v => max m (f32Abs v)) 0
    let t := div32 a (nat32 6)
    if a = 0 then (zero, {})
    else if !f32Ge t f32Min then (zero, { zeroed := (x.filter fun v => !f32Zero v).length })
    else
      let ovf := decide (t > f32Max)
      let sc := if ovf then 0x7E else ceilScale32 t
      let scaled : Nat → Bool × Nat × Nat := fun v => match fdec fp32 v, fdec e4m3 sc with
        | .fin neg m e, .fin _ ms es =>
          let p := magFrac m e
          let q := magFrac ms es
          (neg, p.1 * q.2, p.2 * q.1)
        | _, _ => (false, 0, 1)
      let codes := (List.range x.length).map fun n =>
        let v := scaled (x.getD n 0)
        let r : Rnd := match draws with
          | some u => .sto (Config.draw16 (u + n)).toNat
          | none => .rne
        (encFrac e2m1 r v.1 v.2.1 v.2.2).code
      ((codes, sc), { saturated := if ovf then (x.filter fun v => let w := scaled v; decide (w.2.1 > 6 * w.2.2)).length else 0
                      scaleOverflow := ovf })

def fp4Block (x : List Nat) (draws : Option Nat) : List Nat × Nat := (fp4Stat x draws).1

end Sys2Proof.Machine
end

