-- ==== Sys2Proof/Machine/Contexts.lean ====
section
/-! DEFINITION. Contexts and their pages: latent entries (R189–R191), masks (R192–R194), speculation pages (R195), key–value
maps and tiers (R202–R205), discards (R207), prefixes (R208, R209). -/

namespace Sys2Proof.Machine

def getCtx (d : Dev) (i : Nat) : Option CtxSt := sFind d.srv.ctxs i
def setCtx (i : Nat) (c : CtxSt) (d : Dev) : Dev := { d with srv.ctxs := sSet d.srv.ctxs i c }
def modCtx (i : Nat) (f : CtxSt → CtxSt) (d : Dev) : Dev :=
  match getCtx d i with
  | some c => setCtx i (f c) d
  | none => d

def genKey (model gen : W16) : Nat := model.toNat * 65536 + gen.toNat
def getGen (d : Dev) (model gen : W16) : Option GenSt := sFind d.plc.gens (genKey model gen)
def setGen (model gen : W16) (g : GenSt) (d : Dev) : Dev := { d with plc.gens := sSet d.plc.gens (genKey model gen) g }
def modGen (model gen : W16) (f : GenSt → GenSt) (d : Dev) : Dev :=
  match getGen d model gen with
  | some g => setGen model gen (f g) d
  | none => d
def getModel (d : Dev) (m : W16) : ModelSt := sGet {} d.plc.models m.toNat
def setModel (m : W16) (x : ModelSt) (d : Dev) : Dev := { d with plc.models := sPut {} d.plc.models m.toNat x }

/-- Generations of a model with their records. -/
def gensOf (d : Dev) (m : W16) : List (W16 × GenSt) :=
  (d.plc.gens.filter fun e => e.1 / 65536 = m.toNat).map fun e => (BitVec.ofNat 16 (e.1 % 65536), e.2)
def genIn (d : Dev) (m : W16) (lo hi : Nat) : Option (W16 × GenSt) :=
  (gensOf d m).find? fun e => decide (lo ≤ e.2.state ∧ e.2.state ≤ hi)
/-- The model's Active generation. -/
def activeGen (d : Dev) (m : W16) : Option (W16 × GenSt) := genIn d m 3 3

def layerOf (d : Dev) (c : CtxSt) (layer : Nat) : Option LayerInfo :=
  match getGen d c.model c.gen with
  | some g => g.layers[layer]?
  | none => none

/-! Entries and pages (R189, R190). -/

def entrySize (l : LayerInfo) : Nat := l.dl / 2 + l.dl / 32 + l.p
/-- Granules of 512 B a page takes. -/
def pageGran (l : LayerInfo) : Nat := ceilDiv (64 * entrySize l) 512

/-- Positional elements in E4M3, and how many saturated (R41). -/
def pos8 (xs : List Nat) : List Nat × OpStat :=
  let cs := xs.map fun x => cvt fp32 e4m3 .rne x
  (cs.map (·.code), { saturated := cs.countP (·.ovf) })

/-- A latent entry: FP4 codes, scales, FP8 positional key (R189, R191), with the counts of its conversions. -/
def entryStat (l : LayerInfo) (draws : Option Nat) (latent pos : List Nat) : Bytes × OpStat :=
  let blocks := (List.range (l.dl / 32)).map fun b =>
    fp4Stat ((latent.drop (32 * b)).take 32) (draws.map (· + 32 * b))
  let codes := blocks.flatMap (·.1.1)
  let keys := pos8 (pos.take l.p)
  ((List.range (l.dl / 2)).map (fun j => BitVec.ofNat 8 (codes.getD (2 * j) 0 + 16 * codes.getD (2 * j + 1) 0))
    ++ blocks.map (fun b => BitVec.ofNat 8 b.1.2) ++ keys.1.map (BitVec.ofNat 8),
   blocks.foldl (fun s b => s.add b.2) keys.2)

def entryBytes (l : LayerInfo) (draws : Option Nat) (latent pos : List Nat) : Bytes := (entryStat l draws latent pos).1

def pageKeyOf (layer index : Nat) : Nat := layer * 16384 + index

/-- Positions a layer of a map holds: one past its last entry. -/
def mapFill (m : Store PageEnt) (layer : Nat) : Nat :=
  m.foldl (fun a e => if e.1 / 16384 = layer ∧ e.2.tier ≠ 3 then max a (e.1 % 16384 * 64 + e.2.fill) else a) 0

/-- The entries of a layer stand in cross pages: encoder and cross-attention layers (R192, R248). -/
def isCross (l : LayerInfo) : Bool := decide (l.attKind ≥ 2)

/-- Write an entry at the next position of a layer's map; a new page takes tier 1. -/
def mapAppend (loc : BitVec 40) (layer : Nat) (e : Bytes) (m : Store PageEnt) : Store PageEnt :=
  let n := mapFill m layer
  let k := pageKeyOf layer (n / 64)
  match sFind m k with
  | some p => if p.tier = 3 then sSet m k { loc := loc, fill := 1, data := e }
    else sSet m k { p with fill := p.fill + 1, data := p.data ++ e }
  | none => sSet m k { loc := loc, fill := 1, data := e }

/-- Entry at a position of a map, when its page is readable (tier 0 or 1). -/
def mapEntry (m : Store PageEnt) (size layer pos : Nat) : Option Bytes :=
  match sFind m (pageKeyOf layer (pos / 64)) with
  | some p => if p.valid && decide (p.tier ≤ 1) && decide (pos % 64 < p.fill) then some ((p.data.drop (pos % 64 * size)).take size)
    else none
  | none => none

def getPrefix (d : Dev) (n : W16) : Option PrefixRec := sFind d.att.prefixes n.toNat
def prefixLen (d : Dev) (c : CtxSt) : Nat :=
  match c.prefix_ with
  | some n => match getPrefix d n with
    | some p => p.length
    | none => 0
  | none => 0

/-- Committed entry of a context's layer at a position, the prefix first (R208). -/
def ctxEntry (d : Dev) (c : CtxSt) (size layer pos : Nat) : Option Bytes :=
  let n := prefixLen d c
  if pos < n then match c.prefix_.bind (getPrefix d) with
    | some p => mapEntry p.map size layer pos
    | none => none
  else mapEntry c.pages size layer (pos - n)

/-- Next position of a context's layer, in its own pages and in the map its entries stand in. -/
def nextPos (d : Dev) (c : CtxSt) (layer : Nat) : Nat := prefixLen d c + mapFill c.pages layer
def layerFill (d : Dev) (c : CtxSt) (l : LayerInfo) (layer : Nat) : Nat := if isCross l then mapFill c.cross layer else nextPos d c layer

/-! Masks (R192, R194). -/

/-- Depth of a tree node, and whether node i is node j or an ancestor of it. -/
def nodeDepth (parent : Nat → Option Nat) : Nat → Nat → Nat
  | 0, _ => 0
  | f + 1, j => match parent j with
    | some i => nodeDepth parent f i + 1
    | none => 0

def nodePath (parent : Nat → Option Nat) : Nat → Nat → List Nat
  | 0, j => [j]
  | f + 1, j => match parent j with
    | some i => nodePath parent f i ++ [j]
    | none => [j]

def treeParent (t : Bytes) (j : Nat) : Option Nat :=
  let p := (t.getD (4 + j) 0xFF).toNat
  if p = 0xFF then none else some p

/-- The rules of R194 on a tree record for a number of rows. -/
def treeOk (t : Bytes) (rows : Nat) : Bool :=
  let n := fld t 0 1
  decide (1 ≤ n ∧ n ≤ 16 ∧ n = rows) && zeros t 1 3 && (List.range 16).all fun i =>
    let p := fld t (4 + i) 1
    if i < n then p = 0xFF || decide (p < i) else p = 0xFF

/-- Key k is visible to a row at position q (modes 0–2). -/
def maskVisible (l : LayerInfo) (plen q k : Nat) : Bool :=
  match l.mask with
  | 0 => decide (k ≤ q)
  | 1 => decide (k ≤ q ∧ q < k + l.window)
  | 2 => decide (k < plen ∨ (k ≤ q ∧ q < k + l.window))
  | _ => true

/-! Frees and discards. -/

/-- Drop the prefix reference of a context; a retiring prefix without references is freed (R209). -/
def prefixRelease (c : CtxSt) (d : Dev) : Dev :=
  match c.prefix_ with
  | none => d
  | some n => if c.gen = 0 then d else match getPrefix d n with
    | none => d
    | some p =>
      let r := p.refs - 1
      if p.state = 3 && r = 0 then { d with att.prefixes := sDel d.att.prefixes n.toNat }
      else { d with att.prefixes := sSet d.att.prefixes n.toNat { p with refs := r } }

/-- Set a prefix to retiring; freed at once when nothing uses it (R209). -/
def prefixRetire (n : Nat) (d : Dev) : Dev :=
  match sFind d.att.prefixes n with
  | none => d
  | some p => if p.refs = 0 then { d with att.prefixes := sDel d.att.prefixes n }
    else { d with att.prefixes := sSet d.att.prefixes n { p with state := 3 } }

/-- What a context held goes: its pages of every tier, its attention calls, its place in the sailing; its prefix loses a reference. -/
def closeCtx1 (i : Nat) (d : Dev) : Dev :=
  match getCtx d i with
  | none => d
  | some c =>
    if c.state = 6 then d else
      let d1 := prefixRelease c d
      { d1 with
        srv.ctxs := sSet d1.srv.ctxs i { c with state := 6, pages := [], cross := [], specPage := [], blocks := [], extents := [], frames := [], cands := [] }
        srv.sail.rows := d1.srv.sail.rows.filter (fun r => r.ctx ≠ i)
        att.moves := d1.att.moves.filter (fun m => m.key.own = 2 || m.key.id ≠ i)
        att.calls := d1.att.calls.filter (fun a => a.ctx ≠ i) }

/-- Free one context: what it held and its descriptor. -/
def freeCtx1 (i : Nat) (d : Dev) : Dev := { closeCtx1 i d with srv.ctxs := sDel (closeCtx1 i d).srv.ctxs i }

/-- The contexts of a request: lead, beams, draft. -/
def ctxGroup (i : Nat) (c : CtxSt) : List Nat := i :: (c.beams ++ c.draftCtx.toList)

/-- Free a request: its context, its beams and its draft context (R249). -/
def freeCtx (i : Nat) (d : Dev) : Dev :=
  match getCtx d i with
  | none => d
  | some c => (ctxGroup i c).foldl (fun x j => freeCtx1 j x) d

/-- A request whose final entry has been delivered: Ending while the entry waits in its completion ring's hold, Free once it is written
(R249, R296). -/
def endGroup (i : Nat) (d : Dev) : Dev :=
  match getCtx d i with
  | none => d
  | some c =>
    if (getCq d c.fn c.ring).held.any (fun h => h.ctx = some i) || d.hif.late.any (fun e => e.2.2.ctx = some i) then (ctxGroup i c).foldl (fun x j => closeCtx1 j x) d else freeCtx i d

/-- History extents of 64 KiB that a context's tokens and frames take (R248); where in HBM, the spec does not say (log entry 187). -/
def growHistory (i : Nat) (d : Dev) : Dev :=
  match getCtx d i with
  | none => d
  | some c =>
    let n := ceilDiv (4 * c.history.length + c.frames.length) 65536
    let r := (List.range (n - c.extents.length)).foldl (fun (acc : List Nat × Dev) _ =>
      let f := fresh 64 acc.2
      (acc.1 ++ [f.1.toNat], f.2)) (c.extents, d)
    if c.state = 6 then d else setCtx i { c with extents := r.1.take n } r.2

def growHistories (d : Dev) : Dev := (d.srv.ctxs.map (·.1)).foldl (fun x i => growHistory i x) d

/-- Encoder positions of a context: those of its feature frames, which lie between its prefix and its own pages (R246, R248). -/
def encPos (d : Dev) (c : CtxSt) : Nat :=
  if bits c.io.toNat 0 2 ≠ 2 then 0 else
    c.length + c.toFill + (if c.pending.isSome then 1 else 0) - c.history.length - prefixLen d c

/-- Entries from index j on take tier 3 and hold nothing. -/
def dropPages (j : Nat) (p : Store PageEnt) : Store PageEnt :=
  p.map fun e => if e.1 % 16384 ≥ j then (e.1, { e.2 with tier := 3, fill := 0, data := [], moving := false, crc := 0 }) else e

/-- Positions from keep on are to be recomputed; the request keeps its state (R249). -/
def refill (keep : Nat) (c : CtxSt) : CtxSt :=
  { c with
    toFill := if keep < c.length then c.toFill + (c.length - keep) else c.toFill
    length := min c.length keep }

/-- Discard a context's own pages from index j on, in every layer; positions from there are to be recomputed (R207). -/
def discardFrom (i j : Nat) (d : Dev) : Dev :=
  modCtx i (fun c => refill (prefixLen d c + encPos d c + 64 * j) { c with pages := dropPages j c.pages }) d

/-- Discard a context's cross pages from index j on, and the own pages that were computed from them: frames and tokens are
recomputed (R248). -/
def discardCross (i j : Nat) (d : Dev) : Dev :=
  modCtx i (fun c => refill (prefixLen d c + min (encPos d c) (64 * j)) { c with cross := dropPages j c.cross, pages := dropPages 0 c.pages }) d

/-- A page entry freed: it is not valid and holds nothing; its positions stay behind. -/
def freedEnt (e : PageEnt) : PageEnt := { e with valid := false, loc := 0, tier := 1, moving := false, fill := 64, crc := 0, heat := 0, data := [] }

/-- Free own pages of a mode-1 layer whose last position is at or below L − W (R193). -/
def windowFree (i : Nat) (d : Dev) : Dev :=
  match getCtx d i with
  | none => d
  | some c =>
    let n := prefixLen d c + encPos d c
    let gone : Nat × PageEnt → Bool := fun e => e.2.valid && decide (e.2.tier ≠ 3) && match layerOf d c (e.1 / 16384) with
      | some l => l.mask = 1 && l.attKind = 1 && decide (n + (e.1 % 16384) * 64 + 63 + l.window ≤ c.length)
      | none => false
    setCtx i { c with pages := c.pages.map fun e => if gone e then (e.1, freedEnt e.2) else e } d

/-! Page maps by key. -/

def getPage (d : Dev) (k : PageKey) : Option PageEnt :=
  let key := pageKeyOf k.layer.toNat k.index
  match k.own with
  | 0 => (getCtx d k.id).bind fun c => sFind c.pages key
  | 1 => (getCtx d k.id).bind fun c => sFind c.cross key
  | _ => (sFind d.att.prefixes k.id).bind fun p => sFind p.map key

def setPage (k : PageKey) (e : PageEnt) (d : Dev) : Dev :=
  let key := pageKeyOf k.layer.toNat k.index
  match k.own with
  | 0 => modCtx k.id (fun c => { c with pages := sSet c.pages key e }) d
  | 1 => modCtx k.id (fun c => { c with cross := sSet c.cross key e }) d
  | _ => match sFind d.att.prefixes k.id with
    | some p => { d with att.prefixes := sSet d.att.prefixes k.id { p with map := sSet p.map key e } }
    | none => d

/-- The layer of a page. -/
def pageLayer (d : Dev) (k : PageKey) : Option LayerInfo :=
  if k.own = 2 then match sFind d.att.prefixes k.id with
    | some p => (getGen d p.model p.gen).bind fun g => g.layers[k.layer.toNat]?
    | none => none
  else (getCtx d k.id).bind fun c => layerOf d c k.layer.toNat

def pageTenant (d : Dev) (k : PageKey) : Nat :=
  if k.own = 2 then ((sFind d.att.prefixes k.id).map (·.tenant)).getD 0 else ((getCtx d k.id).map (·.tenant)).getD 0

/-- Every page with its key. -/
def allPages (d : Dev) : List (PageKey × PageEnt) :=
  let key : Fin 3 → Nat → Nat → PageKey := fun own id k =>
    ⟨own, id, BitVec.ofNat 16 (k / 16384), Fin.ofNat 16384 k⟩
  (d.srv.ctxs.flatMap fun c => (c.2.pages.map fun e => (key 0 c.1 e.1, e.2)) ++ (c.2.cross.map fun e => (key 1 c.1 e.1, e.2)))
    ++ d.att.prefixes.flatMap fun p => p.2.map.map fun e => (key 2 p.1 e.1, e.2)

def granOf (d : Dev) (k : PageKey) : Nat := ((pageLayer d k).map pageGran).getD 0

/-- Pages now in a tier (ATT_TIER_CNT). -/
def tierPages (d : Dev) (t : Nat) : Nat := (allPages d).countP fun e => e.2.valid && decide (e.2.tier = t)

/-! Frames: runs of granules of a tier (R190, R202). -/

/-- A tenant's key–value area (tag 0303h) and the host parking area (R206), in granules. -/
def kvArea (d : Dev) (t : Nat) : Nat := regionSize d t * cfgGet d 0x0303 t / 100 / 512
def parkArea (d : Dev) : Nat := cfgGet d 0x0402 0 / 512

/-- Frames of a tier that pages take, first granule and granules; of tier 1 those of a tenant's area. A frame that several maps name is
one frame. -/
def framesOf (d : Dev) (tier t : Nat) : List (Nat × Nat) :=
  ((allPages d).filterMap fun e =>
    if e.2.valid && decide (e.2.tier = tier) && decide (tier = 1 → pageTenant d e.1 = t) then some (e.2.loc.toNat, granOf d e.1) else none).dedup

def framesUsed (d : Dev) (tier t : Nat) : Nat := (framesOf d tier t).foldl (fun a f => a + f.2) 0
/-- Hot-store granules in use (ATT_HOT_STAT), HBM granules a tenant's pages take, host parking granules in use. -/
def hotUsed (d : Dev) : Nat := framesUsed d 0 0
def kvUsed (d : Dev) (t : Nat) : Nat := framesUsed d 1 t
def parkUsed (d : Dev) : Nat := framesUsed d 2 0

/-- Granules of a tier, and of one bank of the hot store, in which a page lies whole. -/
def tierCap (d : Dev) (tier t : Nat) : Nat := if tier = 0 then 131072 else if tier = 1 then kvArea d t else parkArea d
def hotBank : Nat := 32768

/-- A run of n granules at c is free. -/
def frameFree (used : List (Nat × Nat)) (tier cap n c : Nat) : Bool :=
  decide (c + n ≤ cap ∧ (tier = 0 → c / hotBank = (c + n - 1) / hotBank)) && used.all fun u => decide (c + n ≤ u.1 ∨ u.1 + u.2 ≤ c)

/-- The lowest free frame of a tier; which free frame a page takes, the spec does not say (log entry 20). -/
def frameFor (d : Dev) (tier t n : Nat) : Option Nat :=
  let used := framesOf d tier t
  let starts := (if tier = 0 then (List.range 4).map (hotBank * ·) else [0]) ++ used.map fun u => u.1 + u.2
  (starts.filter (frameFree used tier (tierCap d tier t) n)).min?

/-- A frame for a page; of an area without room, a free value (log entry 186). -/
def newFrame (tier t n : Nat) (d : Dev) : BitVec 40 × Dev := match frameFor d tier t n with
  | some f => (BitVec.ofNat 40 f, d)
  | none => fresh 40 d

/-! Key–value maps in HBM (R202). -/

/-- A page entry of 16 bytes. -/
def pageRaw (e : PageEnt) : Bytes :=
  toLe 5 e.loc.toNat ++ toLe 1 (e.tier + 4 * b2n e.valid + 8 * b2n e.moving + 16 * b2n e.shared) ++ toLe 1 e.fill ++ toLe 1 0
    ++ toLe 4 e.crc.toNat ++ toLe 2 e.heat.toNat ++ toLe 2 0

/-- A 4 KiB map block of a layer, and the layer's directory of 64 pointers. -/
def blockRaw (m : Store PageEnt) (layer b : Nat) : Bytes :=
  (List.range 256).flatMap fun i => ((sFind m (pageKeyOf layer (256 * b + i))).map pageRaw).getD (List.replicate 16 0)
def dirRaw (blocks : Store Nat) (layer : Nat) : Bytes := (List.range 64).flatMap fun b => toLe 8 (sGet 0 blocks (layer * 64 + b))

/-- Map blocks that a map's pages need. -/
def blocksOf (m : Store PageEnt) : List Nat := (m.map fun e => e.1 / 256).dedup

/-- Every block has an address; where in HBM, the spec does not say (log entry 187). -/
def growBlocks (bs : List Nat) (have_ : Store Nat) (d : Dev) : Store Nat × Dev :=
  bs.foldl (fun acc b => if (sFind acc.1 b).isSome then acc else let f := fresh 64 acc.2; (sSet acc.1 b f.1.toNat, f.2)) (have_, d)

/-- The map of a context, with blocks for every page of its layers. -/
def mapGrow (i : Nat) (d : Dev) : Dev :=
  match getCtx d i with
  | none => d
  | some c =>
    let r := if c.kvMap = 0 then fresh 64 d else (c.kvMap, d)
    let b := growBlocks (blocksOf (c.pages ++ c.cross)) c.blocks r.2
    setCtx i { c with kvMap := r.1, blocks := b.1 } b.2

/-! Calls of a context. -/

/-- A page of a context is lost: the output of its attention calls is unusable (R200). -/
def faultCalls (i : Nat) (d : Dev) : Dev :=
  { d with att.calls := d.att.calls.map fun a => if a.ctx = i then { a with fault := true } else a }

/-- Speculation commit: the accepted nodes' entries, in depth order, become the next entries of every layer (R195). -/
def specCommit (i : Nat) (nodes : List Nat) (d : Dev) : Dev :=
  match getCtx d i with
  | none => d
  | some c =>
    let r := c.specPage.foldl (fun (acc : Store PageEnt × Dev) e =>
      nodes.foldl (fun a n =>
        match e.2[n]? with
        | some b => let f := newFrame 1 c.tenant (((layerOf d c e.1).map pageGran).getD 0) (setCtx i { c with pages := a.1 } a.2)
                    (mapAppend f.1 e.1 b a.1, f.2)
        | none => a) acc) (c.pages, d)
    mapGrow i (setCtx i { c with pages := r.1, specPage := [] } r.2)

end Sys2Proof.Machine
end

