-- ==== Sys2Proof/Machine/Operands.lean ====
section
/-! DEFINITION. Core operands: registers, guards, immediates, the local memory map, and the frame every core instruction
runs in (R162–R165, R177, R178). -/

namespace Sys2Proof.Machine

/-! Registers. Register files: 0 scalar, 1 vector, 2 accumulator, 3 predicate, 4 context n, 5 context A, 6 context B. -/

/-- What an unwritten register holds: 0 since reset (log entry 2), undefined since a dispatch (R179). -/
def dflt (epoch file idx w : Nat) : BitVec w := if epoch = 0 then 0 else Config.freeReg epoch file idx w

/-- s0 reads 0. -/
def rs (c : CoreSt) (i : Nat) : W64 := if i = 0 then 0 else (sFind c.s i).getD (dflt c.epoch 0 i 64)
/-- Writes to s0 are ignored. -/
def ws (i : Nat) (v : W64) (c : CoreSt) : CoreSt := if i = 0 then c else { c with s := sSet c.s i v }
def rv (c : CoreSt) (i : Nat) : BitVec 1024 := (sFind c.v i).getD (dflt c.epoch 1 i 1024)
def wv (i : Nat) (v : BitVec 1024) (c : CoreSt) : CoreSt := { c with v := sSet c.v i v }
/-- p0 reads all ones. -/
def rp (c : CoreSt) (i : Nat) : W32 := if i = 0 then 0xFFFFFFFF else (sFind c.p i).getD (dflt c.epoch 3 i 32)
/-- Writes to p0 are ignored. -/
def wp (i : Nat) (v : W32) (c : CoreSt) : CoreSt := if i = 0 then c else { c with p := sSet c.p i v }
def accKey (n i j : Nat) : Nat := n * 1024 + i * 32 + j
def ra (c : CoreSt) (key : Nat) : W32 := (sFind c.acc key).getD (dflt c.epoch 2 key 32)
def wa (key : Nat) (v : W32) (c : CoreSt) : CoreSt := { c with acc := sSet c.acc key v }
def rc (c : CoreSt) (i : Nat) : RedCtx :=
  (sFind c.ctx i).getD ⟨dflt c.epoch 4 i 64, dflt c.epoch 5 i 32, dflt c.epoch 6 i 32⟩
def wc (i : Nat) (v : RedCtx) (c : CoreSt) : CoreSt := { c with ctx := sSet c.ctx i v }

/-- neg inverts the guard predicate before use. -/
def guardBits (c : CoreSt) (guard : Nat) (neg : Bool) : W32 := if neg then ~~~(rp c guard) else rp c guard

/-- Non-vector instructions are performed only when bit 0 of their guard is 1 (R162). -/
def guardOn (c : CoreSt) (guard : Nat) (neg : Bool) : Bool := bitAt (guardBits c guard neg).toNat 0

/-- Immediate, signed, as a 64-bit word. -/
def immOf : ImmForm → W64
  | .short f => f.imm.signExtend 64
  | .long f => f.imm.signExtend 64

def immD : ImmForm → Nat
  | .short f => f.d
  | .long f => f.d

def immA : ImmForm → Nat
  | .short f => f.a
  | .long f => f.a

/-- Length of the instruction in bytes. -/
def immLen : ImmForm → Nat
  | .short _ => 4
  | .long _ => 8

/-- The long form's unused mod field must be 0 (R165). -/
def immLegal : ImmForm → Bool
  | .short _ => true
  | .long f => f.mod = 0

def immGuard (c : CoreSt) : ImmForm → Bool
  | .short _ => true
  | .long f => guardOn c f.guard f.neg

/-! Local memory (R163). -/

def sramLo : Nat := 0x10000
def sramHi : Nat := 0x180000

/-- A range lies in kernel SRAM. -/
def inSram (a n : Nat) : Bool := sramLo ≤ a ∧ a + n ≤ sramHi

/-- The kernel access of a range: the map first (03h), then the alignment (02h). The runtime area and the channel descriptors
are read only; kernel SRAM follows the runtime area without a gap. -/
def accessFault (a n align : Nat) (write : Bool) : Option W8 :=
  let ok : Bool := inSram a n || (!write && (decide (a + n ≤ sramHi) || (decide (0x201000 ≤ a) && decide (a + n ≤ 0x201400))))
  if !ok then some 3 else if a % align ≠ 0 then some 2 else none

/-- A channel descriptor as it reads at 201000h + 64 × channel. -/
def chanBytes (h : ChanSt) : Bytes :=
  toLe 2 h.peer.toNat ++ [h.peerCh, h.slotLog2, h.slots, BitVec.ofNat 8 (b2n h.enable), 0, 0]
    ++ toLe 4 h.ring.toNat ++ toLe 4 0 ++ toLe 2 h.credits.toNat ++ toLe 2 h.lens.length ++ toLe 4 h.dropped.toNat
    ++ List.replicate 40 0

/-- n bytes of a core's local memory. -/
def localBytes (c : CoreSt) (a n : Nat) : Bytes :=
  if a ≥ 0x201000 then (((List.range 16).flatMap fun i => chanBytes (sGet {} c.ch i)).drop (a - 0x201000)).take n
  else getBytes c.sram a n

def localNat (c : CoreSt) (a n : Nat) : Nat := ofLe (localBytes c a n)

def putLocal (a : Nat) (bs : Bytes) (c : CoreSt) : CoreSt := { c with sram := putBytes c.sram a bs }

/-! Breakpoints and watchpoints (R178). Register layout: [21:0] address, [22] enable, [24:23] kind. -/

def brkHit (c : CoreSt) : Bool :=
  !c.brkSkip && (List.range 4).any fun i =>
    let r := (sGet 0 c.brk i).toNat
    bitAt r 22 && decide (bits r 0 22 = c.pc.toNat)

/-- A watchpoint covers an access of n bytes: kind 1 read, 2 write, 3 both. -/
def wpHit (c : CoreSt) (a n : Nat) (write : Bool) : Bool :=
  !c.brkSkip && (List.range 2).any fun i =>
    let r := (sGet 0 c.wp i).toNat
    bitAt r 22 && bitAt (bits r 23 2) (b2n write) && decide (a ≤ bits r 0 22 ∧ bits r 0 22 < a + n)

/-! Tiles that a matrix instruction reads (R168). -/

/-- Replace all 1,024 elements of an accumulator. -/
def setAcc (n : Nat) (f : Nat → W32) (c : CoreSt) : CoreSt :=
  { c with acc := c.acc.filter (fun e => decide (e.1 < n * 1024)) ++ (List.range 1024).map (fun e => (n * 1024 + e, f e))
      ++ c.acc.filter (fun e => decide (e.1 ≥ (n + 1) * 1024)) }

/-- An instruction that names an accumulator issues: the matrix instruction before it has ended. -/
def accIdle (n : Nat) (c : CoreSt) : CoreSt := { c with mma := sDel c.mma n }

/-- A store of n bytes at a: an accumulator whose matrix instruction reads a tile there holds free values. -/
def tilesWritten (k a n : Nat) (d : Dev) : Dev :=
  ((getCore d k).mma.filter fun e => e.2.any fun t => decide (a < t.1 + t.2 ∧ t.1 < a + n)).foldl (fun x e =>
    let r := fresh 32768 x
    modCore k (fun c => accIdle e.1 (setAcc e.1 (fun i => r.1.extractLsb' (32 * i) 32) c)) r.2) d

/-! The instruction frame. -/

/-- How an instruction ends: done (the pc moves on), a jump, a fault with its data address, a stall with its cause, or a
debug halt before it takes effect. -/
inductive CoreRes where
  | done (d : Dev)
  | jump (d : Dev) (pc : Nat)
  | fault (code : W8) (addr : Nat)
  | stall (cause : BitVec 3)
  | halt

/-- The fault is recorded and control passes to the runtime; the requests of the work end (R177). -/
def coreFault (k : Nat) (pc : BitVec 22) (code : W8) (addr : Nat) (d : Dev) : Dev :=
  let c := getCore d k
  let c1 := addTrace d 6 { c with
    faultPc := pc, faultAddr := BitVec.ofNat 22 addr, faultCode := code, faultValid := true,
    state := 3, stalled := false, cause := 0, brkSkip := false }
  let ctxs := match c.job with
    | some j => j.ctxs.map fun x => (x.toNat, code.toNat)
    | none => []
  { setCore k c1 d with grid.faulted := d.grid.faulted ++ ctxs }

/-! Level-3 triggers (R342). -/

/-- Mark contexts for a sailing recompute; several triggers in one sailing cause one (R343), which counts if one of them does (log entry
194). -/
def markRecompute (trigger : Nat) (ctxs : List Nat) (d : Dev) : Dev :=
  let mark : Store Nat → Nat → Store Nat := fun m c => match sFind m c with
    | some t => if t ≥ 7 ∧ trigger < 7 then sSet m c trigger else m
    | none => sSet m c trigger
  { d with rel.marks := ctxs.foldl mark d.rel.marks }

/-- Contexts of the work on a core. -/
def coreCtxs (d : Dev) (k : Nat) : List Nat :=
  match (getCore d k).job with
  | some j => j.ctxs.map (·.toNat)
  | none => []

/-- Contexts of the work a core has done in the sailing in progress (R337). -/
def coreServed (d : Dev) (k : Nat) : List Nat := ((d.grid.ran.filter fun e => e.1 = k).flatMap fun e => e.2.ctxs.map (·.toNat)).eraseDups

/-- Statuses of a fault that recovery did not clear (cause 2 of R261). -/
def isFaultEnd (s : W16) : Bool := s == 0x4001 || s == 0x4002 || s == 0x4003

/-- The status a request ends with at the next sailing end: a fault takes the place of another status. -/
def endsWith (st : W16) (c : CtxSt) : CtxSt :=
  if c.endWith.isNone || isFaultEnd st && !c.endWith.any isFaultEnd then { c with endWith := some st } else c

/-- A refused array or attention call of the work of requests: the serving runtime will end them with its code, but for
GENERATION_RETIRED (R173, R200). -/
def noteRefused (ctxs : List Nat) (code : Nat) (d : Dev) : Dev :=
  if code = 0x3001 then d
  else { d with grid.refused := d.grid.refused ++ ctxs.map fun i => (i, BitVec.ofNat 16 code) }

/-- Halt a core for the debugger (R178). -/
def coreHalt (k : Nat) (d : Dev) : Dev :=
  modCore k (fun c => if c.state = 2 then c else { c with state := 2, resumeTo := c.state, stalled := false, cause := 0 }) d

/-- Close an instruction: next pc, no stall. -/
def coreNext (k : Nat) (pc : Nat) (d : Dev) : Dev :=
  modCore k (fun c => { c with pc := BitVec.ofNat 22 pc, stalled := false, cause := 0, brkSkip := false }) d

/-- A core stops on a blocking condition; the instruction is issued again later. -/
def coreStall (k : Nat) (cause : BitVec 3) (d : Dev) : Dev :=
  modCore k (fun c => { c with stalled := true, cause := cause, brkSkip := true }) d

/-- After a single step the core halts again (R178). -/
def stepEnd (k : Nat) (d : Dev) : Dev :=
  let c := getCore d k
  if !c.stepping || c.stalled then d
  else
    let d1 := setCore k { c with stepping := false } d
    if c.state = 0 ∨ c.state = 1 then coreHalt k d1 else d1

/-- One instruction in order: breakpoint, instruction fetch inside the executable map, encoding (fault 01h), guard, body. -/
def coreOne (k : Nat) (len : Nat) (legal : Bool) (on : CoreSt → Bool) (body : CoreSt → Dev → CoreRes) (c : CoreSt) (d : Dev) :
    Dev :=
  if brkHit c then coreHalt k d
  else if c.pc.toNat + len > sramHi then coreFault k c.pc 3 c.pc.toNat d
  else if !legal then coreFault k c.pc 1 0 d
  else if !on c then coreNext k (c.pc.toNat + len) d
  else match body c d with
    | .done d1 => coreNext k (c.pc.toNat + len) d1
    | .jump d1 pc => coreNext k pc (modCore k (addTrace d 0) d1)
    | .fault code addr => coreFault k c.pc code addr d
    | .stall cause => coreStall k cause d
    | .halt => coreHalt k d

/-- Run one instruction of len bytes on a core. A halted, faulted or retired core runs none; one whose frequency changes stalls (R164). -/
def coreRun (k : Nat) (len : Nat) (legal : Bool) (on : CoreSt → Bool) (body : CoreSt → Dev → CoreRes) (d : Dev) : Dev :=
  let c := getCore d k
  if c.state = 2 ∨ c.state = 3 ∨ coreRetired d k then d
  else if c.relock then coreStall k 6 d
  else stepEnd k (coreOne k len legal on body c d)

/-- Run an R-format instruction under its guard. -/
def coreR (k : CoreIx) (f : RForm) (legal : Bool) (body : CoreSt → Dev → CoreRes) (d : Dev) : Dev :=
  coreRun k 4 legal (fun c => guardOn c f.guard f.neg) body d

/-- Run a vector instruction: the guard acts per lane, inside the body. -/
def coreV (k : CoreIx) (_f : RForm) (legal : Bool) (body : CoreSt → Dev → CoreRes) (d : Dev) : Dev :=
  coreRun k 4 legal (fun _ => true) body d

/-- Run an instruction of the I format or the long form. -/
def coreI (k : CoreIx) (f : ImmForm) (legal : Bool) (body : CoreSt → Dev → CoreRes) (d : Dev) : Dev :=
  coreRun k (immLen f) (legal && immLegal f) (fun c => immGuard c f) body d

/-- An effect on the core's own state. -/
def onCore (k : Nat) (f : CoreSt → CoreSt) (d : Dev) : CoreRes := .done (modCore k f d)

/-- A checked access of local memory: map, alignment, watchpoint, then the effect. -/
def withAccess (c : CoreSt) (a n align : Nat) (write : Bool) (r : CoreRes) : CoreRes :=
  match accessFault a n align write with
  | some code => .fault code a
  | none => if wpHit c a n write then .halt else r

/-- A checked store of local memory. -/
def withStore (k : Nat) (c : CoreSt) (a n align : Nat) (r : CoreRes) : CoreRes :=
  withAccess c a n align true (match r with
    | .done d => .done (tilesWritten k a n d)
    | x => x)

/-- First fault of a list of ranges: address, length, alignment, write. Length 0 is no range. -/
def rangesFault (rs' : List (Nat × Nat × Nat × Bool)) : Option (W8 × Nat) :=
  rs'.findSome? fun r =>
    if r.2.1 = 0 then none else (accessFault r.1 r.2.1 r.2.2.1 r.2.2.2).map fun code => (code, r.1)

/-- Checked accesses of several ranges: every map and alignment, then the watchpoints, then the effect with its stores (R163, R178). -/
def withRanges (k : Nat) (c : CoreSt) (rs' : List (Nat × Nat × Nat × Bool)) (r : CoreRes) : CoreRes :=
  match rangesFault rs' with
  | some e => .fault e.1 e.2
  | none =>
    if rs'.any fun x => decide (x.2.1 ≠ 0) && wpHit c x.1 x.2.1 x.2.2.2 then .halt
    else match r with
      | .done d => .done ((rs'.filter fun x => x.2.2.2).foldl (fun y x => tilesWritten k x.1 x.2.1 y) d)
      | x => x

end Sys2Proof.Machine
end

