-- ==== Sys2Proof/Machine/Flags.lean ====
section
/-! DEFINITION. Status a computation leaves: non-finite results (R152), the empty bit (R155), numeric events of cores. -/

namespace Sys2Proof.Machine

/-- Cases of infinity from finite operands, and of NaN from operands without NaN (R152). -/
structure Made where
  inf : Nat := 0
  nan : Nat := 0
  deriving DecidableEq, Repr

def Made.add (a b : Made) : Made := ⟨a.inf + b.inf, a.nan + b.nan⟩

/-- Judge one FP operation: its operands and its result. -/
def madeBy (ops : List FVal) (r : FVal) : Made :=
  match r with
  | .inf _ => if ops.all fIsFin then ⟨1, 0⟩ else ⟨0, 0⟩
  | .nan => if ops.any fIsNan then ⟨0, 0⟩ else ⟨0, 1⟩
  | .fin _ _ _ => ⟨0, 0⟩

/-- Model, generation and layer of the work on a core; zeros outside a dispatch. -/
def coreKey (c : CoreSt) : W16 × W16 × W16 :=
  match c.job with
  | some j => (j.model, j.gen, j.layer)
  | none => (0, 0, 0)

/-- Raise a NUM event of codes 2001h–2004h from a core: model, generation, layer, count (R139). -/
def coreNum (k : Nat) (code : W16) (sev : W8) (count : Nat) (d : Dev) : Dev :=
  if count = 0 then d else
    let c := getCore d k
    let m := coreKey c
    raiseNum ⟨code, m.1, m.2.2⟩ sev c.tenant.toNat (uCore k)
      (pay [(16, 2, m.1.toNat), (18, 2, m.2.1.toNat), (20, 2, m.2.2.toNat), (22, 4, count)]) d

/-- 2005h for one kind of case: 0 infinity, 1 NaN. -/
def coreNonFinite (k kind count : Nat) (d : Dev) : Dev :=
  if count = 0 then d else
    let c := getCore d k
    let m := coreKey c
    raiseNum ⟨0x2005, m.1, m.2.2⟩ 2 c.tenant.toNat (uCore k)
      (pay [(16, 2, m.1.toNat), (18, 2, m.2.1.toNat), (20, 2, m.2.2.toNat), (22, 1, kind), (24, 4, count)]) d

/-- A non-finite result from finite operands: the work of the core's requests is done again, the layer's planes are to be checked
against their candles and the core to be cross-checked (R342, R344). -/
def coreWatch (k : Nat) (m : Made) (d : Dev) : Dev :=
  if m = {} then d else
    let d1 := markRecompute 3 (coreCtxs d k) d
    let due := if d1.rel.xchkDue.contains (uCore k) then d1.rel.xchkDue else d1.rel.xchkDue ++ [uCore k]
    let lk : List Nat := match (getCore d k).job with
      | some j => [layerKey j.model j.gen j.layer]
      | none => []
    { d1 with rel.xchkDue := due, rel.layersDue := d1.rel.layersDue ++ lk.filter fun x => !d1.rel.layersDue.contains x }

/-- Record cases in COR_ACC_STAT and raise 2005h (R152). -/
def coreMade (k : Nat) (m : Made) (d : Dev) : Dev :=
  coreWatch k m <| coreNonFinite k 1 m.nan (coreNonFinite k 0 m.inf (modCore k (fun c => { c with
    infMade := c.infMade || decide (m.inf ≠ 0)
    nanMade := c.nanMade || decide (m.nan ≠ 0)
    infCount := BitVec.ofNat 12 (satAdd 12 c.infCount.toNat m.inf)
    nanCount := BitVec.ofNat 12 (satAdd 12 c.nanCount.toNat m.nan) }) d))

/-- The empty bit (R155, R157). -/
def coreEmpty (k : Nat) (b : Bool) (d : Dev) : Dev :=
  if b then modCore k (fun c => { c with empty := true }) d else d

end Sys2Proof.Machine
end

