-- ==== Sys2Proof/Machine/CoreVector.lean ====
section
/-! DEFINITION. Core class 4h: vector ALU (R162, R165, R166). Arithmetic follows R151 and R41. -/

namespace Sys2Proof.Machine

/-- Float format of a vector element type code. -/
def fmtOf (ty : Nat) : Option Fmt :=
  match ty with
  | 0 => some fp32 | 1 => some bf16 | 2 => some fp16 | 3 => some e4m3 | 4 => some e5m2 | _ => none

/-- Element width of a type code. -/
def tyWidth (ty : Nat) : Nat :=
  match ty with
  | 0 | 5 => 32 | 1 | 2 => 16 | _ => 8

/-- Types of arithmetic: not FP8 (cvt and reductions only), not 111b. -/
def tyArith (ty : Nat) : Bool := ty ≠ 3 && ty ≠ 4 && ty ≠ 7

def laneOf (w : Nat) (x : BitVec 1024) (i : Nat) : Nat := bits x.toNat (i * w) w

/-- A vector from its lanes. -/
def fromLanes (w : Nat) (f : Nat → Nat) : BitVec 1024 :=
  BitVec.ofNat 1024 ((List.range (1024 / w)).foldl (fun acc i => acc + (f i % 2 ^ w) <<< (i * w)) 0)

/-- The guard bit of lane i: predicate bit j governs bits [32j + 31 : 32j] (R162). -/
def laneOn (g : W32) (w i : Nat) : Bool := bitAt g.toNat (i * w / 32)

/-- New lanes where the guard allows, old ones elsewhere. -/
def merge (g : W32) (w : Nat) (old new_ : BitVec 1024) : BitVec 1024 :=
  fromLanes w fun i => if laneOn g w i then laneOf w new_ i else laneOf w old i

/-- An integer lane result: stated inside the lane's range, free outside (log entry 12). -/
def intLane (op ty : Nat) (x : Int) : Nat :=
  let w := tyWidth ty
  if -(2 ^ (w - 1) : Nat) ≤ x ∧ x < (2 ^ (w - 1) : Nat) then wrap w x else (Config.intOverflow op ty x).toNat % 2 ^ w

/-- A lane-wise operation on decoded operands: the FP rule, the integer rule, and operands old d, a, b. -/
structure LaneOp where
  op : Nat
  fp : FVal → FVal → FVal → FVal
  int : Int → Int → Int → Int

/-- One lane. -/
def laneRes (o : LaneOp) (ty : Nat) (x a b : Nat) : Nat :=
  match fmtOf ty with
  | some f => rnd f (o.fp (fdec f x) (fdec f a) (fdec f b))
  | none => let w := tyWidth ty; intLane o.op ty (o.int (signed x w) (signed a w) (signed b w))

/-- Cases of R152 in one lane; usesD: the old destination is an operand. -/
def laneMade (o : LaneOp) (usesD : Bool) (ty : Nat) (x a b : Nat) : Made :=
  match fmtOf ty with
  | some f =>
    madeBy ((if usesD then [fdec f x] else []) ++ [fdec f a, fdec f b])
      (fdec f (rnd f (o.fp (fdec f x) (fdec f a) (fdec f b))))
  | none => {}

/-- Sum the cases over the guarded lanes. -/
def sumMade (g : W32) (w : Nat) (f : Nat → Made) : Made :=
  (List.range (1024 / w)).foldl (fun m i => if laneOn g w i then m.add (f i) else m) {}

/-- Three-register lane-wise instruction: v_d = v_a op v_b (with v_d for fma); mod = type. -/
def vecBin (o : LaneOp) (usesD : Bool) (k : CoreIx) (f : RForm) (d : Dev) : Dev :=
  let ty := f.mod.val
  let w := tyWidth ty
  coreV k f (decide (f.d.val < 16 ∧ f.a.val < 16 ∧ f.b.val < 16) && tyArith ty) (fun c d1 =>
    let g := guardBits c f.guard f.neg
    let x := rv c f.d
    let a := rv c f.a
    let b := rv c f.b
    let r := fromLanes w fun i => laneRes o ty (laneOf w x i) (laneOf w a i) (laneOf w b i)
    .done (coreMade k (sumMade g w fun i => laneMade o usesD ty (laneOf w x i) (laneOf w a i) (laneOf w b i))
      (modCore k (wv f.d (merge g w x r)) d1))) d

/-- vadd (R166). -/
def execVadd (k : CoreIx) (f : RForm) (s : State) : Out :=
  run (vecBin ⟨0, fun _ a b => faddV a b, fun _ a b => a + b⟩ false k f) s
/-- vsub (R166). -/
def execVsub (k : CoreIx) (f : RForm) (s : State) : Out :=
  run (vecBin ⟨1, fun _ a b => faddV a (fnegV b), fun _ a b => a - b⟩ false k f) s
/-- vmul (R166). -/
def execVmul (k : CoreIx) (f : RForm) (s : State) : Out :=
  run (vecBin ⟨2, fun _ a b => fmulV a b, fun _ a b => a * b⟩ false k f) s
/-- vfma: v_d = v_d + v_a × v_b, rounded once (log entry 11). -/
def execVfma (k : CoreIx) (f : RForm) (s : State) : Out :=
  run (vecBin ⟨3, fun x a b => faddV x (fmulV a b), fun x a b => x + a * b⟩ true k f) s
/-- vmax: NaN with a NaN operand (R151). -/
def execVmax (k : CoreIx) (f : RForm) (s : State) : Out :=
  run (vecBin ⟨4, fun _ a b => fmaxV a b, fun _ a b => max a b⟩ false k f) s
/-- vmin (R151). -/
def execVmin (k : CoreIx) (f : RForm) (s : State) : Out :=
  run (vecBin ⟨5, fun _ a b => fminV a b, fun _ a b => min a b⟩ false k f) s

/-- Comparison of two lanes. -/
def laneCmp (eq : Bool) (ty a b : Nat) : Bool :=
  match fmtOf ty with
  | some f => if eq then feqV (fdec f a) (fdec f b) else fltV (fdec f a) (fdec f b)
  | none =>
    let w := tyWidth ty
    if eq then decide (signed a w = signed b w) else decide (signed a w < signed b w)

/-- Predicate bit j from the lanes in bits [32j + 31 : 32j]: their common outcome; free where they differ (log
entry 12). -/
def cmpBit (eq : Bool) (ty : Nat) (a b : BitVec 1024) (j : Nat) : Bool :=
  let w := tyWidth ty
  let n := 32 / w
  let r := (List.range n).map fun i => laneCmp eq ty (laneOf w a (j * n + i)) (laneOf w b (j * n + i))
  if r.all (fun x => x) then true else if r.all (fun x => !x) then false
  else (Config.freeLane (if eq then 7 else 6) ty (laneOf 32 a j) (laneOf 32 b j)).getLsbD 0

/-- clt and ceq: p_d per lane; bits of lanes the guard disables stay. -/
def vecCmp (eq : Bool) (k : CoreIx) (f : RForm) (d : Dev) : Dev :=
  let ty := f.mod.val
  coreV k f (decide (f.d.val < 8 ∧ f.a.val < 16 ∧ f.b.val < 16) && tyArith ty) (fun c => onCore k fun _ =>
    let g := guardBits c f.guard f.neg
    let old := rp c f.d
    wp f.d (BitVec.ofNat 32 ((List.range 32).foldl (fun acc j =>
      acc + b2n (if bitAt g.toNat j then cmpBit eq ty (rv c f.a) (rv c f.b) j else bitAt old.toNat j) * 2 ^ j) 0)) c) d

/-- vclt (R165). -/
def execVclt (k : CoreIx) (f : RForm) (s : State) : Out := run (vecCmp false k f) s
/-- vceq (R165). -/
def execVceq (k : CoreIx) (f : RForm) (s : State) : Out := run (vecCmp true k f) s

/-- Convert one element (R41, R459). A float that is no integer of the target's range has no stated integer value. -/
def cvtLane (src dst x : Nat) : Nat :=
  match fmtOf src, fmtOf dst with
  | some f, some g => (cvt f g .rne x).code
  | none, some g => intF g (signed x (tyWidth src))
  | none, none =>
    let v := signed x (tyWidth src)
    let w := tyWidth dst
    if -(2 ^ (w - 1) : Nat) ≤ v ∧ v < (2 ^ (w - 1) : Nat) then wrap w v
    else (Config.freeLane 8 (src * 8 + dst) x 0).toNat
  | some f, none =>
    let w := tyWidth dst
    match fdec f x with
    | .fin n m e =>
      let q := magFrac m e
      let v := sgn n (q.1 / q.2)
      if q.1 % q.2 = 0 ∧ -(2 ^ (w - 1) : Nat) ≤ v ∧ v < (2 ^ (w - 1) : Nat) then wrap w v
      else (Config.freeLane 8 (src * 8 + dst) x 0).toNat
    | _ => (Config.freeLane 8 (src * 8 + dst) x 0).toNat

/-- Cases of R152 in one conversion. -/
def cvtMade (src dst x : Nat) : Made :=
  match fmtOf src, fmtOf dst with
  | some f, some g => madeBy [fdec f x] (fdec g (cvt f g .rne x).code)
  | none, some g => madeBy [.fin false 0 0] (fdec g (intF g (signed x (tyWidth src))))
  | _, none => {}

/-- A conversion of one element to E4M3 saturates (R459). -/
def cvtSat (src dst x : Nat) : Bool := match fmtOf src, fmtOf dst with
  | some f, some g => g == e4m3 && (cvt f g .rne x).ovf
  | none, some g => g == e4m3 && (encFrac g .rne (decide (signed x (tyWidth src) < 0)) (signed x (tyWidth src)).natAbs 1).ovf
  | _, none => false

/-- vcvt: v_a of type b[2:0] to type mod, element i to element i; elements of v_d beyond those v_a holds are not stated
(log entry 12). -/
def execVcvt (k : CoreIx) (f : RForm) (s : State) : Out :=
  let src := f.b.val % 8
  let dst := f.mod.val
  let ws' := tyWidth src
  let wd := tyWidth dst
  let n := min (1024 / ws') (1024 / wd)
  run (coreV k f (decide (f.d.val < 16 ∧ f.a.val < 16 ∧ f.b.val < 7 ∧ dst < 7)) (fun c d =>
    let g := guardBits c f.guard f.neg
    let a := rv c f.a
    let r := fromLanes wd fun i =>
      if i < n then cvtLane src dst (laneOf ws' a i) else (Config.freeLane 9 (src * 8 + dst) i 0).toNat
    let sat := (List.range n).countP fun i => laneOn g wd i && cvtSat src dst (laneOf ws' a i)
    .done (coreMade k (sumMade g wd fun i => if i < n then cvtMade src dst (laneOf ws' a i) else {})
      (modCore k (fun x => { wv f.d (merge g wd (rv c f.d) r) x with op := { saturated := sat } }) d)))) s

/-- exp or rsqrt of one lane: within 1 ulp (R166); not stated for integer types. -/
def unaryLane (fn ty x : Nat) : Nat :=
  match fmtOf ty with
  | some f => if fn = 0 then expF f ty x else rsqrtF f ty x
  | none => (Config.freeLane (10 + fn) ty x 0).toNat

/-- exp and rsqrt: v_d = fn(v_a); the b field is unused. -/
def vecUnary (fn : Nat) (k : CoreIx) (f : RForm) (d : Dev) : Dev :=
  let ty := f.mod.val
  let w := tyWidth ty
  coreV k f (decide (f.d.val < 16 ∧ f.a.val < 16 ∧ f.b.val = 0) && tyArith ty) (fun c d1 =>
    let g := guardBits c f.guard f.neg
    let a := rv c f.a
    let made : Nat → Made := fun i => match fmtOf ty with
      | some g' => madeBy [fdec g' (laneOf w a i)] (fdec g' (unaryLane fn ty (laneOf w a i)))
      | none => {}
    .done (coreMade k (sumMade g w made)
      (modCore k (wv f.d (merge g w (rv c f.d) (fromLanes w fun i => unaryLane fn ty (laneOf w a i)))) d1))) d

/-- vexp (R166). -/
def execVexp (k : CoreIx) (f : RForm) (s : State) : Out := run (vecUnary 0 k f) s
/-- vrsqrt (R166). -/
def execVrsqrt (k : CoreIx) (f : RForm) (s : State) : Out := run (vecUnary 1 k f) s

/-- vbcast: the low bits of s_a to every lane; the b field is unused. -/
def execVbcast (k : CoreIx) (f : RForm) (s : State) : Out :=
  let w := tyWidth f.mod
  run (coreV k f (decide (f.d.val < 16 ∧ f.b.val = 0) && tyArith f.mod) (fun c => onCore k fun _ =>
    wv f.d (merge (guardBits c f.guard f.neg) w (rv c f.d) (fromLanes w fun _ => (rs c f.a).toNat)) c)) s

/-- vsel: v_d = p_b ? v_a : v_d, by the lanes of R162. -/
def execVsel (k : CoreIx) (f : RForm) (s : State) : Out :=
  let w := tyWidth f.mod
  run (coreV k f (decide (f.d.val < 16 ∧ f.a.val < 16 ∧ f.b.val < 8) && tyArith f.mod) (fun c => onCore k fun _ =>
    wv f.d (merge (guardBits c f.guard f.neg &&& rp c f.b) w (rv c f.d) (rv c f.a)) c)) s

/-- vperm: lane i of v_d is the lane of v_a that lane i of v_b names; an index past the last lane selects no stated lane
(log entry 12). -/
def execVperm (k : CoreIx) (f : RForm) (s : State) : Out :=
  let ty := f.mod.val
  let w := tyWidth ty
  run (coreV k f (decide (f.d.val < 16 ∧ f.a.val < 16 ∧ f.b.val < 16) && tyArith ty) (fun c => onCore k fun _ =>
    wv f.d (merge (guardBits c f.guard f.neg) w (rv c f.d) (fromLanes w fun i =>
      let j := laneOf w (rv c f.b) i
      if j < 1024 / w then laneOf w (rv c f.a) j else (Config.freeLane 13 ty i j).toNat)) c)) s

end Sys2Proof.Machine
end

