-- ==== Sys2Proof/Machine/CoreReduce.lean ====
section
/-! DEFINITION. Core class 8h: reductions over contexts c0–c3 (R154–R157, R169). -/

namespace Sys2Proof.Machine

/-- Combine neighbours once. -/
def pairUp {α : Type} (op : α → α → α) : List α → List α
  | a :: b :: r => op a b :: pairUp op r
  | l => l

/-- The fixed pairwise tree over 32 lanes: lanes 2i and 2i + 1 first, five levels (R154). -/
def treeOf {α : Type} (op : α → α → α) (z : α) (l : List α) : α :=
  (pairUp op (pairUp op (pairUp op (pairUp op (pairUp op l))))).getD 0 z
def tree (op : Nat → Nat → Nat) (l : List Nat) : Nat := treeOf op 0 l

/-! FP32 values with the cases of R152 met on the way to them: one case is one operation whose own result is infinite from finite
operands, or NaN from operands without NaN (log entry 178). -/

abbrev MVal := Nat × Made
def mv (x : Nat) : MVal := (x, {})
/-- One FP32 operation of two values. -/
def mop (f : Nat → Nat → Nat) (x y : MVal) : MVal :=
  let r := f x.1 y.1
  (r, (x.2.add y.2).add (madeBy [fdec fp32 x.1, fdec fp32 y.1] (fdec fp32 r)))
/-- The same of values whose own cases are counted elsewhere. -/
def mop0 (f : Nat → Nat → Nat) (x y : MVal) : MVal := mop f (mv x.1) (mv y.1)

/-- A chunk: elements 0–31 of a vector widened to FP32, none where the guard masks the lane. -/
def chunk (f : Fmt) (v : BitVec 1024) (g : W32) : List (Option Nat) :=
  (List.range 32).map fun i =>
    if bitAt g.toNat i then some ((cvt f fp32 .rne (laneOf (fmtWidth f) v i)).code) else none

def validN (l : List (Option Nat)) : Nat := (l.filter Option.isSome).length

/-- Larger of two magnitudes, NaN with a NaN. -/
def maxMag (a b : Nat) : Nat :=
  if fIsNan (fdec fp32 a) || fIsNan (fdec fp32 b) then fp32.nan else max (f32mag a) (f32mag b)
where f32mag (x : Nat) : Nat := x % 2 ^ 31

/-- The larger of two FP32 values, NaN with a NaN (R151): the update of absmax and its merge. -/
def maxVal (a b : Nat) : Nat :=
  if fIsNan (fdec fp32 a) || fIsNan (fdec fp32 b) then fp32.nan else if fltV (fdec fp32 a) (fdec fp32 b) then b else a

/-- A sum operation: g is applied to each element, masked lanes enter as +0.0. -/
def sumCtxM (g : Nat → MVal) (l : List (Option Nat)) (x : RedCtx) : RedCtx × Made :=
  let a := mop add32 (mv x.a.toNat) (treeOf (mop add32) (mv 0) (l.map fun e => (e.map g).getD (mv 0)))
  ({ x with a := BitVec.ofNat 32 a.1, n := x.n + BitVec.ofNat 64 (validN l) }, a.2)

/-- The merge of R155. -/
def mergeMvM (x : RedCtx) (nb : Nat) (mb qb : MVal) : RedCtx × Made :=
  if nb = 0 then (x, {})
  else if x.n = 0 then (⟨BitVec.ofNat 64 nb, BitVec.ofNat 32 mb.1, BitVec.ofNat 32 qb.1⟩, {})
  else
    let t := x.n.toNat + nb
    let a := mv x.a.toNat
    let delta := mop0 sub32 mb a
    let w := mv (div32 (nat32 nb) (nat32 t))
    let dw := mop0 mul32 delta w
    let mean := mop0 add32 a dw
    let d2 := mop0 mul32 delta delta
    let d3 := mop0 mul32 d2 (mv (nat32 x.n.toNat))
    let d4 := mop0 mul32 d3 w
    let s := mop0 add32 (mv x.b.toNat) qb
    let m2 := mop0 add32 s d4
    (⟨BitVec.ofNat 64 t, BitVec.ofNat 32 mean.1, BitVec.ofNat 32 m2.1⟩,
      [delta, dw, mean, d2, d3, d4, s, m2].foldl (fun m v => m.add v.2) {})

/-- Chunk mean and M2 (R155), then the merge. -/
def mvCtxM (l : List (Option Nat)) (x : RedCtx) : RedCtx × Made :=
  let nb := validN l
  let sum := treeOf (mop add32) (mv 0) (l.map fun e => mv (e.getD 0))
  let mb := mop0 div32 sum (mv (nat32 nb))
  let dlt : Nat → MVal := fun v => mop0 sub32 (mv v) mb
  let sq : Nat → MVal := fun v => let y := dlt v; let z := mop0 mul32 y y; (z.1, y.2.add z.2)
  let q := treeOf (mop add32) (mv 0) (l.map fun e => (e.map sq).getD (mv 0))
  let r := mergeMvM x nb mb q
  (r.1, ((sum.2.add mb.2).add q.2).add r.2)

/-- absmax (R157). -/
def absCtxM (l : List (Option Nat)) (x : RedCtx) : RedCtx × Made :=
  let a := maxVal x.a.toNat (tree maxMag (l.map fun e => (e.map (maxMag 0)).getD 0))
  ({ x with a := BitVec.ofNat 32 a, n := x.n + BitVec.ofNat 64 (validN l) }, {})

/-- Reduce the chunk of v_a into context c_d under guard. A chunk without a valid element leaves the context. mod is an
element type 000b–100b; the b field is unused. The cases of R152 it meets are counted. -/
def reduce (upd : List (Option Nat) → RedCtx → RedCtx × Made) (k : CoreIx) (f : RForm) (d : Dev) : Dev :=
  coreV k f (decide (f.d.val < 4 ∧ f.a.val < 16 ∧ f.b.val = 0 ∧ f.mod.val < 5)) (fun c d1 =>
    let l := chunk ((fmtOf f.mod).getD fp32) (rv c f.a) (guardBits c f.guard f.neg)
    if validN l = 0 then .done d1 else
      let y := upd l (rc c f.d)
      .done (coreMade k y.2 (modCore k (wc f.d y.1) d1))) d

/-- rsum (R154). -/
def execRsum (k : CoreIx) (f : RForm) (s : State) : Out := run (reduce (sumCtxM mv) k f) s
/-- rsumsq: each square is rounded to FP32 before the tree (R154). -/
def execRsumsq (k : CoreIx) (f : RForm) (s : State) : Out := run (reduce (sumCtxM fun x => mop mul32 (mv x) (mv x)) k f) s
/-- rmv: mean and variance (R155). -/
def execRmv (k : CoreIx) (f : RForm) (s : State) : Out := run (reduce mvCtxM k f) s
/-- rabs (R157). -/
def execRabs (k : CoreIx) (f : RForm) (s : State) : Out := run (reduce absCtxM k f) s

/-- rclr c_d. -/
def execRclr (k : CoreIx) (f : RForm) (s : State) : Out :=
  run (coreR k f (decide (f.d.val < 4 ∧ f.a.val = 0 ∧ f.b.val = 0 ∧ f.mod.val = 0)) (fun _ => onCore k (wc f.d {}))) s

/-- A stored context: n in bytes 0–7, A in 8–11, B in 12–15 (R169). -/
def ctxOf (b : Bytes) : RedCtx := ⟨BitVec.ofNat 64 (fld b 0 8), BitVec.ofNat 32 (fld b 8 4), BitVec.ofNat 32 (fld b 12 4)⟩
def ctxBytes (x : RedCtx) : Bytes := toLe 8 x.n.toNat ++ toLe 4 x.a.toNat ++ toLe 4 x.b.toNat

/-- Merge an incoming context under a rule of R156; one with n = 0 leaves the context. -/
def mergeCtxM (rule : Nat) (y x : RedCtx) : RedCtx × Made :=
  if y.n = 0 then (x, {}) else
    match rule with
    | 0 => mergeMvM x y.n.toNat (mv y.a.toNat) (mv y.b.toNat)
    | 1 => let a := mop add32 (mv x.a.toNat) (mv y.a.toNat)
           ({ x with a := BitVec.ofNat 32 a.1, n := x.n + y.n }, a.2)
    | _ => ({ x with a := BitVec.ofNat 32 (maxVal x.a.toNat y.a.toNat), n := x.n + y.n }, {})

/-- rmerge c_d with the 16-byte context at s_a; mod names the rule, others than 000b–010b are fault 01h. -/
def execRmerge (k : CoreIx) (f : RForm) (s : State) : Out :=
  run (coreR k f (decide (f.d.val < 4 ∧ f.b.val = 0 ∧ f.mod.val < 3)) (fun c d =>
    let a := (rs c f.a).toNat
    withAccess c a 16 8 false (
      let y := mergeCtxM f.mod (ctxOf (localBytes c a 16)) (rc c f.d)
      .done (coreMade k y.2 (modCore k (wc f.d y.1) d))))) s

/-- A result of a context: mod 000b A, 001b B, 010b n, 011b B / n, 100b B / (n − 1); and whether the empty bit is set
(R155, R157). -/
def ctxResult (m : Nat) (x : RedCtx) : W64 × Bool :=
  let v : Nat → W64 := BitVec.ofNat 64
  if x.n = 0 then (0, true)
  else match m with
    | 0 => (v x.a.toNat, false)
    | 1 => (v x.b.toNat, false)
    | 2 => (x.n, false)
    | 3 => (v (div32 x.b.toNat (nat32 x.n.toNat)), false)
    | _ => if x.n = 1 then (0, true) else (v (div32 x.b.toNat (nat32 (x.n.toNat - 1))), false)

/-- rget s_d from c_a. -/
def execRget (k : CoreIx) (f : RForm) (s : State) : Out :=
  run (coreR k f (decide (f.a.val < 4 ∧ f.b.val = 0 ∧ f.mod.val < 5)) (fun c d =>
    let r := ctxResult f.mod (rc c f.a)
    .done (coreEmpty k r.2 (modCore k (ws f.d r.1) d)))) s

/-- rput c_a to the 16 bytes at s_b. -/
def execRput (k : CoreIx) (f : RForm) (s : State) : Out :=
  run (coreR k f (decide (f.d.val = 0 ∧ f.a.val < 4 ∧ f.mod.val = 0)) (fun c d =>
    let b := (rs c f.b).toNat
    withStore k c b 16 8 (onCore k (putLocal b (ctxBytes (rc c f.a))) d))) s

end Sys2Proof.Machine
end

