-- ==== Sys2Proof/Machine/Assign.lean ====
section
/-! DEFINITION. What a layer's rows see (R192, R194), slices and work items (R196), and the assignment of items to pipelines (R197,
R199, R377). -/

namespace Sys2Proof.Machine

/-! Sorting. -/

/-- Insertion by an order. -/
def insBy {α : Type} (lt : α → α → Bool) (x : α) : List α → List α
  | [] => [x]
  | y :: r => if lt x y then x :: y :: r else y :: insBy lt x r
/-- Sort by an order, stable for equal elements. -/
def sortBy {α : Type} (lt : α → α → Bool) (l : List α) : List α := l.foldl (fun acc x => insBy lt x acc) []

/-! Keys in sight. -/

/-- Rows of a layer step: the first's position, how many, and the key positions in sight of the last; the prefix ends at plen. -/
structure RowSpan where
  start : Nat
  n : Nat
  total : Nat
  plen : Nat

/-- Keys at positions lo to hi − 1 that some row at positions q0 to q1 sees (R192). An encoder layer in mode 3 sees the encoder rows of
the call. -/
def seenIn (l : LayerInfo) (r : RowSpan) (q0 q1 lo hi : Nat) : Nat :=
  let top := min hi r.total
  let w := q0 + 1 - l.window
  match l.mask with
  | 0 => min top (q1 + 1) - lo
  | 1 => min top (q1 + 1) - max lo w
  | 2 => (min top r.plen - lo) + (min top (q1 + 1) - max lo (max w r.plen))
  | _ => if l.attKind = 2 then min top (r.start + r.n) - max lo r.start else top - lo

/-- Rows of a query block: block b holds rows 64b to 64b + 63 (R196). -/
def blockSpan (r : RowSpan) (b : Nat) : Nat × Nat := (r.start + 64 * b, r.start + min r.n (64 * b + 64) - 1)

/-- Keys of slice s that a query block sees. -/
def sliceSeen (l : LayerInfo) (r : RowSpan) (b s : Nat) : Nat :=
  seenIn l r (blockSpan r b).1 (blockSpan r b).2 (4096 * s) (4096 * s + 4096)

/-- Slices with an item for a query block: those not wholly masked, ascending (R196, R197). -/
def neededSlices (l : LayerInfo) (r : RowSpan) (b : Nat) : List Nat :=
  (List.range (ceilDiv r.total 4096)).filter fun s => decide (sliceSeen l r b s ≠ 0)

/-- Rows of a sailing row or chunk in a layer. Encoder positions follow the prefix and run in encoder layers; the others run in the
other layers, their positions counted over the prefix and the own pages (R246, R248). A cross-attention layer sees the cross pages. -/
def sailSpan (d : Dev) (c : CtxSt) (i : Nat) (l : LayerInfo) (r : SailRow) : RowSpan :=
  let p := prefixLen d c
  let enc := encPos d c
  if l.attKind = 2 then
    let a := r.start - p
    let n := min r.n (enc - a)
    { start := a, n := n, total := a + n, plen := 0 }
  else
    let a := max r.start (p + enc) - enc
    let n := r.start + r.n - enc - a
    { start := a, n := n, total := if l.attKind = 3 then mapFill c.cross i else a + n, plen := if l.attKind = 3 then 0 else p }

/-! Items (R196, R197). -/

/-- cost(R, G, keys) of R197. -/
def itemCost (l : LayerInfo) (r g keys : Nat) : Nat :=
  256 + ceilDiv keys 32 * ceilDiv (32 * r * g * (2 * l.dl + 2 * l.p)) 4096

/-- Head group size: the largest allowed divisor of H within the target, else the smallest allowed. -/
def headGroup (l : LayerInfo) (r keys t : Nat) : Nat :=
  let ok := (List.range l.heads).map (· + 1) |>.filter fun g =>
    decide (l.heads % g = 0 ∧ r * g * l.dl ≤ 65536 ∧ r * g * entrySize l ≤ 65536)
  match (ok.filter fun g => decide (itemCost l r g (min keys 4096) ≤ t)).getLast? with
  | some g => g
  | none => ok.headD 1

/-- Items of a request's rows in a layer; a slice wholly masked gives none. -/
def reqItems (l : LayerInfo) (ctx : Nat) (r : RowSpan) (t : Nat) : List ItemGiven :=
  let rows := min 64 r.n
  let last := r.start + r.n - 1
  let g := headGroup l rows (seenIn l r last last 0 r.total) t
  if r.n = 0 then [] else
    (List.range (ceilDiv r.n 64)).flatMap fun b => (List.range (l.heads / max 1 g)).flatMap fun h =>
      (neededSlices l r b).map fun s => ⟨0, itemCost l rows g (sliceSeen l r b s), ctx, b, h, s⟩

/-- Cost descending, then context, block, group, slice ascending. -/
def itemBefore (a b : ItemGiven) : Bool :=
  if a.cost ≠ b.cost then decide (a.cost > b.cost) else if a.ctx ≠ b.ctx then decide (a.ctx < b.ctx)
  else if a.block ≠ b.block then decide (a.block < b.block) else if a.head ≠ b.head then decide (a.head < b.head)
  else decide (a.slice < b.slice)

/-! Assignment. -/

/-- Logical pipelines that take items: mapped to a pipeline in service whose quadrant has its core voltage (R197). -/
def pipesUsable (d : Dev) : List Nat := (List.range 64).filter fun n =>
  decide (physPipe d n < 68 ∧ (getUnit d (uPipe (physPipe d n))).state = 0 ∧ freqAt (vcore d (physPipe d n / 17)) ≠ 0)

/-- Summed cost on a logical pipeline. -/
def pipeLoad (gs : List ItemGiven) (p : Nat) : Nat := gs.foldl (fun a g => if g.pipe = p then a + g.cost else a) 0

/-- Give items in order to the least loaded pipeline, lowest index on ties. -/
def assignItems (ps : List Nat) (items : List ItemGiven) (have_ : List ItemGiven) : List ItemGiven :=
  items.foldl (fun gs it =>
    match ps.foldl (fun (b : Option Nat) p => match b with
      | none => some p
      | some q => if pipeLoad gs p < pipeLoad gs q then some p else b) none with
    | none => gs
    | some p => gs ++ [{ it with pipe := p }]) have_

/-- Sets of pipelines: one of ⌈share × the pipelines available⌉ for each tenant with a reservation, at least 1, and one for
everyone else (R377); which pipelines a set takes is the model's choice (log entry 34). -/
def pipeSets (d : Dev) : List (Option Nat × List Nat) :=
  let ps := pipesUsable d
  let owners := (List.range 64).filter fun t => cfgGet d 0x0306 t ≠ 0
  let r := owners.foldl (fun (acc : List (Option Nat × List Nat) × List Nat) t =>
    let n := max 1 (ceilDiv (cfgGet d 0x0306 t * ps.length) 100)
    (acc.1 ++ [(some t, acc.2.take n)], acc.2.drop n)) ([], ps)
  r.1 ++ [(none, r.2)]

/-- A tenant's items belong to a set. -/
def inSet (sets : List (Option Nat × List Nat)) (e : Option Nat × List Nat) (tenant : Nat) : Bool := match e.1 with
  | some t => tenant = t
  | none => !(sets.filterMap (·.1)).contains tenant

/-- Layers of a generation whose rows see keys, one for each shape: mask, window, heads, widths and what the rows see. -/
def attShapes (gs : GenSt) (keys : Nat → LayerInfo → List (Nat × Nat × Nat)) : List (Nat × LayerInfo) :=
  (List.range gs.layers.length).foldl (fun acc i => match gs.layers[i]? with
    | none => acc
    | some l =>
      if l.attKind = 0 || acc.any (fun x => x.2.mask = l.mask && x.2.window = l.window && x.2.heads = l.heads && x.2.dl = l.dl && x.2.p = l.p
          && x.2.dh = l.dh && keys x.1 x.2 = keys i l) then acc
      else acc ++ [(i, l)]) []

/-- Assignment of the sailing's rows, for every layer shape of its models (R197, R199), within each set of R377. -/
def headAssign (d : Dev) (rows : List SailRow) : List ItemGiven :=
  let gens := (rows.filterMap fun r => (getCtx d r.ctx).map fun c => (c.model, c.gen)).dedup
  let sets := pipeSets d
  gens.foldl (fun out g =>
    match getGen d g.1 g.2 with
    | none => out
    | some gs =>
      let mine := rows.filterMap fun r => (getCtx d r.ctx).bind fun c => if c.model = g.1 ∧ c.gen = g.2 then some (r, c) else none
      let span : Nat → LayerInfo → SailRow × CtxSt → RowSpan := fun i l x => sailSpan d x.2 i l x.1
      (attShapes gs fun i l => mine.map fun x => let s := span i l x; (s.start, s.n, s.total)).foldl (fun out2 s =>
        out2 ++ sets.foldl (fun have_ e =>
          let its := (mine.filter fun x => inSet sets e x.2.tenant).flatMap fun x => reqItems s.2 x.1.ctx (span s.1 s.2 x) d.att.itemTarget.toNat
          assignItems e.2 (sortBy itemBefore its) have_) []) out) []

/-- Contexts of the sailing's items on a logical pipeline. -/
def pipeCtxs (d : Dev) (n : Nat) : List Nat := ((d.att.given.filter fun g => g.pipe = n).map (·.ctx)).dedup

/-- Items and summed cost of each logical pipeline, as the placement query reads them. -/
def pipeLoads (gs : List ItemGiven) : Store (Nat × Nat) :=
  gs.foldl (fun m g => let x := sGet (0, 0) m g.pipe; sSet m g.pipe (x.1 + 1, x.2 + g.cost)) []

/-- Items on pipelines that may take none any more go to those that remain, by the same rule (R199). The items still to be started are
those the sailing in progress gave out; which of them have started, the placement engine knows (log entry 185). -/
def reassign (d : Dev) : Dev :=
  let ps := pipesUsable d
  let stay := d.att.given.filter fun g => ps.contains g.pipe
  let go := d.att.given.filter fun g => !ps.contains g.pipe
  if go.isEmpty then d else
    let sets := pipeSets d
    let tenantOf : ItemGiven → Nat := fun g => ((getCtx d g.ctx).map (·.tenant)).getD 0
    let gs := sets.foldl (fun have_ e => assignItems e.2 (sortBy itemBefore (go.filter fun g => inSet sets e (tenantOf g))) have_) stay
    { d with att.given := gs, att.assign := pipeLoads gs }

end Sys2Proof.Machine
end

