-- ==== Sys2Proof/Machine/CoreMsg.lean ====
section
/-! DEFINITION. Core class 9h and the network: messages, channels and credits (R170, R171). -/

namespace Sys2Proof.Machine

def getCh (c : CoreSt) (n : Nat) : ChanSt := sGet {} c.ch n
def setCh (n : Nat) (h : ChanSt) (c : CoreSt) : CoreSt := { c with ch := sPut {} c.ch n h }

/-- Physical core at the other end of a channel; 272 when unconnected. -/
def chPeer (d : Dev) (h : ChanSt) : Nat := if h.peer = 0xFFFF then 272 else physCore d (h.peer.toNat % 256)

/-- A channel that send, recv and mfree may use: configured, connected and enabled. R170 states fault 05h for an unconfigured channel;
that a side which is disabled counts as one is the model's choice (log entry 179). -/
def chUsable (h : ChanSt) : Bool := h.enable && h.peer != 0xFFFF

/-- Largest message the peer accepts: its slot size, never more than 4 KiB. -/
def peerSlot (d : Dev) (h : ChanSt) : Nat :=
  let p := getCh (getCore d (chPeer d h)) h.peerCh.toNat
  if p.enable then min 4096 (2 ^ p.slotLog2.toNat) else 4096

/-- Number of a side: the physical core and the channel. -/
def sideNo (k ch : Nat) : Nat := k * 16 + ch + 1

/-- Credits a side may use: those granted by the side its descriptor names. -/
def sendCredits (d : Dev) (h : ChanSt) : Nat := if h.grantor = sideNo (chPeer d h) h.peerCh.toNat then h.credits.toNat else 0

/-- Inject a message against a credit. -/
def inject (k ch : Nat) (h : ChanSt) (bytes : Bytes) (d : Dev) : Dev :=
  let d1 := modCore k (fun c => addTrace d 1 (setCh ch { h with credits := h.credits - 1 } c)) d
  { d1 with grid.net := d1.grid.net ++ [⟨k, chPeer d h, h.peerCh.toNat, bytes⟩] }

/-- send and sendnb: channel first (05h), then length (04h), then the source's map (03h), then the credit. -/
def sendBody (k ch : Nat) (a len : Nat) (c : CoreSt) (noCredit : Dev → CoreRes) (sent : Dev → CoreRes) (d : Dev) :
    CoreRes :=
  let h := getCh c ch
  if !chUsable h then .fault 5 0
  else if len = 0 ∨ len > peerSlot d h then .fault 4 a
  else withAccess c a len 1 false
    (if sendCredits d h = 0 then noCredit d else sent (inject k ch h (localBytes c a len) d))

/-- send ch_d, s_a (address), s_b (length): blocks until a credit is held. -/
def execSend (k : CoreIx) (f : RForm) (s : State) : Out :=
  run (coreR k f (decide (f.d.val < 16 ∧ f.mod.val = 0)) (fun c d =>
    sendBody k f.d (rs c f.a).toNat (rs c f.b).toNat c (fun _ => .stall 1) .done d)) s

/-- sendnb: sends only if a credit is held and writes success to predicate mod. -/
def execSendnb (k : CoreIx) (f : RForm) (s : State) : Out :=
  run (coreR k f (decide (f.d.val < 16)) (fun c d =>
    sendBody k f.d (rs c f.a).toNat (rs c f.b).toNat c
      (fun d1 => .done (modCore k (wp f.mod 0) d1)) (fun d1 => .done (modCore k (wp f.mod 1) d1)) d)) s

/-- Address of the oldest unreleased slot. -/
def slotAddr (h : ChanSt) : Nat := h.ring.toNat + h.head * 2 ^ h.slotLog2.toNat

/-- The oldest message's slot address and length; the slot is not released. -/
def recvTake (d : Dev) (ch : Nat) (h : ChanSt) (len rd : Nat) (c : CoreSt) : CoreSt :=
  addTrace d 2 (ws (rd + 1) (BitVec.ofNat 64 len) (ws rd (BitVec.ofNat 64 (slotAddr h)) (setCh ch { h with headRead := true } c)))

/-- recv s_d, s_d+1 from ch_a: blocks until the oldest unreleased slot holds a message. -/
def execRecv (k : CoreIx) (f : RForm) (s : State) : Out :=
  run (coreR k f (decide (f.d.val % 2 = 0 ∧ f.a.val < 16 ∧ f.b.val = 0 ∧ f.mod.val = 0)) (fun c d =>
    let h := getCh c f.a
    if !chUsable h then .fault 5 0
    else match h.lens with
      | [] => .stall 2
      | len :: _ => .done (modCore k (recvTake d f.a h len f.d) d))) s

/-- recvnb: returns at once and writes success to predicate mod. -/
def execRecvnb (k : CoreIx) (f : RForm) (s : State) : Out :=
  run (coreR k f (decide (f.d.val % 2 = 0 ∧ f.a.val < 16 ∧ f.b.val = 0)) (fun c d =>
    let h := getCh c f.a
    if !chUsable h then .fault 5 0
    else match h.lens with
      | [] => .done (modCore k (wp f.mod 0) d)
      | len :: _ => .done (modCore k (fun x => wp f.mod 1 (recvTake d f.a h len f.d x)) d))) s

/-- Release the oldest received slot; its credit is on its way back to the peer. -/
def freeSlot (k ch : Nat) (h : ChanSt) (d : Dev) : Dev :=
  match h.lens with
  | [] => d
  | _ :: r =>
    let d1 := modCore k (setCh ch { h with
      lens := r, head := (h.head + 1) % max 1 h.slots.toNat, headRead := false }) d
    let p := chPeer d h
    if p < 272 then
      modCore p (fun x => let y := getCh x h.peerCh.toNat
                          setCh h.peerCh.toNat (if y.grantor = sideNo k ch then { y with returning := y.returning + 1 } else y) x) d1
    else d1

/-- mfree ch_a. With no slot held it releases none. -/
def execMfree (k : CoreIx) (f : RForm) (s : State) : Out :=
  run (coreR k f (decide (f.d.val = 0 ∧ f.a.val < 16 ∧ f.b.val = 0 ∧ f.mod.val = 0)) (fun c d =>
    let h := getCh c f.a
    if !chUsable h then .fault 5 0 else .done (freeSlot k f.a h d))) s

/-- Remove the first element that satisfies p. -/
def takeFirst {α : Type} (p : α → Bool) : List α → Option (α × List α)
  | [] => none
  | x :: r => if p x then some (x, r) else match takeFirst p r with
    | none => none
    | some (y, r') => some (y, x :: r')

/-- The oldest message in flight to a channel reaches its receive slot; a halted core receives too (R170, R178). -/
def msgDeliver (k ch : Nat) (d : Dev) : Dev :=
  match takeFirst (fun m => decide (m.dst = k ∧ m.ch = ch)) d.grid.net with
  | none => d
  | some (m, rest) =>
    let c := getCore d k
    let h := getCh c ch
    let d1 := { d with grid.net := rest }
    if !h.enable then d1 else
      let slot := (h.head + h.lens.length) % max 1 h.slots.toNat
      modCore k (fun c => putLocal (h.ring.toNat + slot * 2 ^ h.slotLog2.toNat) m.bytes
        (setCh ch { h with lens := h.lens ++ [m.bytes.length] } c)) d1

/-- Messages in flight to a channel. -/
def inFlight (d : Dev) (k ch : Nat) : List Msg := d.grid.net.filter fun m => decide (m.dst = k ∧ m.ch = ch)

/-- Every message in flight to a channel arrives. -/
def drainCh (k ch : Nat) (d : Dev) : Dev := (inFlight d k ch).foldl (fun x _ => msgDeliver k ch x) d

/-- Disable a side (R170): every message already sent to it has arrived; unread ones are discarded and counted, and the credits it
granted lapse. -/
def chDisable (k ch : Nat) (d0 : Dev) : Dev :=
  let d := drainCh k ch d0
  let h := getCh (getCore d k) ch
  if !h.enable then d else
    let d2 := modCore k (setCh ch { h with
      enable := false, lens := [], head := 0, headRead := false
      dropped := BitVec.ofNat 32 (satAdd 32 h.dropped.toNat (h.lens.length - b2n h.headRead)) }) d
    let p := chPeer d h
    if p < 272 then
      modCore p (fun x => let y := getCh x h.peerCh.toNat
                          setCh h.peerCh.toNat (if y.grantor = sideNo k ch then { y with credits := 0, returning := 0 } else y) x) d2
    else d2

/-- Enable a side with a new descriptor: it grants its peer one credit for each receive slot, in place of what another side granted
there. -/
def chEnable (k ch : Nat) (h : ChanSt) (d : Dev) : Dev :=
  let d1 := modCore k (fun c =>
    let old := getCh c ch
    setCh ch { h with credits := old.credits, grantor := old.grantor, returning := old.returning, dropped := old.dropped, enable := true } c)
    (chDisable k ch d)
  let p := chPeer d h
  if p < 272 then
    modCore p (fun x => let y := getCh x h.peerCh.toNat
                        setCh h.peerCh.toNat { y with credits := h.slots.zeroExtend 16, grantor := sideNo k ch, returning := 0 } x) d1
  else d1

/-- A channel descriptor's fields. -/
def chanOf (b : Bytes) : ChanSt :=
  { peer := BitVec.ofNat 16 (fld b 0 2), peerCh := BitVec.ofNat 8 (fld b 2 1), slotLog2 := BitVec.ofNat 8 (fld b 3 1)
    slots := BitVec.ofNat 8 (fld b 4 1), ring := BitVec.ofNat 32 (fld b 8 4) }

/-- Field ranges and reserved bytes of a descriptor to be enabled; the read-only bytes 16–23 are not looked at. -/
def chanOk (b : Bytes) : Bool :=
  let h := chanOf b
  (h.peer = 0xFFFF || decide (h.peer.toNat < 256)) && decide (h.peerCh.toNat ≤ 13)
    && decide (6 ≤ h.slotLog2.toNat ∧ h.slotLog2.toNat ≤ 12) && decide (1 ≤ h.slots.toNat ∧ h.slots.toNat ≤ 64)
    && zeros b 6 2 && zeros b 12 4 && zeros b 24 40

/-- chcfg ch_d, s_a: ch14 and ch15 are fault 05h; a bad descriptor is fault 01h; the ring lies in kernel SRAM, aligned to
the slot size. Disabling waits for the messages already sent, as a receive does (log entry 181); with enable = 0 the descriptor's other
fields are not looked at and not stored, the model's choice (log entry 180). -/
def execChcfg (k : CoreIx) (f : RForm) (s : State) : Out :=
  run (coreR k f (decide (f.d.val < 16 ∧ f.b.val = 0 ∧ f.mod.val = 0)) (fun c d =>
    if f.d.val ≥ 14 then .fault 5 0 else
      let a := (rs c f.a).toNat
      withAccess c a 64 32 false (
        let b := localBytes c a 64
        if fld b 5 1 > 1 then .fault 1 a
        else if fld b 5 1 = 0 then (if (inFlight d k f.d).isEmpty then .done (chDisable k f.d d) else .stall 2)
        else if !chanOk b then .fault 1 a
        else if !(inFlight d k f.d).isEmpty then .stall 2
        else
          let h := chanOf b
          match accessFault h.ring.toNat (h.slots.toNat * 2 ^ h.slotLog2.toNat) (2 ^ h.slotLog2.toNat) true with
          | some code => .fault code h.ring.toNat
          | none => .done (chEnable k f.d h d)))) s

/-- One for a core below Idle stays in flight and wakes it (R29). -/
def messageArrive (k ch : Nat) (d : Dev) : Dev :=
  if domHolds d k then (if (inFlight d k ch).isEmpty then d else domAsk k d) else msgDeliver k ch d

/-- MESSAGE_ARRIVE (R170). -/
def execMessageArrive (k : CoreIx) (ch : Fin 16) (s : State) : Out := run (messageArrive k ch) s

/-- A returned credit reaches the sending side (R170). -/
def creditReturn (k ch : Nat) (d : Dev) : Dev :=
  let h := getCh (getCore d k) ch
  if h.returning = 0 then d
  else if domHolds d k then domAsk k d
  else modCore k (setCh ch { h with returning := h.returning - 1, credits := h.credits + 1 }) d

/-- CREDIT_RETURN (R170). -/
def execCreditReturn (k : CoreIx) (ch : Fin 16) (s : State) : Out := run (creditReturn k ch) s

end Sys2Proof.Machine
end

