-- ==== Sys2Proof/Machine/Health.lean ====
section
/-! DEFINITION. Unit health: charging a unit with an event, Suspect, retirement, spares, the ledger, capacity
(R160, R161, R338–R347, R350–R351, R353). -/

namespace Sys2Proof.Machine

/-- Powered time in seconds (R345). -/
def ptimeS (d : Dev) : Nat := d.rel.ptimeUs / 1000000


/-- Events counted within a window of powered seconds that ends now. -/
def eventsIn (d : Dev) (u : UnitRec) (window : Nat) : Nat :=
  (u.times.filter fun t => decide (ptimeS d < t + window)).length

def day : Nat := 86400
def ev24 (d : Dev) (u : UnitRec) : Nat := eventsIn d u day
def ev30 (d : Dev) (u : UnitRec) : Nat := eventsIn d u (30 * day)

/-! Ledger (R350, R351). -/

def getSector (d : Dev) (i : Nat) : Sector := sGet {} d.rel.sectors i

/-- The records a compaction keeps: retirements, spare-map entries, a summary of each unit with events in the last 30
days, and the latest checkpoint. -/
def compacted (d : Dev) : List LedgerRec :=
  let all := (d.rel.sectors.filter fun s => s.2.state ≠ 0xFF).flatMap fun s => s.2.recs
  let sums := (d.rel.units.filter fun u => decide (ev30 d u.2 > 0)).map fun u =>
    (⟨5, 0, 0, BitVec.ofNat 32 u.1, BitVec.ofNat 64 (ptimeS d),
      BitVec.ofNat 112 (lay [(0, 2, ev24 d u.2), (2, 2, ev30 d u.2), (4, 4, u.2.life)])⟩ : LedgerRec)
  let cps := all.filter fun r => r.type = 4
  (all.filter fun r => (r.type = 2 && r.cause = 3) || r.type = 3) ++ sums ++ (cps.drop (cps.length - 1))

/-- Close the open sector and open the next erased one; 56 full sectors are compacted first. -/
def nextSector (d : Dev) : Dev :=
  let i := d.rel.openSector.toNat
  let s := getSector d i
  let d1 := { d with rel.sectors := sPut {} d.rel.sectors i { s with state := 0x3F } }
  let j := (i + 1) % 64
  let opened := { d1 with
    rel.sectors := sPut {} d1.rel.sectors j { seq := s.seq + 1, state := 0x7F, recs := [] }, rel.openSector := BitVec.ofNat 6 j }
  if (d1.rel.sectors.filter fun x => x.2.state = 0x3F).length < 56 then opened
  else
    let recs := compacted d1
    let n := max 1 (ceilDiv recs.length 2046)
    { d1 with
      rel.sectors := (List.range n).foldl (fun (m : Store Sector) k => sPut {} m ((j + k) % 64)
        { seq := s.seq + 1 + BitVec.ofNat 32 k, state := if k + 1 = n then 0x7F else 0x3F, recs := (recs.drop (2046 * k)).take 2046 }) []
      rel.openSector := BitVec.ofNat 6 ((j + n - 1) % 64) }

/-- Write a record: 2,046 records fill a sector. -/
def ledgerWrite (r : LedgerRec) (d : Dev) : Dev :=
  let d0 := if (getSector d d.rel.openSector.toNat).recs.length ≥ 2046 then nextSector d else d
  let i := d0.rel.openSector.toNat
  let s := getSector d0 i
  { d0 with rel.sectors := sPut {} d0.rel.sectors i { s with
      state := 0x7F, recs := s.recs ++ [r] } }

/-- Append a record; while the input is below 38 V the write is deferred (R381). -/
def ledgerAdd (type cause : W8) (cls : W16) (unit : W32) (p : BitVec 112) (d : Dev) : Dev :=
  let r : LedgerRec := ⟨type, cause, cls, unit, BitVec.ofNat 64 (ptimeS d), p⟩
  if d.pwr.vinLow then { d with rel.deferred := d.rel.deferred ++ [r] } else ledgerWrite r d

/-- An event record, within 4 a unit and 1,000 in all for the hour; others are counted and held (R351). -/
def ledgerEvent (code : W16) (unit : W32) (d : Dev) : Dev :=
  let n := sGet 0 d.rel.hourUnit unit.toNat
  if n < 4 ∧ d.rel.hourAll < 1000 then
    ledgerAdd 1 (code.truncate 8) (code >>> 8) unit 0
      { d with rel.hourUnit := sPut 0 d.rel.hourUnit unit.toNat (n + 1), rel.hourAll := d.rel.hourAll + 1 }
  else { d with rel.hourHeld := sPut 0 d.rel.hourHeld unit.toNat (sGet 0 d.rel.hourHeld unit.toNat + 1) }

/-- A unit's state in the ledger: 1 Suspect, 2 returned, 3 retired. -/
def ledgerState (st : W8) (code : W16) (unit : W32) (d : Dev) : Dev := ledgerAdd 2 st (code >>> 8) unit 0 d

/-! A call that faults (R342). -/

/-- An array or attention call of a core ended with its fault flag. The runtime issues it once more; when the same call of the same
dispatch faults again, the work of its requests is done again (trigger 1). -/
def noteCallFault (k : Nat) (desc : Bytes) (ctxs : List Nat) (d : Dev) : Dev :=
  let e : Nat × Nat × Bytes := (k, (getCore d k).epoch, desc)
  if d.grid.faultCalls.contains e then markRecompute 1 ctxs d
  else { d with grid.faultCalls := d.grid.faultCalls ++ [e] }

/-! Capacity (R347). -/

def activeCores (d : Dev) : Nat := (List.range 256).countP fun l => decide (physCore d l < 272)

def activePipes (d : Dev) : Nat := (List.range 64).countP fun n => decide (physPipe d n < 68)

/-- Units of a kind that are retired. -/
def retiredOf (d : Dev) (kind : Nat) : Nat :=
  (d.rel.units.filter fun u => u.1 / 2 ^ 28 = kind && decide (u.2.state = 2)).length

/-- The guaranteed segment positions (R64, R346). -/
def guaranteed (d : Dev) : Nat := 38146973 - 4 * (d.rel.retiredPlanes - 500000)

/-- Whether cause n of 4007h holds, and the new figure it reports. Cause 6 is begun by power throttling itself. -/
def causeHolds (d : Dev) (n : Nat) : Bool :=
  match n with
  | 1 => decide (activeCores d < 256)
  | 2 => decide (activePipes d < 64)
  | 3 => decide (retiredOf d 2 > 0)
  | 4 => decide (retiredChannels d > 0)
  | 5 => decide (guaranteed d < 38146973)
  | _ => d.rel.causes.getLsbD 5

def causeFigure (d : Dev) (n : Nat) : Nat :=
  match n with
  | 1 => activeCores d
  | 2 => activePipes d
  | 3 => 16 - retiredOf d 2
  | 4 => 128 - retiredChannels d
  | _ => guaranteed d

/-- Judge causes 1–5 of R347 again; 4007h reports each cause that begins. -/
def capacityCauses (d : Dev) : Dev :=
  [1, 2, 3, 4, 5].foldl (fun x n =>
    let was := x.rel.causes.getLsbD (n - 1)
    if causeHolds x n then
      (if was then x else
        raise 0x4007 3 0 uDevice (pay [(16, 1, n), (20, 4, causeFigure x n)])
          { x with rel.causes := x.rel.causes ||| (1 <<< (n - 1)) })
    else { x with rel.causes := x.rel.causes &&& ~~~((1 : BitVec 6) <<< (n - 1)) }) d

/-- Report cause 6, power throttling (R347, R399): figure L in W, or a derated rating in 0.1 A. -/
def throttleBegins (figure : Nat) (d : Dev) : Dev :=
  raise 0x4007 3 0 uDevice (pay [(16, 1, 6), (20, 4, figure)]) { d with rel.causes := d.rel.causes ||| 32 }

def throttleEnds (d : Dev) : Dev := { d with rel.causes := d.rel.causes &&& 31 }

/-! Spares (R160, R161, R180). -/

def unitRetired (d : Dev) (u : W32) : Bool := decide ((getUnit d u).state = 2)

/-- Mesh distance between two physical cores. -/
def meshDist (a b : Nat) : Nat :=
  let dr := (a / 17 : Int) - (b / 17 : Nat)
  let dc := (a % 17 : Int) - (b % 17 : Nat)
  dr.natAbs + dc.natAbs

/-- The healthy unmapped core of the quadrant nearest to a core, ties to the lowest index. -/
def coreSpare (d : Dev) (k : Nat) : Option Nat :=
  let q := k / 68
  let cand := (List.range 68).map (q * 68 + ·) |>.filter fun x =>
    x ≠ k && (logicalCore d x).isNone && decide ((getUnit d (uCore x)).state = 0)
  cand.foldl (fun best x => match best with
    | none => some x
    | some b => if meshDist x k < meshDist b k then some x else some b) none

/-- Work of a core in flight ends with it (R161): its messages, its array and attention calls with their passes and total buffers, its
transfers and held dispatches. -/
def coreWorkEnds (k : Nat) (d : Dev) : Dev :=
  let mine : PassDesc → Bool := fun p => decide (p.kind = 0 ∧ p.core = k)
  let bufs : Nat → Nat := fun n => (d.arr.calls.filter fun c => c.core = k).foldl (fun a c => a + c.bufs.countP fun b => b.die = n) 0
  let d1 := (List.range 16).foldl (fun x n => modDie n (fun y => { y with
    refireQ := y.refireQ.filter fun p => !mine p
    trafficQ := y.trafficQ.filter fun p => !mine p
    running := y.running.filter fun p => !mine p.desc
    buffers := y.buffers - bufs n }) x) d
  modCore k (fun c => { c with calls := [], attCall := [], dma := [] }) { d1 with
    grid.net := d1.grid.net.filter fun m => decide (m.src ≠ k ∧ m.dst ≠ k)
    grid.held := d1.grid.held.filter fun h => h.core ≠ k
    arr.calls := d1.arr.calls.filter fun c => c.core ≠ k
    att.calls := d1.att.calls.filter fun a => a.core ≠ k }

/-- A retired core's logical position moves to a spare, or has no core when none is left. Channels with the position as
peer are disabled first; the spare starts with its kernel SRAM, accumulators, contexts and trace cleared. -/
def remapCore (k : Nat) (d : Dev) : Dev :=
  match logicalCore d k with
  | none => d
  | some l =>
    let d0 := d.grid.cores.foldl (fun x e => (List.range 16).foldl (fun y n =>
      if (getCh (getCore y e.1) n).enable && decide ((getCh (getCore y e.1) n).peer.toNat = l) then chDisable e.1 n y else y) x) d
    let d0 := coreWorkEnds k d0
    -- copies staged in the core are staged again in the spare, from HBM (R125)
    let d1 := { d0 with arr.handles := d0.arr.handles.map fun h =>
      (h.1, if !h.2.des.isEmpty && decide ((l + 256 - h.2.desCore) % 256 < h.2.desCores) then
        { h.2 with staged := h.2.staged.filter fun j => (h.2.desCore + j % max 1 h.2.desCores) % 256 ≠ l } else h.2) }
    match coreSpare d1 k with
    | none => { d1 with grid.map := sSet d1.grid.map l 272 }
    | some x =>
      let clear : CoreSt → CoreSt := fun c => { c with
        sram := c.sram.filter fun e => decide (e.1 < sramLo)
        acc := [], mma := [], ctx := [], trace := [], s := [], v := [], p := [], epoch := 0
        job := none, state := 0, stalled := false, cause := 0 }
      let d2 := modCore x clear { d1 with grid.map := sSet d1.grid.map l x }
      let d3 := raise 0x4006 1 0 (uCore k) (pay [(16, 2, l), (20, 4, x)]) d2
      ledgerAdd 3 0 0 (uCore x) (BitVec.ofNat 112 (lay [(0, 2, l), (2, 1, 0)])) d3

/-- What a retired pipeline led, its spare leads; without a spare, the pipeline that merges the next slice (R198; log entry 189). -/
def pipeLeads (p : Nat) (x : Option Nat) (d : Dev) : Dev :=
  { d with att.calls := d.att.calls.map fun a => { a with leads := match x with
      | some q => a.leads.map fun e => (e.1, if e.2 = p then q else e.2)
      | none => a.leads.filter fun e => decide (e.2 ≠ p) } }

/-- A retired pipeline's logical position moves to its quadrant's spare (R180); without one its items go to the others (R199). -/
def remapPipe (p : Nat) (d : Dev) : Dev :=
  match logicalPipe d p with
  | none => d
  | some n =>
    let q := n / 16
    let cand := (List.range 17).map (q * 17 + ·) |>.find? fun x =>
      x ≠ p && (logicalPipe d x).isNone && decide ((getUnit d (uPipe x)).state = 0)
    match cand with
    | none => reassign (pipeLeads p none { d with att.map := sSet d.att.map n 68 })
    | some x =>
      let d1 := raise 0x4006 1 0 (uPipe p) (pay [(16, 2, n), (20, 4, (uPipe x).toNat)])
        (pipeLeads p (some x) { d with att.map := sSet d.att.map n x })
      ledgerAdd 3 0 0 (uPipe x) (BitVec.ofNat 112 (lay [(0, 2, n), (2, 1, 3)])) d1

/-! Suspect, return, retirement (R345). -/

def unitKind (u : W32) : Nat := bits u.toNat 28 4

/-- Refreshes around a plane that is retired from a state: a shadow that carries its lists becomes Active and keeps them (R119), and
one still being programmed takes them over; a plane that served gets a replacement from the reserve (R64, R342). A retired shadow
that carried lists hands them to the refreshed plane when that has verified, else to the next shadow. -/
def retireRefresh (pid st : Nat) (d : Dev) : Dev :=
  match d.arr.refreshes.find? fun e => e.2.shadow = some pid with
  | some (old, r) =>
    let back := decide (r.step ≥ 6 ∧ (planeState d old = 4 ∨ planeState d old = 5))
    { d with arr.refreshes := sSet d.arr.refreshes old (if back then { r with step := 7 } else
        { r with step := 2, shadow := none, carrier := if r.step ≥ 5 then some pid else r.carrier }) }
  | none => match sFind d.arr.refreshes pid with
    | some r =>
      if r.step < 5 then d else
        let d1 := modPlane pid (fun p => { p with segs := [], perms := [] }) { d with arr.refreshes := sDel d.arr.refreshes pid }
        match r.shadow with
        | some sh => planeTo 1 3 sh d1
        | none => d1
    | none =>
      if (st = 3 ∨ st = 5 ∨ st = 6) ∧ !(getPlane d pid).segs.isEmpty ∧ pkPlane pid < 160 then
        { d with arr.refreshes := sSet d.arr.refreshes pid { step := 2, shadow := none, digital := false, carrier := none } }
      else d

/-- A tile-plane goes to Retired with 3003h: it leaves the die's programs and checks, and what it held is replaced (R89). -/
def retirePlane (pid : Nat) (d : Dev) : Dev :=
  let st := planeState d pid
  if st = 7 then d else
    let d1 := modPlane pid (fun p => { p with candleDue := false, candleRes := [] }) (planeTo 2 7 pid d)
    let d2 := if pkPlane pid < 160 then { d1 with rel.retiredPlanes := d1.rel.retiredPlanes + 1 } else d1
    let d3 := modDie (pkDie pid) (fun x => { x with
      programming := x.programming.filter (· ≠ pid), progWait := x.progWait.filter fun e => e.2 ≠ pid
      maintQ := x.maintQ.filter fun p => decide (p.kind = 2 ∨ p.plane ≠ pid)
      maintWait := x.maintWait.filter fun r => decide (r.kind = 2 ∨ r.plane ≠ pid) }) d2
    retireRefresh pid st d3

/-- Every tile-plane of a tile is retired with it (R89). -/
def retireTile (key : Nat) (d : Dev) : Dev :=
  if (getTile d key).retired then d else
    let d1 := (List.range 200).foldl (fun x p => retirePlane (planeKey (key / 4096) (key % 4096) p) x) d
    capacityCauses (setTile key { getTile d1 key with retired := true } d1)

/-- What retirement does to the unit itself. -/
def retireEffect (u : W32) (d : Dev) : Dev :=
  let i := bits u.toNat 0 16
  match unitKind u with
  | 0 => remapCore i (markRecompute 7 (coreCtxs d i) d)
  | 1 => retirePlane (bits u.toNat 0 28) d
  | 2 =>
    -- the die's tile-planes are retired with it (R89)
    let d1 := (List.range 4096).foldl (fun x t => (List.range 200).foldl (fun y p => retirePlane (planeKey i t p) y) x) d
    modDie i (fun x => { x with retired := true, suspect := true }) d1
  | 3 =>
    let work := match logicalPipe d i with
      | some n => pipeCtxs d n
      | none => []
    remapPipe i (markRecompute 7 work d)
  | _ => d

/-- Retire a unit under a rule of 4005h: 1 test failed, 2 three in 24 h, 3 eight in 30 days, 4 R108, 5 R112. -/
def retire (rule : Nat) (code : W16) (u : W32) (d : Dev) : Dev :=
  let r := getUnit d u
  if r.state = 2 then d else
    let d1 := setUnit u { r with state := 2 } d
    let d2 := raise 0x4005 3 0 u (pay [(16, 1, rule), (20, 8, ptimeS d)]) d1
    capacityCauses (retireEffect u (ledgerState 3 code u d2))

/-- A unit goes to Suspect: 4003h. -/
def suspect (code : W16) (u : W32) (d : Dev) : Dev :=
  let r := getUnit d u
  if r.state ≠ 0 then d else
    let d1 := setUnit u { r with state := 1 } d
    let d2 := raise 0x4003 2 0 u (pay [(16, 2, code.toNat), (18, 1, ev24 d r), (19, 1, ev30 d r)]) d1
    let d3 := ledgerState 1 code u d2
    match unitKind u with
    | 1 => planeTo 2 6 (bits u.toNat 0 28) d3
    | 2 => modDie (bits u.toNat 0 4) (fun x => { x with suspect := true }) d3
    | _ => d3

/-- A unit returns to service: 4004h; its events stay counted. -/
def unitReturn (code : W16) (u : W32) (d : Dev) : Dev :=
  let r := getUnit d u
  if r.state ≠ 1 then d else
    let d1 := setUnit u { r with state := 0 } d
    let d2 := raise 0x4004 1 0 u (pay [(16, 2, code.toNat), (18, 1, ev24 d r), (19, 1, ev30 d r)]) d1
    let d3 := ledgerState 2 code u d2
    if unitKind u = 2 then modDie (bits u.toNat 0 4) (fun x => { x with suspect := false }) d3 else d3

/-- A control processor under the permanent rule stays in service; 4015h requests service (R341). -/
def cpPermanent (u : W32) (d : Dev) : Dev :=
  let i := bits u.toNat 0 16
  if sGet false d.rel.cpPermanent i then d
  else raise 0x4015 4 0 u (pay [(16, 1, i)]) { d with rel.cpPermanent := sPut false d.rel.cpPermanent i true }

/-- A detection of one of the five fault classes of R348, kept for 30 days (R349). -/
def detect (cls : Nat) (d : Dev) : Dev :=
  let now := ptimeS d
  let l := now :: (sGet [] d.rel.detections cls).filter fun t => decide (now < t + 30 * day)
  { d with rel.detections := sSet d.rel.detections cls l }

/-- Fault class of the detection that charges a unit (log entry 29). -/
def faultClass (code : W16) : Option Nat :=
  match code.toNat with
  | 0x3002 | 0x3004 => some 0
  | 0x4002 => some 1
  | 0x400B => some 2
  | 0x4010 => some 3
  | 0x400E | 0x400F | 0x4016 => some 4
  | _ => none

/-- Charge a unit with one event: Suspect and test, or retirement under the permanent rule. atOnce: the detection has no
test, and the unit returns at once (table of R345). -/
def charge (code : W16) (atOnce : Bool) (u : W32) (d : Dev) : Dev :=
  let r := getUnit d u
  if r.state = 2 then d else
    let now := ptimeS d
    let r1 : UnitRec := { r with
      times := now :: r.times.filter (fun t => decide (now < t + 30 * day)), life := r.life + 1, cause := code }
    let d0 := match faultClass code with
      | some c => detect c d
      | none => d
    let d1 := ledgerEvent code u (setUnit u r1 d0)
    if ev24 d1 r1 ≥ 3 ∨ ev30 d1 r1 ≥ 8 then
      (if unitKind u = 6 then cpPermanent u d1
       else if unitKind u = 7 then d1
       else retire (if ev24 d1 r1 ≥ 3 then 2 else 3) code u d1)
    else if r.state = 1 then d1
    else if atOnce then unitReturn code u (suspect code u d1)
    else suspect code u d1

/-- A failed self-test, a watchdog expiry, a failed decision check or an ECC error of a control processor: charged, and the
Lantern is to restart it (R340, R338). Cause as 4010h. -/
def cpFault (cause i : Nat) (d : Dev) : Dev :=
  charge 0x4010 false (uCp i) { d with rel.cpDown := sSet d.rel.cpDown i cause }

/-- Invalid ternary codes met in a digital copy: 4016h charges the memory that held it (R42). Memory: 0 HBM, 1 core SRAM,
5 golden store, in the table order of R338. -/
def ternaryInvalid (memory : Nat) (u : W32) (count addr : Nat) (d : Dev) : Dev :=
  if count = 0 then d else
    charge 0x4016 true u (raise 0x4016 2 0 u (pay [(16, 1, memory), (20, 4, count), (24, 8, addr)]) d)

end Sys2Proof.Machine
end

