-- ==== Sys2Proof/Machine/Attention.lean ====
section
/-! DEFINITION. Attention: calls and their checks (R200, R201), absorb, score and sum, merge, expand (R181–R188), appends
(R191), speculation pages (R195), page moves and fetches (R205, R206). -/

namespace Sys2Proof.Machine

/-! Arithmetic. -/

/-- What an item's arithmetic met: cases of R152, counts and flags of R38, R41, R53. -/
structure Met where
  made : Made := {}
  op : OpStat := {}
  deriving DecidableEq, Repr

def Met.add (a b : Met) : Met := ⟨a.made.add b.made, a.op.add b.op⟩
def madeAll (xs : List MVal) : Made := xs.foldl (fun m x => m.add x.2) {}

/-- One FP4 block run of 32: exact sum, scales, factor 1/4, rounded once (R148); an invalid scale makes the block zero (R38). -/
def run4 (ca : List Nat) (sa : Nat) (cb : List Nat) (sb : Nat) : Nat :=
  if !scaleOk sa || !scaleOk sb then 0 else
  let s : Int := (List.range 32).foldl (fun a n => a + fp4Val2 (ca.getD n 0) * fp4Val2 (cb.getD n 0)) 0
  match fdec e4m3 sa, fdec e4m3 sb with
  | .fin _ ma ea, .fin _ mb eb => rnd fp32 (.fin (decide (s < 0)) (s.natAbs * ma * mb) (ea + eb - 2))
  | _, _ => 0

def slice32 (l : List Nat) (b : Nat) : List Nat := (l.drop (32 * b)).take 32

/-- Block runs of two FP4 rows added in ascending block order. -/
def dot4 (blocks : Nat) (ca sa cb sb : List Nat) : Nat :=
  (List.range blocks).foldl (fun acc b => add32 acc (run4 (slice32 ca b) (sa.getD b 0) (slice32 cb b) (sb.getD b 0))) 0

/-- Invalid scales among those of stored blocks: one case each time a block is read (log entry 178). -/
def badIn (scales : List Nat) : OpStat := { badScales := scales.countP fun s => !scaleOk s }

/-- FP4 blocks of a row, RNE (R53). -/
def quant4 (x : List Nat) : (List Nat × List Nat) × OpStat :=
  let bs := (List.range (x.length / 32)).map fun b => fp4Stat (slice32 x b) none
  ((bs.flatMap (·.1.1), bs.map (·.1.2)), bs.foldl (fun s b => s.add b.2) {})

/-- Exact FP8 dot product rounded once. -/
def dot8 (a b : List Nat) : Nat :=
  rnd fp32 ((List.range a.length).foldl (fun s n =>
    faddV s (fmulV (fdec e4m3 (a.getD n 0)) (fdec e4m3 (b.getD n 0)))) (.fin false 0 0))

/-- Codes, scales and positional key of a stored entry. -/
def entryParts (l : LayerInfo) (e : Bytes) : List Nat × List Nat × List Nat :=
  ((e.take (l.dl / 2)).flatMap fun b => [b.toNat % 16, b.toNat / 16],
   ((e.drop (l.dl / 2)).take (l.dl / 32)).map (·.toNat), (e.drop (l.dl / 2 + l.dl / 32)).map (·.toNat))

/-- Score of a key: σ × (latent_dot + pos_dot), the result rounded once (R183; log entry 146). -/
def score (l : LayerInfo) (q : AbsQ) (e : Bytes) : MVal :=
  let k := entryParts l e
  let ld := fdec fp32 (dot4 (l.dl / 32) q.codes q.scales k.1 k.2.1)
  let pd := fdec fp32 (dot8 q.pos (k.2.2.take q.pos.length))
  let r := rnd fp32 (fmulV (fdec fp32 l.sigma.toNat) (faddV ld pd))
  (r, madeBy [fdec fp32 l.sigma.toNat, ld, pd] (fdec fp32 r))

def f32NegInf : Nat := 0xFF800000
def max32 (a b : Nat) : Nat := rnd fp32 (fmaxV (fdec fp32 a) (fdec fp32 b))

/-- exp of a difference, with the cases the difference meets. -/
def expDiff (x y : Nat) : MVal :=
  let z := mop0 sub32 (mv x) (mv y)
  (expF fp32 0 z.1, z.2)

/-- x × a + y, each rounded once. -/
def scaleAdd (x a : Nat) (y : MVal) : MVal := mop add32 (mop0 mul32 (mv x) (mv a)) y

/-- Value of a stored latent element with its block scale; zero in a block of invalid scale. -/
def latentVal (e : List Nat × List Nat × List Nat) (i : Nat) : Nat :=
  let s := e.2.1.getD (i / 32) 0
  if scaleOk s then rnd fp32 (fmulV (fdec e2m1 (e.1.getD i 0)) (fdec e4m3 s)) else 0

/-- A running triple as FP32 codes. -/
abbrev RunTriple := Nat × Nat × List Nat

/-- One 32-key block of score_sum, none for a key the row does not see (R184). -/
def sumBlock (l : LayerInfo) (q : AbsQ) (acc : RunTriple × Met) (blk : List (Option Bytes)) : RunTriple × Met :=
  if blk.all Option.isNone then acc else
    let (m, lsum, o) := acc.1
    let s := blk.map fun k => k.map (score l q)
    let mn := s.foldl (fun a x => match x with
      | some v => max32 a v.1
      | none => a) m
    let a := expDiff m mn
    let p := (List.range 32).map fun n => match s.getD n none with
      | some v => expDiff v.1 mn
      | none => mv 0
    let pb := fp4Stat (p.map (·.1)) none
    let w := (List.range 32).map fun n => rnd fp32 (fmulV (fdec e2m1 (pb.1.1.getD n 0)) (fdec e4m3 pb.1.2))
    let ks := blk.map fun k => k.map (entryParts l)
    let lnew := scaleAdd lsum a.1 (treeOf (mop add32) (mv 0) (w.map mv))
    let onew := (List.range l.dl).map fun i =>
      scaleAdd (o.getD i 0) a.1 (treeOf (mop add32) (mv 0) ((List.range 32).map fun n => match ks.getD n none with
        | some e => mv (mul32 (w.getD n 0) (latentVal e i))
        | none => mv 0))
    let met : Met := ⟨(((madeAll (s.filterMap id)).add a.2).add (madeAll p)).add (lnew.2.add (madeAll onew)),
      (ks.filterMap id).foldl (fun x e => x.add (badIn e.2.1)) pb.2⟩
    ((mn, lnew.1, onew.map (·.1)), acc.2.add met)

/-- score_sum over the keys of a slice, visible keys in place, 32 to a block (R184). -/
def scoreSum (l : LayerInfo) (q : AbsQ) (blocks : List (List (Option Bytes))) : Triple × Met :=
  let r := blocks.foldl (sumBlock l q) ((f32NegInf, 0, List.replicate l.dl 0), {})
  (⟨BitVec.ofNat 32 r.1.1, BitVec.ofNat 32 r.1.2.1, r.1.2.2.map (BitVec.ofNat 32)⟩, r.2)

/-- The triple of a row that sees no key. -/
def emptyTriple (l : LayerInfo) : Triple := (scoreSum l ⟨[], [], []⟩ []).1
/-- No key was visible to the row (R188): the maximum and the sum are still those it started from. -/
def noKey (t : Triple) : Bool := decide (t.m = BitVec.ofNat 32 f32NegInf ∧ t.l = 0)

/-- merge (R185). -/
def mergeT (x y : Triple) : Triple × Made :=
  if y.l.toNat % 2 ^ 31 = 0 then (x, {}) else if x.l.toNat % 2 ^ 31 = 0 then (y, {}) else
    let mn := max32 x.m.toNat y.m.toNat
    let a := expDiff x.m.toNat mn
    let b := expDiff y.m.toNat mn
    let f : W32 → W32 → MVal := fun u v => scaleAdd u.toNat a.1 (mop0 mul32 (mv v.toNat) (mv b.1))
    let lnew := f x.l y.l
    let onew := (List.range x.o.length).map fun i => f (x.o.getD i 0) (y.o.getD i 0)
    (⟨BitVec.ofNat 32 mn, BitVec.ofNat 32 lnew.1, onew.map fun v => BitVec.ofNat 32 v.1⟩,
      ((a.2.add b.2).add lnew.2).add (madeAll onew))

/-- Rows of an up-projection tile: FP4 codes and scales of each. -/
abbrev Tile := List (List Nat × List Nat)

/-- Row r of an FP4 tensor as it expands: units of 16 code bytes and a scale (R214). -/
def tileRow (data : Bytes) (cols r : Nat) : List Nat × List Nat :=
  let n := ceilDiv cols 32
  let unit : Nat → Bytes := fun u => (data.drop ((r * n + u) * 17)).take 17
  ((List.range n).flatMap fun u => ((unit u).take 16).flatMap fun b => [b.toNat % 16, b.toNat / 16],
   (List.range n).map fun u => fld (unit u) 16 1)

/-- A matrix of n rows of w elements in an FP4 tensor of section 07h of the layer, from a row on; none where the tensor does not hold it. -/
def tileOf (gs : GenSt) (layer tensor row n w : Nat) : Option Tile :=
  match gs.tensors[tensor]? with
  | none => none
  | some e =>
    if fld e 1 1 = 1 ∧ fld e 12 2 = layer ∧ fld e 8 4 = w ∧ row + n ≤ fld e 4 4 then
      some ((List.range n).map fun i => tileRow (sGet [] gs.sects (fld e 0 1 * 65536 + fld e 2 2)) w (row + i))
    else none

/-- absorb: q̃ = Ekᵀ q from D rows of d_h elements, then quantised (R182). -/
def absorb (l : LayerInfo) (q pos : List Nat) (w : Tile) : AbsQ × OpStat :=
  let qq := quant4 q
  let z := quant4 (w.map fun r => dot4 (l.dh / 32) r.1 r.2 qq.1.1 qq.1.2)
  let p := pos8 pos
  (⟨z.1.1, z.1.2, p.1⟩, (w.foldl (fun s r => s.add (badIn r.2)) ((qq.2.add z.2).add p.2)))

/-- expand: h = o / l, +0.0 where the row saw no key, quantised, against d_h rows of D elements (R186, R188). -/
def expand (l : LayerInfo) (t : Triple) (w : Tile) : List W32 × Met :=
  let h := t.o.map fun x => if noKey t then mv 0 else mop0 div32 (mv x.toNat) (mv t.l.toNat)
  let hq := quant4 (h.map (·.1))
  (w.map fun r => BitVec.ofNat 32 (dot4 (l.dl / 32) hq.1.1 hq.1.2 r.1 r.2),
   ⟨madeAll h, w.foldl (fun s r => s.add (badIn r.2)) hq.2⟩)

/-! Calls. -/

def attIs (k : Nat) (t : W32) (a : AttCallSt) : Bool := decide (a.core = k ∧ a.ticket = t)
def findAtt (d : Dev) (k : Nat) (t : W32) : Option AttCallSt := d.att.calls.find? (attIs k t)
def setAtt (a : AttCallSt) (d : Dev) : Dev :=
  { d with att.calls := d.att.calls.map fun x => if attIs a.core a.ticket x then a else x }

def attRows (b : Bytes) : Nat := fld b 8 2
def attKindOf (b : Bytes) : Nat := fld b 6 1

/-- Depth of the deepest node of a tree record. -/
def treeDepth (t : Bytes) (rows : Nat) : Nat := (List.range rows).foldl (fun a r => max a (nodeDepth (treeParent t) 16 r)) 0

/-- The first failing check of R200; 0 when the call is accepted. -/
def attCheck (d : Dev) (core : CoreSt) (b : Bytes) : Nat :=
  let rows := attRows b
  let kind := attKindOf b
  match getCtx d (fld b 0 4 % 2 ^ 20) with
  | none => 0x1001
  | some c =>
    if c.tenant ≠ core.tenant.toNat then 0x6001 else
      match layerOf d c (fld b 4 2) with
      | none => 0x1001
      | some l =>
        let q := kind ≠ 2
        let kv := kind ≠ 1
        if !(decide (1 ≤ c.state ∧ c.state ≤ 5)) || l.attKind = 0 || decide (kind > 3) || decide (fld b 0 4 ≥ 2 ^ 20)
          || !zeros b 7 1 || !zeros b 10 2 || !zeros b 32 32 || rows = 0 || decide (rows > if kind = 3 then 16 else 8192)
          || (q && !inSram (fld b 12 4) (rows * l.heads * (l.dh + l.p) * 4))
          || (if kv then !inSram (fld b 16 4) (rows * (l.dl + l.p) * 4) else decide (fld b 16 4 ≠ 0))
          || (q && !inSram (fld b 20 4) (rows * l.heads * l.dh * 4))
          || (if kind = 3 then !inSram (fld b 24 4) 20 || !treeOk (localBytes core (fld b 24 4) 20) rows
              else decide (fld b 24 4 ≠ 0))
          || !inSram (fld b 28 4) 8 then 0x1001
        else if kind = 3 then
          -- a node's entry stands at position L + depth (R194)
          (if decide (nextPos d c (fld b 4 2) + treeDepth (localBytes core (fld b 24 4) 20) rows > 1048575) then 0x1005 else 0)
        else if kv && decide (layerFill d c l (fld b 4 2) + rows > 1048576) then 0x1005
        else 0

/-- FP32 codes at a local address. -/
def words32 (c : CoreSt) (a n : Nat) : List Nat := (List.range n).map fun i => localNat c (a + 4 * i) 4

/-- The layer's current recipe sets rounding bit 2: appends round to nearest (R57, R191). -/
def appendRne (d : Dev) (c : CtxSt) (layer : Nat) : Bool :=
  let key := layerKey c.model c.gen (BitVec.ofNat 16 layer)
  (sGet {} d.num.listed (key * 16 + (sGet 0 d.num.current key).toNat)).rounding.getLsbD 2

/-- Appends of a call, in row order, to the own pages, the cross pages or the speculation page, with the counts of their conversions. -/
def attAppend (l : LayerInfo) (ctx : Nat) (b : Bytes) (core : CoreSt) (d : Dev) : Dev × OpStat :=
  let layer := fld b 4 2
  let n := l.dl + l.p
  let r := (List.range (attRows b)).foldl (fun (acc : Dev × OpStat) r =>
    match getCtx acc.1 ctx with
    | none => acc
    | some c =>
      let w := words32 core (fld b 16 4 + 4 * n * r) n
      let e := entryStat l (if appendRne acc.1 c layer then none else some acc.1.freeCtr) (w.take l.dl) (w.drop l.dl)
      let x := { acc.1 with freeCtr := acc.1.freeCtr + l.dl }
      let f := newFrame 1 c.tenant (pageGran l) x
      (if attKindOf b = 3 then setCtx ctx { c with specPage := sSet c.specPage layer (sGet [] c.specPage layer ++ [e.1]) } x
       else if isCross l then setCtx ctx { c with cross := mapAppend f.1 layer e.1 c.cross } f.2
       else setCtx ctx { c with pages := mapAppend f.1 layer e.1 c.pages } f.2, acc.2.add e.2)) (d, {})
  (mapGrow ctx r.1, r.2)

/-- Position of the first row of a call: the first appended, or for kind 1 the last rows of the layer, or the first uncommitted
positions in a cross-attention layer, whose rows have no entries there (log entry 19). -/
def attPos0 (d : Dev) (c : CtxSt) (l : LayerInfo) (b : Bytes) : Nat :=
  let n := layerFill d c l (fld b 4 2)
  if attKindOf b = 3 then nextPos d c (fld b 4 2)
  else if attKindOf b = 1 then (if l.attKind = 3 then c.length - encPos d c else n - attRows b) else n

/-- Requests a refused attention call affects: that of the context it names, and where the context is not the core's tenant's, those
whose work the core does (R200). -/
def attAffected (d : Dev) (k : Nat) (b : Bytes) : List Nat := match getCtx d (fld b 0 4 % 2 ^ 20) with
  | some c => if c.tenant = (getCore d k).tenant.toNat then [fld b 0 4 % 2 ^ 20] else coreCtxs d k
  | none => coreCtxs d k

/-- att_call: a halted or faulted core calls nothing; the ticket goes to s2; a refused call writes its status word at once (R200). -/
def attCall (k : Nat) (d : Dev) : Dev :=
  let core := getCore d k
  if core.state = 2 ∨ core.state = 3 then d else
  let a := (rs core 2).toNat
  let b := localBytes core a 64
  let t := core.attTicket
  let code := attCheck d core b
  let d1 := modCore k (fun c => ws 2 (t.zeroExtend 64) { c with attTicket := t + 1 }) d
  if code ≠ 0 then
    let d2 := noteRefused (attAffected d k b) code d1
    (if inSram (fld b 28 4) 8 then modCore k (putLocal (fld b 28 4) (toLe 8 (1 + 8 + code * 65536))) d2 else d2)
  else
    let ctx := fld b 0 4 % 2 ^ 20
    match getCtx d1 ctx with
    | none => d1
    | some c => match layerOf d1 c (fld b 4 2) with
      | none => d1
      | some l =>
        let pos0 := attPos0 d1 c l b
        -- the calls of one layer share the speculation page; a verify call starts it
        let d2 := if attKindOf b = 3 then setCtx ctx { c with specPage := sDel c.specPage (fld b 4 2) } d1 else d1
        let d3 := if attKindOf b = 1 then (d2, {}) else attAppend l ctx b core d2
        let st : AttCallSt := { core := k, ticket := t, ctx := ctx, desc := b, pos0 := pos0, appended := d3.2 }
        modCore k (fun x => { x with attCall := x.attCall ++ [⟨t, b⟩] }) { d3.1 with att.calls := d3.1.att.calls ++ [st] }

/-- ATT_CALL (R200). -/
def execAttCall (k : CoreIx) (s : State) : Out := run (attCall k) s

/-- att_wait: returns when the call with the ticket in s2 is done; until then the core waits. -/
def attWait (k : Nat) (d : Dev) : Dev :=
  modCore k (fun c =>
    if c.state = 2 ∨ c.state = 3 then c
    else if c.attCall.any fun x => x.ticket == (rs c 2).truncate 32 then { c with stalled := true, cause := 3 }
    else { c with stalled := false, cause := 0 }) d

/-- ATT_WAIT (R201). -/
def execAttWait (k : CoreIx) (s : State) : Out := run (attWait k) s

/-! Items. -/

def rowHead (row head : Nat) : Nat := row * 256 + head

/-- The tree record of a verify call; empty for other calls. -/
def attTree (core : CoreSt) (a : AttCallSt) : Bytes := if attKindOf a.desc = 3 then localBytes core (fld a.desc 24 4) 20 else []

/-- Rows and keys of a call: a verify call's nodes stand at the next positions by depth (R194). -/
def callSpan (d : Dev) (c : CtxSt) (l : LayerInfo) (a : AttCallSt) (core : CoreSt) : RowSpan :=
  let layer := fld a.desc 4 2
  let plen := if isCross l then 0 else prefixLen d c
  if isCross l && l.mask = 3 && l.attKind = 3 then { start := a.pos0, n := attRows a.desc, total := mapFill c.cross layer, plen := plen }
  else if attKindOf a.desc = 3 then
    let n := treeDepth (attTree core a) (attRows a.desc) + 1
    { start := a.pos0, n := n, total := a.pos0 + n, plen := plen }
  else if l.attKind = 3 then { start := a.pos0, n := attRows a.desc, total := mapFill c.cross layer, plen := plen }
  else { start := a.pos0, n := attRows a.desc, total := a.pos0 + attRows a.desc, plen := plen }

/-- Query block of a row; the nodes of a verify call are one block. -/
def rowBlock (a : AttCallSt) (r : Nat) : Nat := if attKindOf a.desc = 3 then 0 else r / 64

/-- Slices whose partials a row's triple is made of, ascending (R185, R196). -/
def rowSlices (d : Dev) (c : CtxSt) (l : LayerInfo) (a : AttCallSt) (core : CoreSt) (r : Nat) : List Nat :=
  neededSlices l (callSpan d c l a core) (rowBlock a r)

/-- The entry of the key at a position that row r of a call sees (R192, R194): committed keys under the layer's mask, of a verify call's
nodes the row's own and its ancestors. -/
def rowKey (d : Dev) (c : CtxSt) (l : LayerInfo) (a : AttCallSt) (core : CoreSt) (r pos : Nat) : Option Bytes :=
  let layer := fld a.desc 4 2
  let size := entrySize l
  let plen := prefixLen d c
  let t := attTree core a
  let path := nodePath (treeParent t) 16 r
  let q := if attKindOf a.desc = 3 then a.pos0 + nodeDepth (treeParent t) 16 r else a.pos0 + r
  if isCross l then
    (if (if l.mask = 3 then decide (l.attKind = 2 → a.pos0 ≤ pos ∧ pos < a.pos0 + attRows a.desc) else maskVisible l 0 q pos)
      then mapEntry c.cross size layer pos else none)
  else if attKindOf a.desc = 3 ∧ pos ≥ a.pos0 then
    (path[pos - a.pos0]?).bind fun n => (sGet [] c.specPage layer)[n]?
  else if maskVisible l plen q pos then ctxEntry d c size layer pos else none

/-- Keys row r of a call sees at positions of a slice, in blocks of 32 (R184, R196). -/
def sliceKeys (d : Dev) (c : CtxSt) (l : LayerInfo) (a : AttCallSt) (core : CoreSt) (r slice : Nat) : List (List (Option Bytes)) :=
  (List.range 128).map fun b => (List.range 32).map fun n => rowKey d c l a core r (4096 * slice + 32 * b + n)

/-- NUM events of a pipeline for a layer: invalid scales (R38), infinity and NaN (R152), and the level-3 trigger of the context (R188,
R342). -/
def pipeMet (p ctx layer : Nat) (m : Met) (d : Dev) : Dev :=
  match getCtx d ctx with
  | none => d
  | some c =>
    let head := [(16, 2, c.model.toNat), (18, 2, c.gen.toNat), (20, 2, layer)]
    let key : W16 → HoldKey := fun code => ⟨code, c.model, BitVec.ofNat 16 layer⟩
    let ev : Nat → Nat → Dev → Dev := fun kind n x => if n = 0 then x else
      raiseNum (key 0x2005) 2 c.tenant (uPipe p) (pay (head ++ [(22, 1, kind), (24, 4, n)])) x
    let lk := layerKey c.model c.gen (BitVec.ofNat 16 layer)
    let d0 := if m.op.badScales = 0 then d else raiseNum (key 0x2002) 3 c.tenant (uPipe p) (pay (head ++ [(22, 4, m.op.badScales)])) d
    if m.made.inf + m.made.nan = 0 then d0 else
      let d1 := markRecompute 3 [ctx] (ev 1 m.made.nan (ev 0 m.made.inf d0))
      { d1 with rel.layersDue := if d1.rel.layersDue.contains lk then d1.rel.layersDue else d1.rel.layersDue ++ [lk] }

/-- Progress of an item over the rows and heads of one call: the call, what was met, rows that saw no key, the SRAM it leaves. -/
structure ItemRun where
  a : AttCallSt
  met : Met := {}
  empty : Nat := 0
  sram : PipeSram := {}

/-- Absorb one row and head. -/
def absorbRow (l : LayerInfo) (core : CoreSt) (w : Nat → Option Tile) (row head : Nat) (x : ItemRun) : ItemRun :=
  let key := rowHead row head
  match sFind x.a.absorbed key, w head with
  | none, some tile =>
    let base := fld x.a.desc 12 4 + (row * l.heads + head) * (l.dh + l.p) * 4
    let q := absorb l (words32 core base l.dh) (words32 core (base + 4 * l.dh) l.p) tile
    { x with a := { x.a with absorbed := sSet x.a.absorbed key q.1 }, met := x.met.add ⟨{}, q.2⟩
             sram := { x.sram with queries := x.sram.queries ++ [q.1] } }
  | _, _ => x

/-- Score and sum one row and head over a slice its block needs; the pipeline of the first such slice is the lead (R198). -/
def scoreRow (d : Dev) (c : CtxSt) (l : LayerInfo) (core : CoreSt) (p slice row head : Nat) (x : ItemRun) : ItemRun :=
  let key := rowHead row head
  let need := rowSlices d c l x.a core row
  match sFind x.a.absorbed key with
  | none => x
  | some q =>
    if !need.contains slice then x else
      let ks := sliceKeys d c l x.a core row slice
      let r := scoreSum l q ks
      { x with
        a := { x.a with parts := sSet x.a.parts (key * 256 + slice) ⟨p, r.1⟩
                        leads := if need.head? = some slice then sSet x.a.leads key p else x.a.leads }
        met := x.met.add r.2
        sram := { acc := x.sram.acc ++ r.1.o, queries := x.sram.queries ++ [q], buffers := ks.flatMap fun blk => blk.filterMap id
                  sums := x.sram.sums ++ [(r.1.m, r.1.l)] } }

/-- Expand one row and head: by the lead, once every slice is merged (R181, R198). -/
def expandRow (d : Dev) (c : CtxSt) (l : LayerInfo) (core : CoreSt) (w : Nat → Option Tile) (p row head : Nat) (x : ItemRun) : ItemRun :=
  let key := rowHead row head
  let need := rowSlices d c l x.a core row
  match w head with
  | none => x
  | some tile =>
    if (sFind x.a.outs key).isSome || decide (sGet p x.a.leads key ≠ p) || decide (sGet 0 x.a.slices key < need.length)
        || (sFind x.a.absorbed key).isNone then x else
      let t := sGet (emptyTriple l) x.a.merged key
      let o := expand l t tile
      { x with a := { x.a with outs := sSet x.a.outs key o.1 }, met := x.met.add o.2, empty := x.empty + b2n (decide (head = 0) && noKey t)
               sram := { x.sram with acc := x.sram.acc ++ o.1 } }

/-- Calls of a layer step: those of the same layer of the same generation (R181). -/
def stepCalls (d : Dev) (c : CtxSt) (layer : Nat) : List AttCallSt :=
  d.att.calls.filter fun a => decide (fld a.desc 4 2 = layer ∧ attKindOf a.desc ≠ 2) && (getCtx d a.ctx).any fun x => x.model = c.model && x.gen = c.gen

/-- Rows and heads of a call that an item names. -/
def itemRows (l : LayerInfo) (a : AttCallSt) (row0 rows head0 heads : Nat) : List (Nat × Nat) :=
  ((List.range rows).flatMap fun i => (List.range heads).map fun j => (row0 + i, head0 + j)).filter fun x =>
    decide (x.1 < attRows a.desc ∧ x.2 < l.heads)

/-- A call's part of an item: absorb and expand take all its rows (R181). -/
def callItem (p : Nat) (m : AttItemIn) (l : LayerInfo) (gs : GenSt) (a : AttCallSt) (c : CtxSt) (d : Dev) : ItemRun :=
  let core := getCore d a.core
  let all := itemRows l a 0 (attRows a.desc) m.head0 m.heads
  let tile : Nat → Nat → Nat → Option Tile := fun n w h => tileOf gs (fld a.desc 4 2) m.tensor (m.row + (h - m.head0) * n) n w
  match m.stage with
  | 0 => all.foldl (fun x r => absorbRow l core (tile l.dl l.dh) r.1 r.2 x) { a := a }
  | 1 => (itemRows l a m.row0 m.rows m.head0 m.heads).foldl (fun x r => scoreRow d c l core p m.slice r.1 r.2 x) { a := a }
  | 2 => { a := a }
  | _ => all.foldl (fun x r => expandRow d c l core (tile l.dh l.dl) p r.1 r.2 x) { a := a }

/-- A call counts the item and its counts; the pipeline's status and SRAM are those of the item (R180, R200). -/
def itemDone (p : Nat) (m : AttItemIn) (r : ItemRun) (d : Dev) : Dev :=
  let a := { r.a with items := r.a.items + 1, op := r.a.op.add r.met.op }
  let d1 := setAtt a d
  let ps := sGet {} d1.att.pipes p
  let x : PipeSt := {
    state := if ps.state = 3 then 3 else 0, stage := m.stage.val, op := ps.op.add r.met.op
    sram := { r.sram with tenant := ((getCtx d1 a.ctx).map (·.tenant)).getD 0 } }
  pipeMet p a.ctx (fld a.desc 4 2) r.met { d1 with
    att.emptyRows := BitVec.ofNat 12 (satAdd 12 d1.att.emptyRows.toNat r.empty)
    att.pipes := sPut {} d1.att.pipes p x }

/-- One work item ends on a mapped pipeline; rows whose earlier stage is not complete are left out (R181). -/
def attItem (p : Nat) (m : AttItemIn) (d : Dev) : Dev :=
  match findAtt d m.core m.ticket, logicalPipe d p with
  | some a, some _ =>
    match getCtx d a.ctx with
    | none => d
    | some c => match layerOf d c (fld a.desc 4 2), getGen d c.model c.gen with
      | some l, some gs =>
        let cs := if m.stage = 0 ∨ m.stage = 3 then stepCalls d c (fld a.desc 4 2) else [a]
        let d0 := { d with
          att.items := BitVec.ofNat 32 (satAdd 32 d.att.items.toNat 1)
          att.pipes := sPut {} d.att.pipes p { sGet {} d.att.pipes p with op := {} } }
        cs.foldl (fun x b => match getCtx d b.ctx with
          | some y => itemDone p m (callItem p m l gs b y d) x
          | none => x) d0
      | _, _ => d
  | _, _ => d

/-- ATT_ITEM_COMPLETE (R184). -/
def execAttItemComplete (p : PipeIx) (m : AttItemIn) (s : State) : Out := run (attItem p m) s

/-- Merge the next slice of a row and head in order, once it is present. -/
def mergeRow (d : Dev) (c : CtxSt) (l : LayerInfo) (core : CoreSt) (p slice row head : Nat) (x : AttCallSt × Made) : AttCallSt × Made :=
  let key := rowHead row head
  let a := x.1
  let n := sGet 0 a.slices key
  if (rowSlices d c l a core row)[n]? ≠ some slice ∨ sGet p a.leads key ≠ p then x else
    match sFind a.parts (key * 256 + slice) with
    | none => x
    | some t =>
      let y : Triple × Made := match sFind a.merged key with
        | some z => mergeT z t.t
        | none => (t.t, {})
      ({ a with merged := sSet a.merged key y.1, slices := sSet a.slices key (n + 1), parts := sDel a.parts (key * 256 + slice) }, x.2.add y.2)

/-- The lead merges the next slice in order (R185, R198). -/
def attMerge (p : Nat) (m : AttMergeIn) (d : Dev) : Dev :=
  match findAtt d m.core m.ticket with
  | none => d
  | some a =>
    match (getCtx d a.ctx).bind fun c => (layerOf d c (fld a.desc 4 2)).map fun l => (c, l) with
    | none => d
    | some (c, l) =>
      let r := (itemRows l a m.row0 m.rows m.head0 m.heads).foldl (fun x e => mergeRow d c l (getCore d m.core) p m.slice e.1 e.2 x) (a, {})
      let d1 := pipeMet p a.ctx (fld a.desc 4 2) ⟨r.2, {}⟩ (setAtt r.1 d)
      { d1 with att.pipes := sPut {} d1.att.pipes p { sGet {} d1.att.pipes p with stage := 2 } }

/-- ATT_MERGE (R185). -/
def execAttMerge (p : PipeIx) (m : AttMergeIn) (s : State) : Out := run (attMerge p m) s

/-- A call is complete when every row and head has its output; an append-only call when its appends are written. A page
that is lost leaves the call faulted. -/
def attReady (d : Dev) (a : AttCallSt) : Bool :=
  a.fault || attKindOf a.desc = 2 || match getCtx d a.ctx with
    | none => false
    | some c => match layerOf d c (fld a.desc 4 2) with
      | none => false
      | some l => (List.range (attRows a.desc)).all fun r => (List.range l.heads).all fun h =>
          (sFind a.outs (rowHead r h)).isSome

/-- Every output element is written, then the status word with done = 1 (R201). A block that an item quantised and that held infinity or
NaN sets non_finite too (log entry 188). -/
def attComplete (k : Nat) (t : W32) (d : Dev) : Dev :=
  match findAtt d k t with
  | none => d
  | some a =>
    if !attReady d a then d else
      match (getCtx d a.ctx).bind fun c => layerOf d c (fld a.desc 4 2) with
      | none => d
      | some l =>
        let outs := if attKindOf a.desc = 2 then [] else
          (List.range (attRows a.desc)).flatMap fun r => (List.range l.heads).flatMap fun h => sGet [] a.outs (rowHead r h)
        let nf := a.op.nonFinite || outs.any fun x => decide (x.toNat % 2 ^ 31 ≥ 0x7F800000)
        let word := 1 + 2 * b2n a.fault + 4 * b2n nf + min a.items (2 ^ 32 - 1) * 2 ^ 32
        let st := fld a.desc 28 4
        modCore k (fun c =>
          let c1 := if attKindOf a.desc = 2 || a.fault then c else putLocal (fld a.desc 20 4) (outs.flatMap fun x => toLe 4 x.toNat) c
          let c2 := if inSram st 8 then putLocal st (toLe 8 word) c1 else c1
          addTrace d 4 { c2 with attCall := c2.attCall.filter fun x => x.ticket ≠ t })
          (if a.fault then noteCallFault k a.desc [a.ctx] { d with att.calls := d.att.calls.filter fun x => !attIs k t x }
           else { d with att.calls := d.att.calls.filter fun x => !attIs k t x })

/-- ATT_CALL_COMPLETE (R201). -/
def execAttCallComplete (k : CoreIx) (ticket : W32) (s : State) : Out := run (attComplete k ticket) s

/-! Page moves and fetches (R205, R206). -/

/-- CRC-32C of a page's stored bytes. -/
def crc32c (bs : Bytes) : Nat := (bs.foldl (crcByteRefl 0x82F63B78) 0xFFFFFFFF) ^^^ 0xFFFFFFFF

/-- A page of a layer into which an append or a speculation commit is pending is not moved (R205). -/
def moveBlocked (d : Dev) (k : PageKey) : Bool :=
  k.own ≠ 2 && ((d.att.calls.any fun a => a.ctx = k.id && decide (fld a.desc 4 2 = k.layer.toNat) && attKindOf a.desc ≠ 1)
    || (getCtx d k.id).any fun c => !(sGet [] c.specPage k.layer.toNat).isEmpty)

/-- Host address of a parking frame. -/
def parkAddr (d : Dev) (loc : BitVec 40) : W64 := BitVec.ofNat 64 (cfgGet d 0x0401 0 + 512 * loc.toNat)

/-- A parked page is fetched back: a PCIe read of the parking area (R206). -/
def fetchPage (k : PageKey) (d : Dev) : Dev :=
  match getPage d k with
  | none => d
  | some e => emit (.hostRead 0 (parkAddr d e.loc) e.data.length) (setPage k { e with moving := true } d)

/-- The request of a context is resuming. -/
def resuming (d : Dev) (i : Nat) : Bool := (getCtx d i).any fun c => c.state = 5

/-- A move ends: the entry names the new tier and frame, moving is cleared; a parked page carries its CRC and leaves by DMA under the
PF's requester ID, and is fetched at once for a request that resumes meanwhile (R211). A move that an append or a commit blocks, or
whose tier has no frame, waits for the next tier round. -/
def pageMove (k : PageKey) (d : Dev) : Dev :=
  match takeFirst (fun m : PageMove => m.key == k) d.att.moves with
  | none => d
  | some (m, rest) =>
    let d1 := { d with att.moves := rest }
    match getPage d1 k with
    | none => d1
    | some e =>
      if !e.valid || e.tier = 3 then d1 else
        match (if moveBlocked d k then none else frameFor d1 m.tier (pageTenant d k) (granOf d k)) with
        | none => setPage k { e with moving := false } d1
        | some f =>
          let loc := BitVec.ofNat 40 f
          let e1 := { e with tier := m.tier, moving := false, loc := loc, crc := if m.tier = 2 then BitVec.ofNat 32 (crc32c e.data) else 0 }
          let d2 := setPage k e1 d1
          if m.tier ≠ 2 then d2 else
            let d3 := emit (.hostWrite 0 (parkAddr d loc) (Config.parkCipher (pageTenant d k) f e.data)) d2
            if k.own ≠ 2 && resuming d k.id then fetchPage k d3 else d3

/-- PAGE_MOVE_COMPLETE (R205). -/
def execPageMoveComplete (pg : PageKey) (s : State) : Out := run (pageMove pg) s

/-- A parked page lost: B001h, and the pages from it on are discarded (R206, R207). -/
def pageLost (k : PageKey) (reason : Nat) (d : Dev) : Dev :=
  match getCtx d k.id with
  | none => d
  | some c =>
    let d1 := faultCalls k.id { d with att.parkFail := BitVec.ofNat 12 (satAdd 12 d.att.parkFail.toNat 1) }
    (if k.own = 1 then discardCross else discardFrom) k.id k.index (raiseNum ⟨0xB001, BitVec.ofNat 16 c.tenant, 0⟩ 3 c.tenant uDevice
      (pay [(16, 4, k.id), (20, 2, k.layer.toNat), (22, 4, k.index.val), (26, 1, reason)]) d1)

/-- A fetch ends: the page is decrypted, its bytes match their CRC and return to tier 1, or the page is lost. -/
def pageFetch (k : PageKey) (r : FetchResult) (d : Dev) : Dev :=
  match getPage d k with
  | none => d
  | some e =>
    if e.tier ≠ 2 ∨ k.own = 2 then d else
      match r with
      | .dmaFailed => pageLost k 2 (hostReadFailed 0 3 2 (parkAddr d e.loc) d)
      | .data bs =>
        let plain := (Config.parkCipher (pageTenant d k) e.loc.toNat).symm bs
        if crc32c plain ≠ e.crc.toNat then pageLost k 1 d else
          let f := newFrame 1 (pageTenant d k) (granOf d k) d
          setPage k { e with tier := 1, loc := f.1, crc := 0, data := plain, moving := false } f.2

/-- PAGE_FETCH_COMPLETE (R206). -/
def execPageFetchComplete (pg : PageKey) (r : FetchResult) (s : State) : Out := run (pageFetch pg r) s

end Sys2Proof.Machine
end

