-- ==== Sys2Proof/Machine/Image.lean ====
section
/-! DEFINITION. The Efgo image: header and section table (R212, R213), layer graph, recipes, designations and prefix
entries (R214, R462, R224, R123), shards and blocks (R215, R216), decode tables and decoding (R217–R220, R222), tokeniser
table (R271). -/

namespace Sys2Proof.Machine

/-! Header (R212). -/

def hKind (h : Bytes) : Nat := fld h 6 1
def hModel (h : Bytes) : W16 := BitVec.ofNat 16 (fld h 8 2)
def hGen (h : Bytes) : W16 := BitVec.ofNat 16 (fld h 10 2)
def hItem (h : Bytes) : Nat := fld h 12 2
def hSections (h : Bytes) : Nat := fld h 14 2
def hShards (h : Bytes) : Nat := fld h 16 4
def hBase (h : Bytes) : Nat := fld h 20 8
def hPositions (h : Bytes) : Nat := fld h 28 4
def hHbm (h : Bytes) : Nat := fld h 40 8
def hPrefixLen (h : Bytes) : Nat := fld h 48 4
def shardSize : Nat := 4194304

def headerValid (h : Bytes) : Bool :=
  decide (h.length = 4096 ∧ fld h 0 4 = 0x4F474645 ∧ fld h 4 1 = 1 ∧ hKind h ≤ 2 ∧ fld h 7 1 ≤ (if hKind h = 0 then 1 else 0)
    ∧ hGen h ≠ 0 ∧ (hKind h = 0 → hItem h = 0) ∧ 1 ≤ hSections h ∧ hSections h ≤ 64 ∧ 1 ≤ hShards h ∧ hShards h ≤ 16777215
    ∧ hBase h % 4096 = 0 ∧ hBase h ≥ 4096 + 32 * hSections h
    ∧ (if hKind h = 1 then 1 ≤ hPrefixLen h ∧ hPrefixLen h ≤ 1048575 else hPrefixLen h = 0)) && zeros h 52 4044

/-! Section table (R213). -/

def sKind (t : Bytes) (i : Nat) : Nat := fld t (32 * i) 1
def sFirst (t : Bytes) (i : Nat) : Nat := fld t (32 * i + 4) 4
def sCount (t : Bytes) (i : Nat) : Nat := fld t (32 * i + 8) 4
def sLength (t : Bytes) (i : Nat) : Nat := fld t (32 * i + 12) 8
def sTensors (t : Bytes) (i : Nat) : Nat := fld t (32 * i + 20) 4
def hasTensors (kind : Nat) : Bool := kind = 6 || kind = 7

def sectIdx (h t : Bytes) (kind : Nat) : List Nat := (List.range (hSections h)).filter fun i => sKind t i = kind
def sectOf (h t : Bytes) (kind : Nat) : Option Nat := (sectIdx h t kind).head?

def sectionsValid (h t : Bytes) : Bool :=
  let is := List.range (hSections h)
  let n := hShards h
  decide (t.length = 32 * hSections h)
    && is.all (fun i => decide (1 ≤ sKind t i ∧ sKind t i ≤ 9 ∧ 1 ≤ sCount t i ∧ sFirst t i + sCount t i ≤ n)
        && zeros t (32 * i + 1) 3 && zeros t (32 * i + 24) 8 && (hasTensors (sKind t i) || sTensors t i = 0))
    && is.all (fun i => is.all fun j => i = j || decide (sFirst t i + sCount t i ≤ sFirst t j ∨ sFirst t j + sCount t j ≤ sFirst t i))
    && decide (is.foldl (fun a i => a + sCount t i) 0 = n)
    && (List.range 10).all (fun k => decide ((sectIdx h t k).length ≤ if hasTensors k then 16 else 1))
    && (match hKind h with
      | 0 => [1, 2, 3].all fun k => (sectOf h t k).isSome
      | 1 => (sectOf h t 8).isSome
      | _ => (sectOf h t 7).isSome)
    && ((sectIdx h t 6).isEmpty || match sectOf h t 5 with
      | some j => (sectIdx h t 6).all fun i => decide (j < i)
      | none => false)

/-- Section of a shard. -/
def sectionOfShard (h t : Bytes) (k : Nat) : Option Nat :=
  (List.range (hSections h)).find? fun i => decide (sFirst t i ≤ k ∧ k < sFirst t i + sCount t i)

/-! Tensor entries and the graph (R214, R462). -/

def rowSegsOf (rows : Nat) : Nat := ceilDiv rows 256
def colSlabsOf (cols : Nat) : Nat := ceilDiv cols 512

/-- Expanded bytes a tensor's shape implies; raw is taken as stated. -/
def expandedOf (e : Bytes) : Nat :=
  let rows := fld e 4 4
  let cols := fld e 8 4
  match fld e 1 1 with
  | 0 => rowSegsOf rows * colSlabsOf cols * 26215
  | 1 => rows * ceilDiv cols 32 * 17
  | 2 => rows * ceilDiv cols 32 * 33
  | _ => fld e 20 8

def tensorValid (h t e : Bytes) : Bool :=
  let s := fld e 0 1
  let ty := fld e 1 1
  decide (s < hSections h ∧ ty ≤ 3) && (if ty = 0 then sKind t s = 6 else sKind t s = 7)
    && decide (1 ≤ fld e 4 4 ∧ 1 ≤ fld e 8 4 ∧ (ty = 0 → fld e 4 4 ≤ 16776960 ∧ fld e 8 4 ≤ 33553920) ∧ fld e 16 2 ≤ 256
      ∧ (ty ≠ 0 → fld e 16 2 = 0) ∧ 1 ≤ fld e 20 8 ∧ fld e 20 8 = expandedOf e) && zeros e 18 2 && zeros e 28 4

def layerInfoOf (b : Bytes) : LayerInfo :=
  { attKind := fld b 2 1, mask := fld b 3 1, window := fld b 4 4, heads := fld b 8 2, dh := fld b 10 2, dl := fld b 12 2
    p := fld b 14 1, fmt := fld b 15 1, sigma := BitVec.ofNat 32 (fld b 16 4), params := (b.drop 20).take 108 }

/-- Layer record rules: R192, R210, R462. -/
def layerValid (i : Nat) (b : Bytes) : Bool :=
  let l := layerInfoOf b
  decide (fld b 0 2 = i ∧ l.attKind ≤ 3) && (if l.attKind = 0 then zeros b 3 17 else
    decide (l.mask ≤ 3 ∧ l.fmt ≤ 1 ∧ 1 ≤ l.heads ∧ l.heads ≤ 256 ∧ 32 ≤ l.dh ∧ l.dh ≤ 256 ∧ l.dh % 32 = 0
      ∧ 32 ≤ l.dl ∧ l.dl ≤ 1024 ∧ l.dl % 32 = 0 ∧ l.p ≤ 64 ∧ l.p % 16 = 0)
    && (if l.mask = 1 ∨ l.mask = 2 then decide (1 ≤ l.window ∧ l.window ≤ 1048576) else l.window = 0))

def gLayers (g : Bytes) : Nat := fld g 0 4
def gTensors (g : Bytes) : Nat := fld g 4 4
def graphLayer (g : Bytes) (i : Nat) : Bytes := (g.drop (32 + 128 * i)).take 128
def graphTensor (g : Bytes) (i : Nat) : Bytes := (g.drop (32 + 128 * gLayers g + 32 * i)).take 32

def graphValid (h t g : Bytes) : Bool :=
  let n := gLayers g
  let m := gTensors g
  let ts := (List.range m).map (graphTensor g)
  let secs := (List.range (hSections h)).filter fun i => hasTensors (sKind t i)
  decide (1 ≤ n ∧ n ≤ 65535 ∧ g.length = 32 + 128 * n + 32 * m ∧ m = secs.foldl (fun a i => a + sTensors t i) 0) && zeros g 24 8
    && (List.range n).all (fun i => layerValid i (graphLayer g i))
    && ts.all (tensorValid h t)
    && decide (ts.map (fun e => (fld e 0 1, fld e 2 2)) = secs.flatMap fun i => (List.range (sTensors t i)).map fun j => (i, j))
    && secs.all fun i => decide ((ts.filter fun e => fld e 0 1 = i).foldl (fun a e => a + fld e 20 8) 0 = sLength t i)

/-- Designation lists by tensor-entry order (R123, R462): ascending, below the rows, des_n each. -/
def desLists (g des : Bytes) : List (List Nat) :=
  ((List.range (gTensors g)).foldl (fun (acc : List (List Nat) × Nat) i =>
    let n := fld (graphTensor g i) 16 2
    (acc.1 ++ [(List.range n).map fun j => fld des (acc.2 + 2 * j) 2], acc.2 + 2 * n)) ([], 0)).1

def ascending : List Nat → Bool
  | a :: b :: r => decide (a < b) && ascending (b :: r)
  | _ => true

def desValid (g des : Bytes) : Bool :=
  let ls := desLists g des
  decide (des.length = 2 * ls.foldl (fun a l => a + l.length) 0)
    && (List.range ls.length).all fun i =>
      let l := ls.getD i []
      ascending l && l.all fun r => decide (r < fld (graphTensor g i) 4 4)

/-! Recipes (R224, R462). -/

def recipeAt (b : Bytes) (i : Nat) : Bytes := (b.drop (16 * i)).take 16

/-- Runs of recipe records: a record of index 0 begins the next layer's run. -/
def recipeRuns (b : Bytes) : List (List Bytes) :=
  (List.range (b.length / 16)).foldl (fun (acc : List (List Bytes)) i =>
    let r := recipeAt b i
    if fld r 0 1 = 0 ∨ acc.isEmpty then acc ++ [[r]]
    else acc.take (acc.length - 1) ++ [acc.getLastD [] ++ [r]]) []

def recipesValid (g b : Bytes) : Bool :=
  let runs := recipeRuns b
  decide (b.length % 16 = 0 ∧ runs.length = gLayers g)
    && runs.all fun r => decide (1 ≤ r.length ∧ r.length ≤ 16)
      && (List.range r.length).all fun i => let x := r.getD i []
                                            decide (fld x 0 1 = i ∧ fld x 4 1 ≤ 1)

/-- A recipe record as the device keeps it, and the byte offsets it adjusted (R224). Layout of the chapter "Outlier path and
precision control". -/
def recipeAdjust (n : Nat) (b : Bytes) : Recipe × List Nat :=
  let k := fld b 1 1
  let rounding := fld b 2 1
  let dyn := fld b 3 1
  let next := fld b 5 1
  let persist := fld b 14 1
  ({ k := BitVec.ofNat 8 (clampNat 32 128 k), rounding := BitVec.ofNat 8 (rounding % 32), dynSlots := BitVec.ofNat 8 (min 16 dyn)
     exec := BitVec.ofNat 8 (fld b 4 1), next := if next < n then BitVec.ofNat 8 next else 0xFF
     satLimit := BitVec.ofNat 16 (fld b 6 2), zeroedLimit := BitVec.ofNat 16 (fld b 8 2), rmsLo := BitVec.ofNat 16 (fld b 10 2)
     rmsHi := BitVec.ofNat 16 (fld b 12 2), persist := BitVec.ofNat 8 (max 1 persist) },
   (if k < 32 ∨ k > 128 then [1] else []) ++ (if rounding ≥ 32 then [2] else []) ++ (if dyn > 16 then [3] else [])
     ++ (if next ≥ n ∧ next ≠ 0xFF then [5] else []) ++ (if persist = 0 then [14] else [])
     ++ (if fld b 15 1 ≠ 0 then [15] else []))

/-! Decode tables (R218, R222): entries of 258 B. -/

def tableCount (b : Bytes) : Nat := b.length / 258
def tableId (b : Bytes) (i : Nat) : Nat := fld b (258 * i) 2
def tableLens (b : Bytes) (i : Nat) : List Nat := ((b.drop (258 * i + 2)).take 256).map (·.toNat)
def lensValid (ls : List Nat) : Bool :=
  ls.length = 256 && ls.all (fun n => decide (1 ≤ n ∧ n ≤ 16)) && decide (ls.foldl (fun a n => a + 2 ^ (16 - n)) 0 = 65536)
def tablesValid (b : Bytes) : Bool :=
  b.length % 258 = 0 && (List.range (tableCount b)).all (fun i => lensValid (tableLens b i) && tableId b i ≠ 0xFFFF)
    && decide ((List.range (tableCount b)).map (tableId b)).Nodup
def tableFind (b : Bytes) (id : Nat) : Option (List Nat) :=
  ((List.range (tableCount b)).find? fun i => tableId b i = id).map (tableLens b)

/-- build_codes: (length, code, symbol) in canonical order (R218). -/
def buildCodes (ls : List Nat) : List (Nat × Nat × Nat) :=
  let order := (List.range 16).flatMap fun k => ((List.range 256).filter fun s => ls.getD s 0 = k + 1).map fun s => (k + 1, s)
  (order.foldl (fun (acc : List (Nat × Nat × Nat) × Nat × Nat) e =>
    let code := acc.2.1 <<< (e.1 - acc.2.2)
    (acc.1 ++ [(e.1, code, e.2)], code + 1, e.1)) ([], 0, 0)).1

/-- Bits of a byte string, each byte from bit 7 down. -/
def bitStream (b : Bytes) : List Bool := b.flatMap fun x => (List.range 8).map fun i => x.getLsbD (7 - i)

/-- How a kind-1 block ends: delivered, longer than declared, or malformed (R219). -/
inductive Decoded where
  | ok (bytes : Bytes)
  | longer (produced : Nat)
  | short (produced : Nat)
  deriving DecidableEq, Repr

/-- Decode a bit stream to n bytes. -/
def decodeBits (codes : List (Nat × Nat × Nat)) : List Bool → Nat → Nat → Nat → Bytes → Decoded
  | bs, len, cur, n, out =>
    if out.length = n then
      (if len = 0 ∧ bs.length < 8 ∧ bs.all (· == false) then .ok out else .short out.length)
    else match bs with
      | [] => .short out.length
      | b :: r =>
        let len' := len + 1
        let cur' := 2 * cur + b2n b
        match codes.find? fun e => e.1 = len' && e.2.1 = cur' with
        | none => decodeBits codes r len' cur' n out
        | some e =>
          let sym := if e.2.2 ≤ 242 then [BitVec.ofNat 8 e.2.2] else List.replicate (2 ^ (e.2.2 - 243 + 1)) 121
          if out.length + sym.length > n then .longer n else decodeBits codes r 0 0 n (out ++ sym)

/-- Unit length of a kind-2 or kind-3 block. -/
def unitLen (kind : Nat) : Nat := if kind = 2 then 17 else 33
def spanOf (kind : Nat) : Nat := if kind = 2 then 65535 else if kind = 3 then 65505 else 65536

/-- Every scale byte of a fixed-rate block is valid (R220). -/
def scalesValid (kind : Nat) (b : Bytes) : Bool :=
  (List.range (b.length / unitLen kind)).all fun i => scaleOk (fld b (unitLen kind * i + unitLen kind - 1) 1)

/-! Ternary segments (R114, R214). -/

/-- Weight k of a segment payload: quintet digit k mod 5 of byte k / 5. -/
def quintet (b : Bytes) (k : Nat) : Int := (((b.getD (k / 5) 121).toNat / 3 ^ (k % 5)) % 3 : Nat) - (1 : Int)

/-- Golden weights of a segment of a matrix: segment × 131,072 + weight, within the matrix's rows and columns, where not 0. -/
def goldenSeg (rows cols s : Nat) (p : Bytes) : Store Int :=
  let js := colSlabsOf cols
  (List.range 131072).filterMap fun k =>
    let w := quintet p k
    if w ≠ 0 ∧ 256 * (s / js) + k / 512 < rows ∧ 512 * (s % js) + k % 512 < cols then some (s * 131072 + k, w) else none

/-- Weights with those of one segment put in. -/
def goldenPut (s : Nat) (new_ old : Store Int) : Store Int :=
  old.filter (fun e => decide (e.1 < s * 131072)) ++ new_ ++ old.filter fun e => decide ((s + 1) * 131072 ≤ e.1)

/-- Ternary rows of the outlier block (R124): slab × 256 + list index, codes of R42. -/
def copiesOf (js : Nat) (des : List Nat) (golden : Store Int) : Store (BitVec 1024) :=
  (List.range js).flatMap fun j => (List.range des.length).map fun n =>
    let r := des.getD n 0
    (j * 256 + n, BitVec.ofNat 1024 ((List.range 512).foldl (fun a c =>
      let w := sGet 0 golden ((r / 256 * js + j) * 131072 + r % 256 * 512 + c)
      a + (if w > 0 then 1 else if w < 0 then 3 else 0) * 4 ^ c) 0))

/-- The outlier block (R124): the designation list, FFFFh from des_n on, then the copies slab by slab. -/
def outlierBlock (js : Nat) (des : List Nat) (copies : Store (BitVec 1024)) : Bytes :=
  ((List.range 256).flatMap fun n => toLe 2 (des.getD n 0xFFFF))
    ++ (List.range js).flatMap fun j => (List.range des.length).flatMap fun n => toLe 128 (sGet 0 copies (j * 256 + n)).toNat

/-! Tokeniser table (R271): vocabulary, merges, parts. Header words at 0: magic, vocab, merges, end, start, flags, then the
offsets of byte_token, string offsets, strings, merges and the bitmap (log entry 22). -/

def tokV (t : Bytes) : Nat := fld t 4 4
def tokM (t : Bytes) : Nat := fld t 8 4
def tokEnd (t : Bytes) : Nat := fld t 12 4
def tokStart (t : Bytes) : Nat := fld t 16 4
def tokPrepend (t : Bytes) : Bool := bitAt (fld t 20 4) 0
def tokPart (t : Bytes) (i : Nat) : Nat := fld t (24 + 4 * i) 4
def tokByte (t : Bytes) (b : Nat) : Nat := fld t (tokPart t 0 + 4 * b) 4
def tokOff (t : Bytes) (i : Nat) : Nat := fld t (tokPart t 1 + 4 * i) 4
def tokString (t : Bytes) (i : Nat) : Bytes := (t.drop (tokPart t 2 + tokOff t i)).take (tokOff t (i + 1) - tokOff t i)
def tokMerge (t : Bytes) (i : Nat) : Nat × Nat × Nat :=
  let o := tokPart t 3 + 12 * i
  (fld t o 4, fld t (o + 4) 4, fld t (o + 8) 4)
def tokSpecial (t : Bytes) (i : Nat) : Bool := bitAt (fld t (tokPart t 4 + i / 8) 1) (i % 8)

def tokValid (t : Bytes) : Bool :=
  let v := tokV t
  decide (fld t 0 4 = 0x4E4B4F54 ∧ 1 ≤ v ∧ v ≤ 262144 ∧ tokPart t 0 + 1024 ≤ t.length ∧ tokPart t 1 + 4 * (v + 1) ≤ t.length
    ∧ tokPart t 2 + tokOff t v ≤ t.length ∧ tokPart t 3 + 12 * tokM t ≤ t.length ∧ tokPart t 4 + ceilDiv v 8 ≤ t.length)
    && (List.range 256).all (fun b => decide (tokByte t b < v))
    && (List.range v).all (fun i => decide (tokOff t i ≤ tokOff t (i + 1) ∧ tokOff t (i + 1) - tokOff t i ≤ 64))
    && (List.range (tokM t)).all fun i => let m := tokMerge t i
                                          decide (m.1 < v ∧ m.2.1 < v ∧ m.2.2 < v)

end Sys2Proof.Machine
end

