-- ==== Sys2Proof/Machine/CoreMatrix.lean ====
section
/-! DEFINITION. Core classes 6h and 7h: matrix and quantise instructions (R148, R149, R167–R169). -/

namespace Sys2Proof.Machine

def byteAt (t : Bytes) (i : Nat) : Nat := (t.getD i 0).toNat

/-- Four-bit code j of row i of a tile: row i in bytes 16i to 16i + 15, two codes a byte. -/
def nib (t : Bytes) (i j : Nat) : Nat := bits (byteAt t (16 * i + j / 2)) (4 * (j % 2)) 4

/-- Row scale of a four-bit tile. -/
def rowScale (t : Bytes) (i : Nat) : Nat := byteAt t (512 + i)

/-- Value of a four-bit code: FP4 doubled, INT4 as it is (R148). -/
def nibVal (fp4 : Bool) (c : Nat) : Int := if fp4 then fp4Val2 c else int4Val c

/-- A row whose scale is valid and not 00h. -/
def rowLive (t : Bytes) (i : Nat) : Bool := scaleOk (rowScale t i) && rowScale t i ≠ 0

/-- Promoted block value of row i of A and row j of B: exact run × both scales × f, f = 1/4, 1/2 or 1 (R148). -/
def blockProduct (fa fb : Bool) (a b : Bytes) (i j : Nat) : FVal :=
  if !rowLive a i || !rowLive b j then .fin false 0 0 else
    let r := (List.range 32).foldl (fun s n => s + nibVal fa (nib a i n) * nibVal fb (nib b j n)) (0 : Int)
    match fdec e4m3 (rowScale a i), fdec e4m3 (rowScale b j) with
    | .fin _ m1 e1, .fin _ m2 e2 => .fin (decide (r < 0)) (r.natAbs * m1 * m2) (e1 + e2 - b2n fa - b2n fb)
    | _, _ => .fin false 0 0

/-- Invalid INT4 codes of a tile's live rows. -/
def badCodes (fp4 : Bool) (t other : Bytes) : Nat :=
  if fp4 || !((List.range 32).any (rowLive other)) then 0 else
    (List.range 32).foldl (fun s i =>
      if rowLive t i then s + ((List.range 32).filter fun n => nib t i n = 8).length else s) 0

/-- Rows with an invalid scale. -/
def badScales (t : Bytes) : Nat := ((List.range 32).filter fun i => !scaleOk (rowScale t i)).length

/-- Element j of row i of a row-major tile of a float format, or of a ternary tile. -/
def tileElem (f : Fmt) (t : Bytes) (i j : Nat) : FVal :=
  let n := fmtWidth f / 8
  fdec f (fld t ((32 * i + j) * n) n)

def ternElem (t : Bytes) (i j : Nat) : FVal :=
  let v := ternVal (bits (byteAt t (8 * i + j / 4)) (2 * (j % 4)) 2)
  .fin (decide (v < 0)) v.natAbs 0

/-- Exact dot product of two rows of 32. -/
def dot (a b : Nat → FVal) : FVal := (List.range 32).foldl (fun s n => faddV s (fmulV (a n) (b n))) (.fin false 0 0)

/-- Add promoted values into an accumulator, one FP32 rounding each (R149); cases of R152 are counted. The tiles are being read until a
later instruction names the accumulator (R168). -/
def accumulate (k n : Nat) (tiles : List (Nat × Nat)) (v : Nat → Nat → FVal) (ops : Nat → Nat → List FVal) (d : Dev) : Dev :=
  let c := getCore d k
  let res : Nat → Nat × Made := fun e =>
    let i := e / 32
    let j := e % 32
    let p := rnd fp32 (v i j)
    let old := (ra c (n * 1024 + e)).toNat
    let r := add32 old p
    (r, (madeBy (ops i j) (fdec fp32 p)).add (madeBy [fdec fp32 old, fdec fp32 p] (fdec fp32 r)))
  let all := (List.range 1024).map res
  coreMade k (all.foldl (fun m x => m.add x.2) {})
    (modCore k (fun x => let y := setAcc n (fun e => BitVec.ofNat 32 (all.getD e (0, {})).1) x
                         { y with mma := sSet y.mma n tiles }) d)

/-- Note the counts of the core's last operation. -/
def coreOp (k : Nat) (x : OpStat) (d : Dev) : Dev := modCore k (fun c => { c with op := x }) d

/-- Read two operand tiles, aligned to 32 B. -/
def withTiles (c : CoreSt) (a na b nb : Nat) (body : Bytes → Bytes → CoreRes) : CoreRes :=
  withAccess c a na 32 false (withAccess c b nb 32 false (body (localBytes c a na) (localBytes c b nb)))

/-- mma a_d, s_a, s_b: modes 000b–011b four-bit, 100b and 101b FP8, 110b BF16; 111b is fault 01h (R167). -/
def execMma (k : CoreIx) (f : RForm) (s : State) : Out :=
  run (coreR k f (decide (f.d.val < 4 ∧ f.mod.val < 7)) (fun c d =>
    let a := (rs c f.a).toNat
    let b := (rs c f.b).toNat
    if f.mod.val < 4 then
      let fa := decide (f.mod.val < 2)
      let fb := decide (f.mod.val % 2 = 0)
      withTiles c a 544 b 544 fun ta tb =>
        .done (coreOp k { badScales := badScales ta + badScales tb } (coreNum k 0x2002 3 (badScales ta + badScales tb)
          (coreNum k 0x2001 2 (badCodes fa ta tb + badCodes fb tb ta)
            (accumulate k f.d [(a, 544), (b, 544)] (blockProduct fa fb ta tb) (fun _ _ => []) d))))
    else
      let fm := if f.mod.val = 4 then e4m3 else if f.mod.val = 5 then e5m2 else bf16
      let n := 1024 * (fmtWidth fm / 8)
      withTiles c a n b n fun ta tb =>
        .done (accumulate k f.d [(a, n), (b, n)] (fun i j => dot (tileElem fm ta i) (tileElem fm tb j))
          (fun i j => (List.range 32).flatMap fun x => [tileElem fm ta i x, tileElem fm tb j x]) d))) s

/-- mmt a_d, s_a, s_b: FP8 rows times ternary rows; a 10b weight counts, is used as 0, and charges this core (R42,
R167). -/
def execMmt (k : CoreIx) (f : RForm) (s : State) : Out :=
  run (coreR k f (decide (f.d.val < 4 ∧ f.mod.val < 2)) (fun c d =>
    let a := (rs c f.a).toNat
    let b := (rs c f.b).toNat
    let fm := if f.mod.val = 0 then e4m3 else e5m2
    withTiles c a 1024 b 256 fun ta tb =>
      let bad := ((List.range 1024).filter fun n => bits (byteAt tb (n / 4)) (2 * (n % 4)) 2 = 2).length
      .done (ternaryInvalid 1 (uCore k) bad b (coreNum k 0x2003 3 bad
        (accumulate k f.d [(a, 1024), (b, 256)] (fun i j => dot (tileElem fm ta i) (ternElem tb j))
          (fun i j => (List.range 32).flatMap fun x => [tileElem fm ta i x, ternElem tb j x]) d))))) s

/-- azero a_d: every element +0.0 (R149). -/
def execAzero (k : CoreIx) (f : RForm) (s : State) : Out :=
  run (coreR k f (decide (f.d.val < 4 ∧ f.a.val = 0 ∧ f.b.val = 0 ∧ f.mod.val = 0))
    (fun _ => onCore k fun c => accIdle f.d (setAcc f.d (fun _ => 0) c))) s

/-- ast a_d to s_a: FP32 (mod 000b) or BF16 (001b), row-major, aligned to 32 B. -/
def execAst (k : CoreIx) (f : RForm) (s : State) : Out :=
  run (coreR k f (decide (f.d.val < 4 ∧ f.b.val = 0 ∧ f.mod.val < 2)) (fun c d =>
    let a := (rs c f.a).toNat
    let n := if f.mod.val = 0 then 4 else 2
    withStore k c a (1024 * n) 32 (
      let val : Nat → Nat := fun e =>
        let x := (ra c (f.d.val * 1024 + e)).toNat
        if f.mod.val = 0 then x else (cvt fp32 bf16 .rne x).code
      let made : Made := if f.mod.val = 0 then {} else (List.range 1024).foldl (fun m e =>
        m.add (madeBy [fdec fp32 (ra c (f.d.val * 1024 + e)).toNat] (fdec bf16 (val e)))) {}
      .done (coreMade k made (modCore k (fun x => accIdle f.d (putLocal a ((List.range 1024).flatMap fun e => toLe n (val e)) x)) d))))) s

/-- ald a_d from s_a: 4 KiB of FP32, row-major, aligned to 32 B. -/
def execAld (k : CoreIx) (f : RForm) (s : State) : Out :=
  run (coreR k f (decide (f.d.val < 4 ∧ f.b.val = 0 ∧ f.mod.val = 0)) (fun c d =>
    let a := (rs c f.a).toNat
    withAccess c a 4096 32 false (
      let t := localBytes c a 4096
      onCore k (fun x => accIdle f.d (setAcc f.d (fun e => BitVec.ofNat 32 (fld t (4 * e) 4)) x)) d))) s

/-- qgrp s_a: the quantiser on one row group (R169). -/
def execQgrp (k : CoreIx) (f : RForm) (s : State) : Out :=
  run (coreR k f (decide (f.d.val = 0 ∧ f.b.val = 0 ∧ f.mod.val = 0)) (fun c d =>
    let a := (rs c f.a).toNat
    withAccess c a 32 32 false (
      let q := localBytes c a 32
      let src := fld q 0 4
      let rec_ := fld q 4 4
      let side := fld q 8 4
      let resid := fld q 12 4
      let des := fld q 16 4
      let len := fld q 20 2
      let desBits := if des = 0 then [] else
        (List.range len).map fun n => bitAt (byteAt (localBytes c des 32) (n / 8)) (n % 8)
      let nDes := (desBits.filter (fun b => b)).length
      if len = 0 ∨ len > 256 ∨ (nDes > 0 ∧ resid = 0) then .fault 1 a
      else withRanges k c [(src, 4 * len, 4, false), (des, if des = 0 then 0 else 32, 1, false), (rec_, 160, 32, true),
          (side, if side = 0 then 0 else 32, 32, true), (resid, if resid = 0 then 0 else nDes, 1, true)] (
          let i : QIn := { x := (List.range len).map fun n => localNat c (src + 4 * n) 4, des := desBits
                           k := fld q 22 1, sto := bitAt (fld q 23 1) 0, e5 := bitAt (fld q 23 1) 4, draws := rngAt d k }
          let r := quantise i
          let write : CoreSt → CoreSt := fun x =>
            let x1 := putLocal rec_ (recBytes r) x
            let x2 := if side = 0 then x1 else putLocal side (sideBytes i r (fld q 24 1)) x1
            if resid = 0 then x2 else putLocal resid (r.resid.map (BitVec.ofNat 8)) x2
          let st : OpStat := { saturated := r.sat.sum + r.fp8Sat, zeroed := r.zeroed.sum, scaleOverflow := bitAt r.flags 2
                               nonFinite := bitAt r.flags 3 }
          .done (coreOp k st (modCore k write (rngUsed k (if i.sto then 256 else 0) d))))))) s

/-- qfp4: 32 FP32 elements at s_a to 16 code bytes at s_b and a scale byte at the address in s_d; mod[0] stochastic. -/
def execQfp4 (k : CoreIx) (f : RForm) (s : State) : Out :=
  run (coreR k f (decide (f.mod.val < 2)) (fun c d =>
    let a := (rs c f.a).toNat
    let b := (rs c f.b).toNat
    let e := (rs c f.d).toNat
    withRanges k c [(a, 128, 4, false), (b, 16, 1, true), (e, 1, 1, true)] (
      let sto := decide (f.mod.val = 1)
      let r := fp4Stat ((List.range 32).map fun n => localNat c (a + 4 * n) 4) (if sto then some (rngAt d k) else none)
      .done (coreOp k r.2 (modCore k (fun x =>
          putLocal e [BitVec.ofNat 8 r.1.2] (putLocal b (packNibbles (r.1.1.map fun n => (n : Int))) x))
        (rngUsed k (if sto then 32 else 0) d)))))) s

end Sys2Proof.Machine
end

