-- ==== Sys2Proof/Machine/CoreDma.lean ====
section
/-! DEFINITION. Core class Ah and the DMA unit (R176, R177). -/

namespace Sys2Proof.Machine

def getQ (c : CoreSt) (n : Nat) : DmaQ := sGet {} c.dma n
def setQ (n : Nat) (q : DmaQ) (c : CoreSt) : CoreSt := { c with dma := sPut {} c.dma n q }

/-- dma q_d, s_a: queue a descriptor; a full queue of 32 stalls. The descriptor is read when the instruction issues (log
entry 14). -/
def execDmaq (k : CoreIx) (f : RForm) (s : State) : Out :=
  run (coreR k f (decide (f.d.val < 4 ∧ f.b.val = 0 ∧ f.mod.val = 0)) (fun c d =>
    let a := (rs c f.a).toNat
    let q := getQ c f.d
    withAccess c a 32 32 false (
      if q.ents.length ≥ 32 then .stall 5
      else onCore k (setQ f.d { q with ents := q.ents ++ [⟨c.pc, localBytes c a 32⟩] }) d))) s

/-- dwait q_d until completed ≥ s_a. -/
def execDwait (k : CoreIx) (f : RForm) (s : State) : Out :=
  run (coreR k f (decide (f.d.val < 4 ∧ f.b.val = 0 ∧ f.mod.val = 0)) (fun c d =>
    if (getQ c f.d).count.toNat ≥ (rs c f.a).toNat then .done d else .stall 4)) s

/-- dcnt s_d = completed count of q_a. -/
def execDcnt (k : CoreIx) (f : RForm) (s : State) : Out :=
  run (coreR k f (decide (f.a.val < 4 ∧ f.b.val = 0 ∧ f.mod.val = 0)) (fun c d =>
    onCore k (ws f.d (getQ c f.a).count) d)) s

/-- A descriptor's checks before any data moves: sizes, alignments, the tenant's regions, kernel SRAM. -/
def dmaOk (d : Dev) (c : CoreSt) (b : Bytes) : Bool :=
  let hbm := fld b 0 8
  let loc := fld b 8 4
  let len := fld b 12 4
  let rows := fld b 16 2
  let stride := fld b 20 8
  decide (32 ≤ len ∧ len ≤ 1048576 ∧ len % 32 = 0 ∧ 1 ≤ rows ∧ stride % 32 = 0 ∧ len * rows ≤ 1048576 ∧ loc % 32 = 0)
    && zeros b 18 2 && decide (fld b 28 1 < 2) && zeros b 29 3 && inSram loc (len * rows)
    && inRegion d c.tenant.toNat hbm ((rows - 1) * stride + len)

/-- The descriptors not started leave every queue of the core. -/
def dmaDiscard (c : CoreSt) : CoreSt :=
  { c with dma := c.dma.map fun q => (q.1, { q.2 with ents := q.2.ents.take q.2.started }) }

/-- The DMA unit starts the next descriptor of a queue, or takes fault 07h at the dma instruction that queued it. -/
def dmaStart (k n : Nat) (d : Dev) : Dev :=
  let c := getCore d k
  let q := getQ c n
  match q.ents[q.started]? with
  | none => d
  | some e =>
    if dmaOk d c e.desc then modCore k (setQ n { q with started := q.started + 1 }) d
    else modCore k dmaDiscard (coreFault k e.pc 7 (fld e.desc 8 4) d)

/-- DMA_DESCRIPTOR_START (R176). -/
def execDmaDescriptorStart (k : CoreIx) (q : Fin 4) (s : State) : Out := run (dmaStart k q) s

/-- Move the rows of a descriptor; local rows are packed without gaps. -/
def dmaMove (k : Nat) (b : Bytes) (d : Dev) : Dev :=
  let c := getCore d k
  let t := c.tenant.toNat
  let hbm := fld b 0 8
  let loc := fld b 8 4
  let len := fld b 12 4
  let stride := fld b 20 8
  (List.range (fld b 16 2)).foldl (fun x r =>
    if bitAt (fld b 28 1) 0 then hbmPut t (hbm + r * stride) (getBytes (getCore x k).sram (loc + r * len) len) x
    else modCore k (putLocal (loc + r * len) (hbmGet x t (hbm + r * stride) len)) x) d

/-- The oldest started descriptor of a queue completes: its data has moved and the count rises by one. -/
def dmaComplete (k n : Nat) (d : Dev) : Dev :=
  let q := getQ (getCore d k) n
  match q.started, q.ents with
  | m + 1, e :: r =>
    modCore k (fun c => addTrace d 5 (setQ n { ents := r, started := m, count := q.count + 1 } c)) (dmaMove k e.desc d)
  | _, _ => d

/-- DMA_DESCRIPTOR_COMPLETE (R176). -/
def execDmaDescriptorComplete (k : CoreIx) (q : Fin 4) (s : State) : Out := run (dmaComplete k q) s

end Sys2Proof.Machine
end

