-- ==== Sys2Proof/Machine/CoreSys.lean ====
section
/-! DEFINITION. Core class Bh, halt, dispatch and the stall watchdog (R172, R173, R179, R461). -/

namespace Sys2Proof.Machine

/-- Columns of slabs first to first + n − 1, clipped to the matrix. -/
def slabCols (h : HandleEnt) (first n : Nat) : Nat :=
  if first + n ≥ h.colSlabs then (n - 1) * 512 + h.lastColsM1 + 1 else n * 512

/-- The destination of a call is undefined until its done bit is set (R174): free values where it lies in kernel SRAM (log entry
169). -/
def destUndefined (k : Nat) (b : Bytes) (d : Dev) : Dev :=
  let h := getHandle d (fld b 0 4 % 2 ^ 20)
  let len := 4 * slabCols h (fld b 24 2) (fld b 26 2)
  if !inSram (fld b 20 4) len then d else
    let r := fresh (8 * len) d
    modCore k (putLocal (fld b 20 4) (toLe len r.1.toNat)) r.2

/-- acall s_d (ticket), s_a (descriptor): the call unit reads the descriptor and checks its status field; 16 calls may be
outstanding, a 17th stalls (R173, R175). -/
def execAcall (k : CoreIx) (f : RForm) (s : State) : Out :=
  run (coreR k f (decide (f.b.val = 0 ∧ f.mod.val = 0)) (fun c d =>
    let a := (rs c f.a).toNat
    withAccess c a 64 32 false (
      let b := localBytes c a 64
      let st := fld b 28 4
      if !inSram st 8 then .fault 3 st
      else if st % 8 ≠ 0 then .fault 2 st
      else if c.calls.length ≥ 16 then .stall 5
      else onCore k (fun x => addTrace d 3 (ws f.d (c.nextTicket.zeroExtend 64)
        { x with calls := x.calls ++ [⟨c.nextTicket, b⟩], nextTicket := c.nextTicket + 1 })) (destUndefined k b d)))) s

/-- A ticket was issued in this dispatch: (N − t) mod 2³² from 1 to 2³¹ (R461). -/
def ticketIssued (c : CoreSt) (t : W32) : Bool :=
  let n := (c.nextTicket - t).toNat
  decide (1 ≤ n ∧ n ≤ 2 ^ 31)

/-- The ticket's call is done: it is no longer outstanding. -/
def ticketDone (c : CoreSt) (t : W32) : Bool := !(c.calls.any fun x => x.ticket == t)

/-- await s_a (R461). -/
def execAwait (k : CoreIx) (f : RForm) (s : State) : Out :=
  run (coreR k f (decide (f.d.val = 0 ∧ f.b.val = 0 ∧ f.mod.val = 0)) (fun c d =>
    let t := (rs c f.a).truncate 32
    if !ticketIssued c t then .fault 1 0 else if ticketDone c t then .done d else .stall 3)) s

/-- atest ticket s_a, mod = result predicate (R461). -/
def execAtest (k : CoreIx) (f : RForm) (s : State) : Out :=
  run (coreR k f (decide (f.d.val = 0 ∧ f.b.val = 0)) (fun c d =>
    let t := (rs c f.a).truncate 32
    if !ticketIssued c t then .fault 1 0
    else onCore k (wp f.mod (if ticketDone c t then 1 else 0)) d)) s

/-- halt: ch0–ch13 are disabled, the core's array calls and DMA queues complete, control returns to the runtime
(R179). -/
def execHalt (k : CoreIx) (f : RForm) (s : State) : Out :=
  run (coreR k f (decide (f.d.val = 0 ∧ f.a.val = 0 ∧ f.b.val = 0 ∧ f.mod.val = 0)) (fun c d =>
    if !c.calls.isEmpty then .stall 3
    else if c.dma.any fun q => !q.2.ents.isEmpty then .stall 4
    else if (List.range 14).any fun n => !(inFlight d k n).isEmpty then .stall 2
    else .done (modCore k (fun x => { x with state := 0, job := none })
      ((List.range 14).foldl (fun x n => chDisable k n x) d)))) s

/-- A core stays blocked longer than COR_WATCHDOG: fault 06h. Frequency changes do not count, and a core halted by debug
has its watchdog suspended (R172, R178). A core waiting in fence, halt or chcfg shows the same causes and is taken too: R172 lists send, recv,
await, dwait and full queues, the model's choice (log entry 182). -/
def stallWatchdog (k : Nat) (d : Dev) : Dev :=
  let c := getCore d k
  if c.stalled ∧ c.cause ≠ 6 ∧ c.state ≠ 2 then coreFault k c.pc 6 0 d else d

/-- STALL_WATCHDOG (R172). -/
def execStallWatchdog (k : CoreIx) (s : State) : Out := run (stallWatchdog k) s

/-- The runtime dispatches a kernel: code and data into kernel SRAM, COR_TENANT, s1 = argument block, tickets and DMA
counts from 0; every other register is undefined (R179, R461, R176). A core whose kernel runs or is halted, or with calls
or transfers left, is not dispatched. -/
def dispatch (k : Nat) (tenant : Nat) (entry : BitVec 22) (arg : W32) (base : Nat) (code : Bytes) (job : KernelJob) (d : Dev) :
    Dev :=
  let c := getCore d k
  if coreRetired d k ∨ c.state = 1 ∨ c.state = 2 ∨ !c.calls.isEmpty ∨ c.dma.any (fun q => !q.2.ents.isEmpty) ∨ !inSram base code.length then d
  else
    let c1 : CoreSt := { putLocal base code c with
      s := [(1, arg.zeroExtend 64)], v := [], acc := [], mma := [], p := [], ctx := [], epoch := d.freeCtr + 1
      pc := entry, tenant := BitVec.ofNat 6 tenant, state := 1, stalled := false, cause := 0, brkSkip := false
      nextTicket := 0, dma := [], job := some job }
    setCore k c1 { d with
      freeCtr := d.freeCtr + 1, grid.ran := if d.grid.ran.contains (k, job) then d.grid.ran else d.grid.ran ++ [(k, job)] }

/-- Dispatches that waited for a core's wake (R29). -/
def dispatchHeld (k : Nat) (d : Dev) : Dev :=
  (d.grid.held.filter fun h => h.core = k).foldl (fun x h => dispatch k h.tenant h.entry h.arg h.base h.code h.job x)
    { d with grid.held := d.grid.held.filter fun h => h.core ≠ k }

/-- KERNEL_DISPATCH (R179); to a core below Idle it is held (R29). -/
def execKernelDispatch (k : CoreIx) (tenant : FnIx) (entry : BitVec 22) (argBlock : W32) (base : BitVec 22) (code : Bytes)
    (job : KernelJob) (s : State) : Out :=
  run (fun d => if domHolds d k then
      domAsk k { d with grid.held := d.grid.held ++ [⟨k, tenant, entry, argBlock, base.toNat, code, job⟩] }
    else dispatch k tenant entry argBlock base.toNat code job d) s

end Sys2Proof.Machine
end

