-- ==== Sys2Proof/Machine/ArrayPort.lean ====
section
/-! DEFINITION. The array port: acceptance (R173), tallies (R133), side records (R131), splitting (R73), queues (R84–R86),
holds and flips (R82, R83), shares (R87), totals (R142–R147), outlier and digital products (R127, R130). -/

namespace Sys2Proof.Machine

/-! Group records and passes. -/

def recCode (r : Bytes) (n : Nat) : Nat := bits ((r.getD (n / 2) 0).toNat) (4 * (n % 2)) 4
/-- The 256 codes of a record; 1000b is used as 0 (R35). -/
def recCodes (r : Bytes) : List Int := (List.range 256).map fun n => int4Val (recCode r n)
def recScale (r : Bytes) : Nat := fld r 128 1
def recShift (r : Bytes) (b : Nat) : Nat := bits (fld r 129 2) (2 * b) 2
def recFlag (r : Bytes) (n : Nat) : Bool := bitAt (fld r 132 1) n
def recSat (r : Bytes) : Nat := (List.range 8).foldl (fun s b => s + fld r (136 + b) 1) 0
def recZeroed (r : Bytes) : Nat := (List.range 8).foldl (fun s b => s + fld r (144 + b) 1) 0

/-- Pulse width of a code under a shift (R65). -/
def pulse (c : Int) (m : Nat) : Nat := c.natAbs * (8 >>> m)

/-- Side sum of one block. -/
def blockSum (codes : List Int) (b m : Nat) : Nat :=
  ((codes.drop (32 * b)).take 32).foldl (fun s c => s + pulse c m) 0

/-- split_group (R73): driven blocks and S of each pass, in block order. -/
def splitGroup (codes : List Int) (m : Nat → Nat) : List (Nat × Nat) :=
  let r := (List.range 8).foldl (fun (acc : List (Nat × Nat) × Nat × Nat) b =>
    let sb := blockSum codes b (m b)
    if sb = 0 then acc
    else if acc.2.2 + sb > 3968 then (acc.1 ++ [(acc.2.1, acc.2.2)], 2 ^ b, sb)
    else (acc.1, acc.2.1 + 2 ^ b, acc.2.2 + sb)) ([], 0, 0)
  if r.2.1 = 0 then r.1 else r.1 ++ [r.2]

/-- Passes a record fires: none for an invalid or zero scale (R38, R46, R75). -/
def recPasses (r : Bytes) : List (Nat × Nat) :=
  if recScale r = 0 || !scaleOk (recScale r) then [] else splitGroup (recCodes r) (recShift r)

/-- Designated rows of a group, within the group. -/
def desIn (h : HandleEnt) (i : Nat) : List Nat :=
  (h.des.filter fun r => decide (256 * i ≤ r ∧ r < 256 * i + 256)).map (· - 256 * i)

/-- Why a side record is ignored (R131): 1 repeat, 2 designated row, 3 dyn_n, 4 scale; 0 when it is used. -/
def sideFault (h : HandleEnt) (i : Nat) (sd : Bytes) : Nat :=
  let n := fld sd 0 1
  let rows := (List.range (min n 16)).map fun j => fld sd (4 + j) 1
  if !decide rows.Nodup then 1
  else if rows.any fun r => (desIn h i).contains r then 2
  else if n > 16 then 3
  else if n > 0 ∧ (fld sd 1 1 = 0 ∨ fld sd 1 1 ≥ 0x80) then 4
  else 0

/-- Residual codes by row within the group, 0 elsewhere. -/
def sideCodes (sd : Bytes) : List Int :=
  let n := min 16 (fld sd 0 1)
  (List.range 256).map fun r =>
    match (List.range n).find? fun j => fld sd (4 + j) 1 = r with
    | some j => int4Val (bits ((sd.getD (20 + j / 2) 0).toNat) (4 * (j % 2)) 4)
    | none => 0

/-- Physical row of logical row n under a position's permutation (R110). -/
def physRow (p : PlaneSt) (pos n : Nat) : Nat :=
  match sFind p.perms (pos * 8 + n / 32) with
  | some t => 32 * (n / 32) + t.getD (n % 32) (n % 32)
  | none => n

/-- Entry of logical row n in a permutation table: 5 bits, the physical row within its block (R110). -/
def permEntry (t : Bytes) (n : Nat) : Nat := bits (fld t (5 * n / 8) 2) (5 * n % 8) 5

/-- Physical rows of a position under the table its tile-map entry names (R81, R110). -/
def permRows (d : Dev) (e : MapEnt) : List Nat :=
  let t := sGet [] (getDie d (pkDie e.loc)).permTabs e.digPage.toNat
  (List.range 256).map fun n => if e.perm then 32 * (n / 32) + permEntry t n else n

/-- The descriptors of one group on one analogue entry: its split passes, then its residual pass (R73, R129). -/
def groupPasses (d : Dev) (c : ArrCall) (i : Nat) (e : MapEnt) (r sd : Bytes) (useSide : Bool) : List PassDesc :=
  let rows := permRows d e
  let base : PassDesc := { kind := 0, plane := e.loc, pos := e.pos, mask := 0, codes := recCodes r, rows := rows
                           shifts := BitVec.ofNat 16 (fld r 129 2), scale := BitVec.ofNat 8 (recScale r), s := 0, core := c.core
                           ticket := c.ticket, handle := c.handle, rowSeg := i, slab := e.colSlab, cols := e.colsM1 + 1
                           residual := false, refire := false }
  let ps := (recPasses r).map fun p => { base with mask := BitVec.ofNat 8 p.1, s := p.2 }
  if useSide && decide (fld sd 0 1 > 0) then
    let codes := sideCodes sd
    ps ++ [{ base with
      mask := 0xFF, codes := codes, shifts := 0, scale := BitVec.ofNat 8 (fld sd 1 1), residual := true
      s := codes.foldl (fun a x => a + pulse x 0) 0 }]
  else ps

/-! Tally (R133). -/

def tallyAdd (t : Tally) (els sat z dyn ovf rs uf so nf inv : Nat) : Tally :=
  { elements := satAdd 64 t.elements els, saturated := satAdd 32 t.saturated sat, zeroed := satAdd 32 t.zeroed z
    dynTaken := satAdd 32 t.dynTaken dyn, overflow := satAdd 32 t.overflow ovf, residualSat := satAdd 32 t.residualSat rs
    underflow := satAdd 32 t.underflow uf, scaleOvf := satAdd 32 t.scaleOvf so, nonFinite := satAdd 32 t.nonFinite nf
    invalid := satAdd 32 t.invalid inv }

def tallyOf (d : Dev) (key : Nat) : Tally := (sFind d.num.tallies key).getD {}

/-- Invalid codes and scales of a record. -/
def recInvalid (r : Bytes) : Nat × Nat :=
  if recScale r = 0 then (0, 0) else if !scaleOk (recScale r) then (0, 1)
  else (((List.range 256).filter fun n => recCode r n = 8).length, 0)

/-- Invalid residual codes of a side record that is used (R35). -/
def sideInvalid (sd : Bytes) : Nat :=
  ((List.range (min 16 (fld sd 0 1))).filter fun j => bits ((sd.getD (20 + j / 2) 0).toNat) (4 * (j % 2)) 4 = 8).length

/-- Add one group's counters to its layer's tally. -/
def tallyGroup (h : HandleEnt) (key i : Nat) (r : Bytes) (side : Option Bytes) (d : Dev) : Dev :=
  let len := fld r 133 1 + 1
  let els := len - ((desIn h i).filter (· < len)).length
  let inv := recInvalid r
  let (dyn, ovf, rs) := match side with
    | some sd => (fld sd 0 1, fld sd 2 1, fld sd 28 1)
    | none => (0, recSat r, 0)
  let t := tallyAdd (tallyOf d key) els (recSat r) (recZeroed r) dyn ovf (rs + fld r 152 2) (b2n (recFlag r 1))
    (b2n (recFlag r 2)) (b2n (recFlag r 3)) (inv.1 + inv.2 + (side.map sideInvalid).getD 0)
  { d with num.tallies := sSet d.num.tallies key t }

/-! Calls in the port. -/

def callIs (core : Nat) (t : W32) (c : ArrCall) : Bool := decide (c.core = core ∧ c.ticket = t)
def findCall (d : Dev) (core : Nat) (t : W32) : Option ArrCall := d.arr.calls.find? (callIs core t)
def setCall (c : ArrCall) (d : Dev) : Dev :=
  { d with arr.calls := d.arr.calls.map fun x => if callIs c.core c.ticket x then c else x }
def dropCall (core : Nat) (t : W32) (d : Dev) : Dev :=
  { d with arr.calls := d.arr.calls.filter fun x => !callIs core t x }

/-- A plane that fires traffic passes: Active, Shadow, or Refresh-due until placement flips (state table). -/
def firesTraffic (d : Dev) (pid : Nat) : Bool := let s := planeState d pid; s = 3 || s = 4 || s = 5

def bufIs (die slab : Nat) (b : TotalBuf) : Bool := decide (b.die = die ∧ b.slab = slab) && !b.sent

/-- The call has a total buffer on the die for the slab, or one is free (R142, R143). -/
def takeBuf (c : ArrCall) (die slab : Nat) (d : Dev) : Option (ArrCall × Dev) :=
  if c.bufs.any (bufIs die slab) then
    some ({ c with bufs := c.bufs.map fun b => if bufIs die slab b then { b with open_ := b.open_ + 1 } else b }, d)
  else
    let x := getDie d die
    if x.buffers ≥ 1024 then none
    else some ({ c with bufs := c.bufs ++ [⟨die, slab, [], 1, false⟩] },
      setDie die { x with buffers := x.buffers + 1, peak := max x.peak (x.buffers + 1) } d)

/-- The stall of a die begins when something first waits for its traffic queue (R86). -/
def stallDie (die : Nat) (d : Dev) : Dev :=
  modDie die (fun x => if x.stalled then x else { x with stalled := true, stallUs := d.time.stampUs.toNat }) d

/-- A plane that became Suspect in a refresh whose shadow is in Programming or Verifying (R83). -/
def inRefreshHold (d : Dev) (pid : Nat) : Bool :=
  decide (planeState d pid = 6) && match sFind d.arr.refreshes pid with
    | some r => decide (r.step = 3)
    | none => false

/-- A pass leaves its die: its total buffer waits for it no longer. -/
def leaveBuf (p : PassDesc) (c : ArrCall) : ArrCall :=
  { c with bufs := c.bufs.map fun b => if bufIs (pkDie p.plane) p.slab b then { b with open_ := b.open_ - 1 } else b }

def handleOf (c : ArrCall) : Nat := c.handle.toNat % 2 ^ 20
def segOf (h : HandleEnt) (p : PassDesc) : Nat := p.rowSeg * h.colSlabs + p.slab

/-- Passes of one segment go on under an entry: analogue passes wait for their die's queue before the call's others, and a digital
entry makes its core owe the product of what they cover. A re-fire stays the pass's one re-fire. -/
def toEntry (d : Dev) (h : HandleEnt) (e : MapEnt) (seg : Nat) (ps : List PassDesc) (c : ArrCall) : ArrCall :=
  if ps.isEmpty then c
  else if e.digital then
    { c with due := c.due ++ [⟨physCore d (e.loc % 256), seg, seg % max 1 h.colSlabs, false,
        ps.foldl (fun (a : W8) p => if p.residual then a else a ||| p.mask) 0, ps.any (·.residual)⟩] }
  else
    let rows := permRows d e
    { c with waiting := (ps.map fun p => { p with plane := e.loc, pos := e.pos, rows := rows }) ++ c.waiting }

/-- The call keeps an entry for one segment only (R83). -/
def keepEntry (seg : Nat) (e : MapEnt) (c : ArrCall) : ArrCall :=
  { c with list := (List.range c.list.length).map fun n => if n = seg then e else c.list.getD n e }

/-- The entry a pass goes on under when its own plane fires no traffic: the call's entry for the segment, or the one of the
list in force, where that is another place (R83; log entry 163). -/
def newEntry (d : Dev) (c : ArrCall) (p : PassDesc) : Option MapEnt :=
  let h := getHandle d (handleOf c)
  let other : MapEnt → Bool := fun e => e.valid && (e.digital || (decide (e.loc ≠ p.plane ∨ e.pos ≠ p.pos) && firesTraffic d e.loc))
  [c.list[segOf h p]?, (if h.listSel then h.list1 else h.list0)[segOf h p]?].findSome? fun o => o.bind fun e =>
    if other e then some e else none

/-- Hold a pass for a replacement list and ask placement for one (R83); a list already flipped replaces its entry at once. -/
def holdPass (p : PassDesc) (st : ArrCall × Dev) : ArrCall × Dev :=
  let (c, d) := st
  let i := handleOf c
  let h := getHandle d i
  let seg := segOf h p
  match newEntry d c p with
  | some e => (toEntry d h e seg [p] (keepEntry seg e c), d)
  | none =>
    let asks := if d.arr.asks.contains (i, seg) then d.arr.asks else d.arr.asks ++ [(i, seg)]
    let since := if inRefreshHold d p.plane then some (getPlane d p.plane).suspectUs else none
    (if c.holds.any fun x => x.seg = seg then
      { c with holds := c.holds.map fun x => if x.seg = seg then { x with passes := x.passes ++ [p] } else x }
     else { c with holds := c.holds ++ [⟨seg, [p], since⟩] }, { d with arr.asks := asks })

/-- Enter waiting passes of a call into die queues, in the call's order for each die: a pass waits for a die that is told to hold
requests, which is woken (R29), for queue room and for a total buffer, and is held when its plane fires no traffic. A re-fire that was
held enters the re-fire queue, which has room. -/
def feedOnce (c : ArrCall) (d : Dev) : ArrCall × Dev :=
  let step : (ArrCall × Dev) × List PassDesc × List Nat → PassDesc → (ArrCall × Dev) × List PassDesc × List Nat :=
    fun st p =>
      let ((c1, d1), rest, blocked) := st
      let die := pkDie p.plane
      if blocked.contains die then ((c1, d1), rest ++ [p], blocked)
      else if domHolds d1 (349 + die) then ((c1, domWake (349 + die) d1), rest ++ [p], die :: blocked)
      else if !firesTraffic d1 p.plane then (holdPass p (c1, d1), rest, blocked)
      else if !p.refire && decide ((getDie d1 die).trafficQ.length ≥ 8192) then
        ((c1, stallDie die d1), rest ++ [p], die :: blocked)
      else match takeBuf c1 die p.slab d1 with
        | none => ((c1, modDie die (fun x => { x with waited := true }) d1), rest ++ [p], die :: blocked)
        | some (c2, d2) => ((c2, modDie die (fun x =>
            if p.refire then { x with refireQ := x.refireQ ++ [p] } else { x with trafficQ := x.trafficQ ++ [p] }) d2), rest, blocked)
  if c.unstaged then (c, d) else
    let r := c.waiting.foldl step (({ c with waiting := [] }, d), [], [])
    ({ r.1.1 with waiting := r.1.1.waiting ++ r.2.1 }, r.1.2)

/-- Feed a call; passes that a list already flipped took to another plane enter its die's queue in the second round. -/
def feedCall (c : ArrCall) (d : Dev) : ArrCall × Dev := let r := feedOnce c d; feedOnce r.1 r.2

/-! Shares (R87). -/

/-- Demand of a die: queued traffic and maintenance passes and planes in Programming or Verifying. -/
def demand (d : Dev) (n : Nat) : Nat :=
  let x := getDie d n
  x.trafficQ.length + x.maintQ.length + x.programming.length

/-- Die with the largest fraction among those not yet served; ties to the lower index. -/
def bestFrac (fr : List (Nat × Nat)) : Option Nat :=
  (fr.foldl (fun (b : Option (Nat × Nat)) x => match b with
    | none => some x
    | some y => if x.2 > y.2 then some x else some y) none).map (·.1)

/-- Give the remaining passes one at a time by largest fraction; a die already at 4,096 is passed over. -/
def giveLeft : Nat → Nat → List (Nat × Nat) → Store Nat → Store Nat
  | 0, _, _, sh => sh
  | f + 1, left, fr, sh =>
    if left = 0 then sh else
      match bestFrac fr with
      | none => sh
      | some n =>
        let s := sGet 0 sh n
        let fr' := fr.filter fun x => x.1 ≠ n
        if s < 4096 then giveLeft f (left - 1) fr' (sSet sh n (s + 1)) else giveLeft f left fr' sh

/-- shares(budget, q) (R87), for the dies in order. -/
def shares (budget : Nat) (q : List Nat) : List Nat :=
  let w := (List.range 16).filter fun n => decide (q.getD n 0 > 0)
  let base := min (budget / 64) 4096
  let r := budget - base * w.length
  let tot := w.foldl (fun s n => s + q.getD n 0) 0
  if tot = 0 then List.replicate 16 0 else
    let sh := w.map fun n => (n, min (base + r * q.getD n 0 / tot) 4096)
    let used := sh.foldl (fun s x => s + x.2) 0
    let fin := giveLeft 16 (budget - used) (w.map fun n => (n, r * q.getD n 0 % tot)) sh
    (List.range 16).map fun n => sGet 0 fin n

def shareRecompute (d : Dev) : Dev :=
  let s := shares d.arr.budget ((List.range 16).map (demand d))
  (List.range 16).foldl (fun x n => modDie n (fun y => { y with share := s.getD n 0 }) x) d

/-- Recompute at once when a die whose share is 0 has work (R87). -/
def shareIfIdle (d : Dev) : Dev :=
  if (List.range 16).any fun n => decide ((getDie d n).share = 0 ∧ demand d n > 0) then shareRecompute d else d

/-- Feed every call, oldest first. -/
def feedCalls (d : Dev) : Dev :=
  d.arr.calls.foldl (fun x c =>
    match findCall x c.core c.ticket with
    | none => x
    | some c1 => let r := feedCall c1 x; setCall r.1 r.2) d

/-- Feed every call; a die without a share that gets work is given one at once (R87). -/
def feedAll (d : Dev) : Dev := shareIfIdle (feedCalls d)

/-- SHARE_RECOMPUTE (R87). -/
def execShareRecompute (s : State) : Out := run shareRecompute s

/-! Acceptance (R173). -/

def slotScrubbing (d : Dev) (t : Nat) : Bool := decide (sGet 0 d.sec.slots t = 2)

/-- The first failing check of R173, as a status code; 0 when the call is accepted. A call of a tenant being scrubbed is
refused (R378; log entry 15). -/
def acceptCheck (d : Dev) (tenant : Nat) (b : Bytes) : Nat :=
  let hd := fld b 0 4
  let h := getHandle d (hd % 2 ^ 20)
  let src := fld b 32 1
  let groups := fld b 4 2
  let first := fld b 24 2
  let n := fld b 26 2
  let resid := if src % 2 = 0 then fld b 16 4 else fld b 56 8
  let out := fld b 20 4
  let desN := h.des.length
  if slotScrubbing d tenant then 0x6001
  else if bits hd 20 6 ≠ tenant then 0x6001
  else if bits hd 26 6 ≠ 0 ∨ h.state = 0 then 0x1001
  else if h.tenant ≠ tenant then 0x6001
  else if h.state = 2 then 0x3001
  else if groups ≠ h.rowSegs ∨ n = 0 ∨ first + n > h.colSlabs ∨ (desN > 0 ∧ resid = 0) then 0x1001
  else if src > 1 ∨ !zeros b 33 7 ∨ !inSram out (4 * slabCols h first n) then 0x1001
  else if src = 0 then
    (if !inSram (fld b 8 4) (160 * groups) ∨ (fld b 12 4 ≠ 0 ∧ !inSram (fld b 12 4) (32 * groups))
        ∨ (resid ≠ 0 ∧ !inSram resid desN) ∨ !zeros b 40 24 then 0x1001 else 0)
  else
    (if !zeros b 8 12 ∨ !inRegion d tenant (fld b 40 8) (160 * groups) ∨ fld b 40 8 % 32 ≠ 0
        ∨ (fld b 48 8 ≠ 0 ∧ (!inRegion d tenant (fld b 48 8) (32 * groups) ∨ fld b 48 8 % 32 ≠ 0))
        ∨ (resid ≠ 0 ∧ !inRegion d tenant resid desN) then 0x1001 else 0)

/-- A call ends in the core: status word written, slot released, trace record (R174). -/
def finishCall (core : Nat) (t : W32) (status word : Nat) (d : Dev) : Dev :=
  dropCall core t (modCore core (fun c =>
    addTrace d 4 { putLocal status (toLe 8 word) c with calls := c.calls.filter fun x => x.ticket ≠ t }) d)

/-- The group records, side records and residual vector of a call, from kernel SRAM or the tenant's HBM region. -/
def callInput (d : Dev) (core tenant : Nat) (b : Bytes) (desN : Nat) : List Bytes × List Bytes × Bytes :=
  let groups := fld b 4 2
  let c := getCore d core
  let hbm := fld b 32 1 % 2 = 1
  let rd : Nat → Nat → Bytes := fun a n => if hbm then hbmGet d tenant a n else getBytes c.sram a n
  let ra' := if hbm then fld b 40 8 else fld b 8 4
  let sa := if hbm then fld b 48 8 else fld b 12 4
  let va := if hbm then fld b 56 8 else fld b 16 4
  ((List.range groups).map fun i => rd (ra' + 160 * i) 160,
   if sa = 0 then [] else (List.range groups).map fun i => rd (sa + 32 * i) 32,
   if va = 0 then [] else rd va desN)

/-- NUM event of an array call, codes 2001h–2004h, from the unit that met the cause (log entry 164 for what the port meets). -/
def callNumAt (u : W32) (c : ArrCall) (h : HandleEnt) (code : W16) (sev : W8) (count : Nat) (d : Dev) : Dev :=
  if count = 0 then d else
    let layer := c.key % 2 ^ 16
    raiseNum ⟨code, BitVec.ofNat 16 (c.key / 2 ^ 32), BitVec.ofNat 16 layer⟩ sev h.tenant u
      (pay [(16, 2, c.key / 2 ^ 32), (18, 2, c.key / 2 ^ 16), (20, 2, layer), (22, 4, count)]) d

def callNum (c : ArrCall) (h : HandleEnt) (code : W16) (sev : W8) (count : Nat) (d : Dev) : Dev :=
  callNumAt (uCore c.core) c h code sev count d

/-- Queue the work of one segment: passes, a digital product, or a refused entry (R81, R83). A group whose own record fires no pass
still fires its residual pass (R129; log entry 165). The unit of 3008h is the device where the entry names no tile-plane (log entry
166). -/
def segWork (h : HandleEnt) (i j : Nat) (r sd : Bytes) (useSide : Bool) (st : ArrCall × Dev) : ArrCall × Dev :=
  let (c, d) := st
  let fires := !(recPasses r).isEmpty || (useSide && decide (fld sd 0 1 > 0))
  match c.list[i * h.colSlabs + j]? with
  | none => st
  | some e =>
    if !fires then st
    else if !e.valid then
      ({ c with fault := true }, raise 0x3008 3 0 uDevice (pay [(16, 4, c.handle.toNat), (20, 1, 2)]) d)
    else if e.digital then ({ c with due := c.due ++ [⟨physCore d (e.loc % 256), i * h.colSlabs + j, j, false, 0xFF, true⟩] }, d)
    else if pkPlane e.loc ≥ 200 then
      ({ c with fault := true }, raise 0x3008 3 0 uDevice (pay [(16, 4, c.handle.toNat), (20, 1, 3)]) d)
    else if pkPlane e.loc ≥ 160 then
      ({ c with fault := true }, raise 0x3008 3 0 (uPlane e.loc) (pay [(16, 4, c.handle.toNat), (20, 1, 1)]) d)
    else ({ c with waiting := c.waiting ++ groupPasses d c i { e with colSlab := j } r sd useSide }, d)

/-- Take one group: tally, side record, splits, and the work of every slab. -/
def takeGroup (h : HandleEnt) (nonFin : Bool) (i : Nat) (st : ArrCall × Dev) : ArrCall × Dev :=
  let (c, d) := st
  let r := c.recs.getD i []
  let sd? := c.sides[i]?
  let sd := sd?.getD []
  let bad := match sd? with
    | some x => sideFault h i x
    | none => 0
  let used := sd?.isSome && decide (bad = 0)
  let d1 := tallyGroup h c.key i r (if used then some sd else none) d
  let d2 := if bad = 0 then d1 else
    raiseNum ⟨0x2007, 0, 0⟩ 2 h.tenant (uCore c.core) (pay [(16, 4, c.handle.toNat), (20, 2, i), (22, 1, bad)]) d1
  if nonFin then (c, d2) else
    let n := (recPasses r).length
    -- slabs whose entry takes passes (R74)
    let slabs := (List.range c.slabs).countP fun j => match c.list[i * h.colSlabs + c.firstSlab + j]? with
      | some e => e.valid && !e.digital && decide (pkPlane e.loc < 160)
      | none => false
    let d3 := if n ≤ 1 ∨ slabs = 0 then d2 else
      { d2 with arr.splitGroups := BitVec.ofNat 32 (satAdd 32 d2.arr.splitGroups.toNat 1)
                arr.extraPasses := BitVec.ofNat 32 (satAdd 32 d2.arr.extraPasses.toNat ((n - 1) * slabs)) }
    (List.range c.slabs).foldl (fun st' j => segWork h i (c.firstSlab + j) r sd used st') (c, d3)

/-- Dies that a call on slabs first to first + n − 1 of a matrix needs. -/
def diesNeeded (h : HandleEnt) (first n : Nat) : List Nat :=
  ((if h.listSel then h.list1 else h.list0).filter fun e =>
    !e.digital && e.valid && decide (first ≤ e.colSlab ∧ e.colSlab < first + n)).map fun e => pkDie e.loc

/-- Dies the call needs whose traffic queue is full (R86). -/
def fullDies (d : Dev) (h : HandleEnt) (first n : Nat) : List Nat :=
  ((diesNeeded h first n).filter fun x => decide ((getDie d x).trafficQ.length ≥ 8192)).eraseDups

/-- Some die the call needs has no free total buffer: the issuing core stalls as for a full queue (R143). -/
def needsBuffer (d : Dev) (h : HandleEnt) (first n : Nat) : Bool :=
  (diesNeeded h first n).any fun x => decide ((getDie d x).buffers ≥ 1024)

/-- A call that is not accepted yet waits for room in a die's traffic queue (R86). -/
def newCallWaits (d : Dev) (n : Nat) : Bool :=
  decide ((getDie d n).trafficQ.length ≥ 8192) && d.grid.cores.any fun e => e.2.calls.any fun cc =>
    (findCall d e.1 cc.ticket).isNone && decide (acceptCheck d e.2.tenant.toNat cc.desc = 0)
      && (diesNeeded (getHandle d (fld cc.desc 0 4 % 2 ^ 20)) (fld cc.desc 24 2) (fld cc.desc 26 2)).contains n

/-- Some slab of a call has outlier copies that are not staged yet (R125). -/
def slabsUnstaged (h : HandleEnt) (first n : Nat) : Bool :=
  !h.des.isEmpty && (List.range n).any fun j => !h.staged.contains (first + j)

/-- Logical core that serves a slab of an outlier run (R124). -/
def outlierCore (h : HandleEnt) (slab : Nat) : Nat := (h.desCore + slab % max 1 h.desCores) % 256

/-- A call on slabs first to first + n − 1 of a matrix needs a segment that is lost (R236). -/
def needsLost (h : HandleEnt) (first n : Nat) : Bool :=
  h.lost.any fun s => let j := s % max 1 h.colSlabs
                      decide (first ≤ j ∧ j < first + n)

/-- A call counts for its handle: calls and passes of the epoch, and the handles called in the sailing (R238, R241). -/
def countCall (i fired : Nat) (d : Dev) : Dev :=
  { d with
    plc.passes := sPut 0 d.plc.passes i (sGet 0 d.plc.passes i + fired)
    plc.calls := sPut 0 d.plc.calls i (sGet 0 d.plc.calls i + 1)
    plc.calledNow := if d.plc.calledNow.contains i then d.plc.calledNow else d.plc.calledNow ++ [i] }

/-- ARRAY_CALL_ACCEPT: the port checks a call of a core, resolves its list and queues its passes. -/
def arrayCallAccept (k : Nat) (t : W32) (d : Dev) : Dev :=
  let core := getCore d k
  match core.calls.find? (fun x => x.ticket == t), findCall d k t with
  | some cc, none =>
    let b := cc.desc
    let tenant := core.tenant.toNat
    let code := acceptCheck d tenant b
    if code ≠ 0 then finishCall k t (fld b 28 4) (1 + 8 + code * 2 ^ 16) (noteRefused (coreCtxs d k) code d)
    else
      let hd := fld b 0 4
      let h := getHandle d (hd % 2 ^ 20)
      let first := fld b 24 2
      let n := fld b 26 2
      let full := fullDies d h first n
      if !full.isEmpty then full.foldl (fun x die => stallDie die x) d
      else if needsBuffer d h first n then
        (diesNeeded h first n).foldl (fun x die => if (getDie x die).buffers ≥ 1024 then
          modDie die (fun y => { y with waited := true }) x else x) d
      else
        let inp := callInput d k tenant b h.des.length
        let nf := inp.1.any fun r => recFlag r 3
        let c : ArrCall := {
          core := k, ticket := t, tenant := tenant, key := layerKey h.model h.gen (BitVec.ofNat 16 (fld b 6 2))
          handle := BitVec.ofNat 32 hd, groups := fld b 4 2, firstSlab := first, slabs := n, dest := fld b 20 4
          status := fld b 28 4, list := if h.listSel then h.list1 else h.list0
          recs := inp.1, sides := inp.2.1, resid := inp.2.2, waiting := [], bufs := [], hub := [], due := [], holds := []
          fault := false, nonFinite := nf, passes := 0, unstaged := slabsUnstaged h first n, told := false, sinceUs := d.time.stampUs.toNat }
        let st := (List.range c.groups).foldl (fun st i => takeGroup h nf i st) (c, d)
        let inv0 := inp.1.foldl (fun (a : Nat × Nat) r => let x := recInvalid r; (a.1 + x.1, a.2 + x.2)) (0, 0)
        let inv := ((List.range c.groups).foldl (fun a i => match inp.2.1[i]? with
          | some sd => if sideFault h i sd = 0 then a + sideInvalid sd else a
          | none => a) inv0.1, inv0.2)
        let c1 := if nf || h.des.isEmpty then st.1 else
          { st.1 with due := st.1.due ++ (List.range n).map fun j =>
              ⟨physCore d (outlierCore h (first + j)), 0, first + j, true, 0xFF, true⟩ }
        let d1 := callNum c1 h 0x2004 2 (inp.1.filter fun r => recFlag r 3).length
          (callNum c1 h 0x2002 3 inv.2 (callNum c1 h 0x2001 2 inv.1 st.2))
        let fired := if nf then 0 else inp.1.foldl (fun a r => a + (recPasses r).length * n) 0
        let d2 := countCall (hd % 2 ^ 20) fired (if needsLost h first n then noteRefused (coreCtxs d1 k) 0x4002 d1 else d1)
        let r := feedCall c1 { d2 with arr.calls := d2.arr.calls ++ [c1] }
        shareIfIdle (setCall r.1 r.2)
  | _, _ => d

/-- ARRAY_CALL_ACCEPT (R173). -/
def execArrayCallAccept (k : CoreIx) (ticket : W32) (s : State) : Out := run (arrayCallAccept k ticket) s

/-- A descriptor left the die's traffic queue: waiting passes enter; the stall ends when nothing waits (R86). -/
def trafficRoom (n : Nat) (d : Dev) : Dev :=
  let d1 := feedAll d
  let waits := decide ((getDie d1 n).trafficQ.length ≥ 8192)
    && (newCallWaits d1 n || d1.arr.calls.any fun c => !c.unstaged && c.waiting.any fun p => pkDie p.plane = n)
  modDie n (fun x => { x with
    stalled := x.stalled && waits
    stallTold := x.stallTold && decide (x.trafficQ.length ≥ 4096) }) d1

/-- TRAFFIC_QUEUE_ROOM (R86). -/
def execTrafficQueueRoom (d : DieIx) (s : State) : Out := run (trafficRoom d) s

/-- A stall has lasted more than 1 ms: 3007h once, until the queue has drained below half (R86). -/
def stallTimeout (n : Nat) (d : Dev) : Dev :=
  let x := getDie d n
  if x.stalled ∧ !x.stallTold then
    raise 0x3007 1 0 (uDie n) (pay [(16, 4, max 1000 (d.time.stampUs.toNat - x.stallUs))])
      (setDie n { x with stallTold := true } d)
  else d

/-- TRAFFIC_STALL_TIMEOUT (R86). -/
def execTrafficStallTimeout (d : DieIx) (s : State) : Out := run (stallTimeout d) s

/-- A call has waited more than 1 ms for staged copies: 2006h once, and it goes on waiting (R125). -/
def stageTimeout (k : Nat) (t : W32) (d : Dev) : Dev :=
  match findCall d k t with
  | none => d
  | some c =>
    if !c.unstaged || c.told then d else
      raiseNum ⟨0x2006, 0, 0⟩ 1 c.tenant (uCore k) (pay [(16, 4, c.handle.toNat), (20, 4, max 1000 (d.time.stampUs.toNat - c.sinceUs))])
        (setCall { c with told := true } d)

/-- OUTLIER_STAGE_WAIT_TIMEOUT (R125). -/
def execOutlierStageWaitTimeout (k : CoreIx) (ticket : W32) (s : State) : Out := run (stageTimeout k ticket) s

/-! Totals. -/

/-- Add FP32 contributions at columns into a store of totals, one rounding each. -/
def addTotals (m : Store W32) (cs : List (Nat × Nat)) : Store W32 :=
  cs.foldl (fun acc c => sPut 0 acc c.1 (BitVec.ofNat 32 (add32 (sGet 0 acc c.1).toNat c.2))) m

/-- A buffer is ready when every pass of the call, slab and die has been promoted, re-fired or resolved (R143). -/
def bufReady (c : ArrCall) (b : TotalBuf) : Bool :=
  decide (b.open_ = 0) && !b.sent && c.holds.all (fun h => h.passes.all fun p => p.slab ≠ b.slab)
    && c.waiting.all fun p => pkDie p.plane ≠ b.die || p.slab ≠ b.slab

/-- The n-th ready buffer of a die is sent to the hub and released. -/
def totalsSend (die n : Nat) (d : Dev) : Dev :=
  let ready := d.arr.calls.flatMap fun c => (c.bufs.filter fun b => decide (b.die = die) && bufReady c b).map fun b => (c, b)
  match ready[n]? with
  | none => d
  | some (c, b) =>
    let c1 := { c with
      hub := addTotals c.hub (b.totals.map fun x => ((b.slab - c.firstSlab) * 512 + x.1, x.2.toNat))
      bufs := c.bufs.filter fun x => !(decide (x.die = b.die ∧ x.slab = b.slab)) }
    feedAll (modDie die (fun x => { x with buffers := x.buffers - 1 }) (setCall c1 d))

/-- DIE_TOTALS_SEND (R143). -/
def execDieTotalsSend (d : DieIx) (buf : Nat) (s : State) : Out := run (totalsSend d buf) s

/-- FP8 value of entry n of a call's residual vector, in the format of the layer's recipe. The raw sums of a call without non-finite
input stay finite (R146): an infinity counts as ±57,344, the bound the rule gives, and a NaN code as a free finite value (log entry
167). -/
def residVal (d : Dev) (c : ArrCall) (n : Nat) : FVal :=
  let r := sGet {} d.num.listed (c.key * 16 + (sGet 0 d.num.current c.key).toNat)
  let f := if r.rounding.getLsbD 4 then e5m2 else e4m3
  match fdec f (byteAt c.resid n) with
  | .fin s m e => .fin s m e
  | .inf s => fdec f (0x7B + b2n s * 128)
  | .nan => let x := (Config.freeLane 60 (b2n (r.rounding.getLsbD 4)) (byteAt c.resid n) n).toNat
            fdec f (x % (if r.rounding.getLsbD 4 then 124 else 127) + x / 256 % 2 * 128)

/-- Partial sum of one column of a slab: residuals × staged copies in list order (R127). -/
def outlierCol (d : Dev) (c : ArrCall) (h : HandleEnt) (slab col : Nat) : Nat :=
  (List.range h.des.length).foldl (fun acc n =>
    let w := ternVal (bits (sGet 0 h.copies (slab * 256 + n)).toNat (2 * col) 2)
    add32 acc (rnd fp32 (fmulV (residVal d c n) (.fin (decide (w < 0)) w.natAbs 0)))) 0

/-- Invalid ternary codes in the copies of a slab. -/
def outlierBad (h : HandleEnt) (slab cols : Nat) : Nat :=
  (List.range h.des.length).foldl (fun a n =>
    a + ((List.range cols).filter fun col => bits (sGet 0 h.copies (slab * 256 + n)).toNat (2 * col) 2 = 2).length) 0

/-- Columns of one slab. -/
def colsOf (h : HandleEnt) (slab : Nat) : Nat := if slab + 1 = h.colSlabs then h.lastColsM1 + 1 else 512

/-- Rows of a slab's copies as they stand in the outlier block in HBM (R124). -/
def hbmCopies (d : Dev) (h : HandleEnt) (slab : Nat) : Store (BitVec 1024) :=
  (List.range h.des.length).map fun n => (slab * 256 + n,
    BitVec.ofNat 1024 (fld (hbmGet d h.tenant (h.blockAddr + 512 + (slab * h.des.length + n) * 128) 128) 0 128))

/-- Stage a slab's copies into its outlier core, from HBM (R125). -/
def stageSlab (i slab : Nat) (d : Dev) : Dev :=
  let h := getHandle d i
  setHandle i { h with
    staged := if h.staged.contains slab then h.staged else slab :: h.staged
    copies := (hbmCopies d h slab).foldl (fun m e => sSet m e.1 e.2) h.copies } d

/-- Weights of a slab that are 10b both in the staged copy and in HBM. -/
def outlierBadHbm (d : Dev) (h : HandleEnt) (slab cols : Nat) : Nat :=
  (hbmCopies d h slab).foldl (fun a e =>
    a + ((List.range cols).filter fun col => bits e.2.toNat (2 * col) 2 = 2 ∧ bits (sGet 0 h.copies e.1).toNat (2 * col) 2 = 2).length) 0

/-- Charge the HBM channel that held invalid ternary codes; which channel an address lies in is open (log entry 168). -/
def ternaryHbm (count : Nat) (d : Dev) : Dev :=
  if count = 0 then d else
    let r := fresh 64 d
    ternaryInvalid 0 (uHbm (Config.pick r.2.freeCtr % 128)) count r.1.toNat { r.2 with freeCtr := r.2.freeCtr + 1 }

/-- Invalid codes met in a staged copy: 2003h and 4016h from the outlier core, the copy staged again from HBM, and 4016h of the channel
where HBM holds the same codes (R42, R125). -/
def outlierInvalid (c : ArrCall) (core i slab : Nat) (d : Dev) : Dev :=
  let h := getHandle d i
  let n := colsOf h slab
  let bad := outlierBad h slab n
  if bad = 0 then d else
    let inHbm := outlierBadHbm d h slab n
    let d1 := callNumAt (uCore core) c h 0x2003 3 bad
      { d with num.tallies := sSet d.num.tallies c.key (tallyAdd (tallyOf d c.key) 0 0 0 0 0 0 0 0 0 bad) }
    let r := fresh 64 d1
    ternaryHbm inHbm (stageSlab i slab (ternaryInvalid 1 (uCore core) bad r.1.toNat r.2))

/-- Calls whose slabs are all staged go on. -/
def unstageCalls (i : Nat) (d : Dev) : Dev :=
  let h := getHandle d i
  { d with arr.calls := d.arr.calls.map fun c =>
      if handleOf c = i then { c with unstaged := c.unstaged && slabsUnstaged h c.firstSlab c.slabs } else c }

/-- The outlier core of a slab delivers its partial sums (R127); the slab's copies are staged by then (R125). -/
def outlierPartial (k : Nat) (t : W32) (slab : Nat) (d0 : Dev) : Dev :=
  match findCall d0 k t with
  | none => d0
  | some c =>
    match takeFirst (fun x : DigitalDue => x.outlier && decide (x.slab = slab)) c.due with
    | none => d0
    | some (x, rest) =>
      let i := handleOf c
      let d := if (getHandle d0 i).staged.contains slab then d0 else stageSlab i slab d0
      let h := getHandle d i
      let c1 := { c with
        due := rest
        hub := addTotals c.hub ((List.range (colsOf h slab)).map fun col =>
          ((slab - c.firstSlab) * 512 + col, outlierCol d c h slab col)) }
      feedAll (outlierInvalid c x.core i slab (unstageCalls i (setCall c1 d)))

/-- OUTLIER_PARTIAL (R127). -/
def execOutlierPartial (k : CoreIx) (ticket : W32) (slab : Nat) (s : State) : Out := run (outlierPartial k ticket slab) s

/-- A digital entry's product of one column: the group's codes in the blocks of a mask and, where res holds, the side record's
residual codes, times the golden weights, summed exactly and rounded once (R44, R130; log entry 11). -/
def digitalCol (mask : W8) (res : Bool) (c : ArrCall) (h : HandleEnt) (i j col : Nat) : Nat :=
  let r := c.recs.getD i []
  let seg := i * h.colSlabs + j
  let codes := recCodes r
  let w : Nat → Int := fun n => let at_ := seg * 131072 + n * 512 + col
                                 if h.digBad.contains at_ then 0 else sGet 0 h.golden at_
  let live := recScale r ≠ 0 && scaleOk (recScale r)
  let run : Int := if live then (List.range 256).foldl (fun s n =>
    if !mask.getLsbD (n / 32) then s else s + codes.getD n 0 * (8 >>> recShift r (n / 32) : Nat) * w n) 0 else 0
  let main : FVal := match fdec e4m3 (recScale r) with
    | .fin _ m e => .fin (decide (run < 0)) (run.natAbs * m) (e - 3)
    | _ => .fin false 0 0
  let sd := c.sides.getD i []
  let side : FVal := if !res || sd.isEmpty || sideFault h i sd ≠ 0 || fld sd 0 1 = 0 then .fin false 0 0 else
    let rc' := sideCodes sd
    let q : Int := (List.range 256).foldl (fun s n => s + rc'.getD n 0 * w n) 0
    match fdec e4m3 (fld sd 1 1) with
    | .fin _ m e => .fin (decide (q < 0)) (q.natAbs * m) e
    | _ => .fin false 0 0
  rnd fp32 (faddV main side)

/-- A core's product for a digital tile-map entry joins the hub total (R83, R144). -/
def digitalProduct (k : Nat) (t : W32) (seg : Nat) (d : Dev) : Dev :=
  match findCall d k t with
  | none => d
  | some c =>
    match takeFirst (fun x : DigitalDue => !x.outlier && decide (x.seg = seg)) c.due with
    | none => d
    | some (x, rest) =>
      let h := getHandle d (handleOf c)
      let i := seg / max 1 h.colSlabs
      let j := seg % max 1 h.colSlabs
      let bad := (h.digBad.filter fun n => n / 131072 = seg).length
      let d1 := setCall { c with
        due := rest
        hub := addTotals c.hub ((List.range (colsOf h j)).map fun col =>
          ((j - c.firstSlab) * 512 + col, digitalCol x.mask x.res c h i j col)) } d
      if bad = 0 then d1 else
        ternaryHbm bad (callNumAt (uCore x.core) c h 0x2003 3 bad
          { d1 with num.tallies := sSet d1.num.tallies c.key (tallyAdd (tallyOf d1 c.key) 0 0 0 0 0 0 0 0 0 bad) })

/-- DIGITAL_ENTRY_PRODUCT (R83, R130). -/
def execDigitalEntryProduct (k : CoreIx) (ticket : W32) (seg : Nat) (s : State) : Out := run (digitalProduct k ticket seg) s

/-! Holds and flips (R82, R83). -/

/-- No flip arrived in time for a held segment: 2 ms, or 45 ms from when its plane became Suspect in a refresh whose shadow is
being programmed: 3006h, and the call completes with its array-fault flag. us is the time held. -/
def holdTimeout (k : Nat) (t : W32) (seg us : Nat) (d : Dev) : Dev :=
  match findCall d k t with
  | none => d
  | some c =>
    match takeFirst (fun x : HeldSeg => decide (x.seg = seg)) c.holds with
    | none => d
    | some (x, rest) =>
      let late := match x.refreshHold with
        | some since => decide (d.time.stampUs.toNat ≥ since + 45000)
        | none => decide (us ≥ 2000)
      if !late then d else
      let h := getHandle d (handleOf c)
      let unit := match x.passes with
        | p :: _ => uPlane p.plane
        | [] => uDevice
      raise 0x3006 3 0 unit
        (pay [(16, 4, c.handle.toNat), (20, 2, seg / max 1 h.colSlabs), (22, 2, seg % max 1 h.colSlabs)])
        (setCall { c with holds := rest, fault := true } d)

/-- REPLACEMENT_HOLD_TIMEOUT (R83). -/
def execReplacementHoldTimeout (k : CoreIx) (ticket : W32) (seg : Nat) (us : W32) (s : State) : Out :=
  run (holdTimeout k ticket seg us.toNat) s

/-- A held segment's passes move to the new list's entry, which the call keeps for the segment (R83). -/
def rehome (h : HandleEnt) (l : List MapEnt) (x : HeldSeg) (st : ArrCall × Dev) : ArrCall × Dev :=
  let (c, d) := st
  match l[x.seg]? with
  | none => st
  | some e => (toEntry d h e x.seg x.passes (keepEntry x.seg e { c with holds := c.holds.filter fun y => y.seg ≠ x.seg }), d)

/-- Queue a flagged pass for its one re-fire, on the plane the call's entry now names (R77). -/
def queueRefire (p : PassDesc) (d : Dev) : Dev :=
  let q := { p with refire := true }
  match findCall d p.core p.ticket with
  | some c =>
    let h := getHandle d (handleOf c)
    match c.list[segOf h p]? with
    | some e =>
      if e.digital || decide (e.loc ≠ p.plane ∨ e.pos ≠ p.pos) then
        feedAll (setCall (toEntry d h e (segOf h p) [q] (leaveBuf p c)) d)
      else modDie (pkDie p.plane) (fun x => { x with refireQ := x.refireQ ++ [q] }) d
    | none => modDie (pkDie p.plane) (fun x => { x with refireQ := x.refireQ ++ [q] }) d
  | none => modDie (pkDie p.plane) (fun x => { x with refireQ := x.refireQ ++ [q] }) d

/-- Placement flips a handle's list: calls accepted later use it, and held segments go on under it (R82, R83). -/
def flipHandle (i : Nat) (new_ : List MapEnt) (d : Dev) : Dev :=
  let h := getHandle d i
  let old := if h.listSel then h.list1 else h.list0
  -- a segment that turns digital is decompressed into HBM anew
  let kept := h.digBad.filter fun n => match old[n / 131072]? with
    | some e => e.digital
    | none => false
  let h0 := { h with digBad := kept }
  let h1 := if h.listSel then { h0 with list0 := new_, listSel := false } else { h0 with list1 := new_, listSel := true }
  let d1 := setHandle i h1 { d with arr.asks := d.arr.asks.filter fun a => a.1 ≠ i }
  feedAll (d1.arr.calls.foldl (fun x c =>
    if handleOf c = i then
      (let r := c.holds.foldl (fun st y => rehome h1 new_ y st) (c, x); setCall r.1 r.2)
    else x) d1)

/-- TIL_QUERY: results for the unit are ready (R2, TIL_QUERY_RES). -/
def execTilQuery (unit : W32) (s : State) : Out :=
  run (fun d => { d with arr.query := unit, arr.queryValid := true }) s

/-! Completion (R174, R147). -/

/-- A call is finished when nothing of it is outstanding, or when its array-fault flag is set. -/
def callFinished (c : ArrCall) : Bool :=
  c.fault || (c.waiting.isEmpty && c.bufs.isEmpty && c.due.isEmpty && c.holds.isEmpty)

/-- Remove a call's passes from every die and release its buffers. -/
def callRelease (c : ArrCall) (d : Dev) : Dev :=
  let mine : PassDesc → Bool := fun p => decide (p.core = c.core ∧ p.ticket = c.ticket)
  (List.range 16).foldl (fun x n => modDie n (fun y => { y with
    refireQ := y.refireQ.filter fun p => !mine p
    trafficQ := y.trafficQ.filter fun p => !mine p
    running := y.running.filter fun p => !mine p.desc
    buffers := y.buffers - (c.bufs.filter fun b => b.die = n).length }) x) d

/-- The raw sums, then the status word with done = 1; a faulted call writes no raw sum (R147, R153, R174). -/
def arrayCallComplete (k : Nat) (t : W32) (d : Dev) : Dev :=
  match findCall d k t with
  | none => d
  | some c =>
    if !callFinished c then d else
      let h := getHandle d (handleOf c)
      let word := 1 + b2n c.fault * 2 + b2n c.nonFinite * 4 + (min c.passes (2 ^ 32 - 1)) * 2 ^ 32
      let sums := (List.range (slabCols h c.firstSlab c.slabs)).flatMap fun n =>
        toLe 4 (if c.nonFinite then fp32.nan else (sGet 0 c.hub n).toNat)
      let d0 := match (getCore d k).calls.find? fun x => x.ticket == t with
        | some cc => if c.fault then noteCallFault k cc.desc (coreCtxs d k) d else d
        | none => d
      let d1 := if c.fault then callRelease c d0 else modCore k (putLocal c.dest sums) d0
      feedAll (finishCall k t c.status word d1)

end Sys2Proof.Machine
end

