-- ==== Sys2Proof/Machine/Passes.lean ====
section
/-! DEFINITION. Passes on a die: slots (R69–R71, R85, R86), correction (R92, R93), pilots and steering (R97–R100), checks
and re-fires (R76, R77, R91), promotion (R141), converter lock (R78), program pauses (R118). -/

namespace Sys2Proof.Machine

/-- A value laid on its field's integer steps: exact, or one of the two neighbours (log entry 16). -/
def roundStep (n i : Nat) (x : Rat) : Int := if x.den = 1 then x.num else x.floor + (if Config.roundUp n i then 1 else 0)

/-- Nearest integer, a tie away from zero (log entry 17). -/
def roundNear (x : Rat) : Int := if x ≥ 0 then (x + 1 / 2).floor else -((-x + 1 / 2).floor)

def ratAbs (x : Rat) : Rat := if x < 0 then -x else x
def ratClamp (lo hi x : Rat) : Rat := max lo (min hi x)

/-! What a pass drives. -/

def driven (p : PassDesc) (n : Nat) : Bool := p.mask.getLsbD (n / 32)
/-- Signed pulse of the group's row n. -/
def pulseOf (p : PassDesc) (n : Nat) : Int :=
  if driven p n then p.codes.getD n 0 * (8 >>> bits p.shifts.toNat (2 * (n / 32)) 2 : Nat) else 0
/-- Signed pulse of physical row r of the position. -/
def pulseAt (p : PassDesc) (r : Nat) : Int :=
  match (List.range 256).find? fun n => p.rows.getD n n = r with
  | some n => pulseOf p n
  | none => 0

/-- S+, S−, A+ and A− of a pass (R97); row parity within the tile is row parity within the position. -/
def pilotSums (p : PassDesc) : Nat × Nat × Nat × Nat :=
  (List.range 256).foldl (fun (a : Nat × Nat × Nat × Nat) n =>
    let x := pulseOf p n
    let even := p.rows.getD n n % 2 = 0
    (if x > 0 then a.1 + x.natAbs else a.1, if x < 0 then a.2.1 + x.natAbs else a.2.1,
     if (x > 0) = even then a.2.2.1 + x.natAbs else a.2.2.1, if (x > 0) = even then a.2.2.2 else a.2.2.2 + x.natAbs))
    (0, 0, 0, 0)

/-- Ideal count difference of pilot pair 512 + q (R97). -/
def pilotIdeal (p : PassDesc) (q : Nat) : Int :=
  let s := pilotSums p
  match q with
  | 0 | 1 => (s.1 : Int) - s.2.1
  | 2 | 3 => (s.2.1 : Int) - s.1
  | 4 => (s.2.2.1 : Int) - s.2.2.2
  | 5 => (s.2.2.2 : Int) - s.2.2.1
  | _ => 0

/-- 3 + ⌈0.005 S⌉ (R80) and B(S) (R76). -/
def envelope (s : Nat) : Nat := 3 + ceilDiv (5 * s) 1000
def sideBound (s : Nat) : Nat := ceilDiv (102 * s) 100 + 3 + ceilDiv (5 * s) 1000

/-! Correction (R92). -/

/-- (count − off − common drift) of one column. -/
def colVal (t : TileRec) (col cnt : Nat) : Rat :=
  (cnt : Rat) - ((sGet 0 t.off col : Int) : Rat) / 8 - ((if col % 2 = 0 then t.dP else t.dN : Int) : Rat) / 256

def rawDiff (t : TileRec) (m : PassMeas) (j : Nat) : Rat :=
  colVal t (2 * j) (m.cntP.getD j 0) - colVal t (2 * j + 1) (m.cntN.getD j 0)

/-- gp × (1 + trim / 4,096) before its clamp. -/
def gainRaw (c : CorrRec) (trim : Int) : Rat := (c.gp : Rat) / 32768 * (1 + (trim : Rat) / 4096)
def gainOf (c : CorrRec) (trim : Int) : Rat := ratClamp (4 / 5) (5 / 4) (gainRaw c trim)
/-- G of some column group is clamped. -/
def gainClamped (c : CorrRec) : Bool := (List.range 16).any fun k =>
  decide (gainRaw c (sGet 0 c.trim k) ≠ gainOf c (sGet 0 c.trim k))

/-- Compensation of data pair j: signed pulses subtracted or added. -/
def compOf (p : PassDesc) (comp : List CompEnt) (j : Nat) : Int :=
  comp.foldl (fun a e => if e.pos = p.pos ∧ e.pair = j then (if e.sign then a + pulseAt p e.row else a - pulseAt p e.row)
    else a) 0

/-- Corrected counts of the data pairs, in 1/256 count. -/
def corrected (n : Nat) (r : RunPass) (comp : List CompEnt) (m : PassMeas) : List Int :=
  (List.range 512).map fun j =>
    roundStep n j (256 * gainOf r.corr (sGet 0 r.corr.trim (j / 32)) * rawDiff r.tile m j) + 256 * compOf r.desc comp j

/-- Corrected pilot pair 512 + q, with a trim of 0 (R100). -/
def pilotCorr (n : Nat) (r : RunPass) (m : PassMeas) (q : Nat) : Int :=
  roundStep n (512 + q) (256 * gainOf r.corr 0 * rawDiff r.tile m (512 + q))

/-! Checks (R76). -/

def firstPair (lo hi : Nat) (p : Nat → Bool) : Option Nat := (List.range (hi - lo)).map (lo + ·) |>.find? p

/-- Lowest failing pair of each cause 1–5. -/
def passCauses (n : Nat) (r : RunPass) (m : PassMeas) (c : List Int) : List (Nat × Nat) :=
  let s := r.desc.s
  let at_ : Nat → Option Nat → List (Nat × Nat) := fun k o => match o with
    | some j => [(k, j)]
    | none => []
  at_ 1 (firstPair 0 520 fun j => decide (m.cntP.getD j 0 = 4095))
    ++ at_ 2 (firstPair 0 520 fun j => decide (m.cntN.getD j 0 = 4095))
    ++ at_ 3 (firstPair 0 520 fun j => decide (m.cntP.getD j 0 > sideBound s ∨ m.cntN.getD j 0 > sideBound s))
    ++ at_ 4 (firstPair 0 512 fun j => decide ((c.getD j 0).natAbs > 256 * (s + envelope s)))
    ++ at_ 5 (firstPair 512 520 fun j => !r.corr.pilotMask.getLsbD (j - 512)
        && decide ((pilotCorr n r m (j - 512) - 256 * pilotIdeal r.desc (j - 512)).natAbs > 256 * (4 * envelope s)))

/-- Causes that apply to a pass: all to a pass of a call or a candle, saturation only to a null pass (R102), and all but the pilot
residual to a pass of a self-check, whose last passes are judged by R100. -/
def causesOf (n : Nat) (r : RunPass) (m : PassMeas) (c : List Int) : List (Nat × Nat) :=
  let cs := passCauses n r m c
  match r.desc.kind with
  | 2 => cs.filter fun x => decide (x.1 ≤ 2)
  | 3 => cs.filter fun x => decide (x.1 ≠ 5)
  | _ => cs

/-- Payload of 3001h and 3002h (R91). -/
def passPayload (r : RunPass) (m : PassMeas) (cs : List (Nat × Nat)) : BitVec 128 :=
  let found := cs.foldl (fun a x => a + 2 ^ (x.1 - 1)) 0 + (if r.unlocked then 32 else 0)
  let rep : Nat × Nat := if r.unlocked then (6, 0xFFFF) else cs.headD (0, 0)
  let cp := if r.unlocked then 0 else m.cntP.getD rep.2 0
  let cn := if r.unlocked then 0 else m.cntN.getD rep.2 0
  pay [(16, 2, rep.2), (18, 1, rep.1), (19, 1, r.desc.pos), (20, 2, r.desc.s), (22, 2, cp), (24, 2, cn),
       (26, 4, r.desc.handle.toNat), (30, 1, found)]

/-! Pilot filter, steering, drift (R98, R99, R106). -/

/-- One step of the common-drift filter for side counts of a pilot column. -/
def driftStep (w n i : Nat) (cur : Int) (x : Rat) : Int :=
  clampInt (-32768) 32767 (roundStep n i (256 * ((cur : Rat) / 256 + (x - (cur : Rat) / 256) / w)))

/-- dP and dN after pairs 518 and 519 (masked ones skipped), with weight 1/w. -/
def pilotDrift (w n : Nat) (mask : W8) (m : PassMeas) (t : TileRec) : TileRec :=
  [6, 7].foldl (fun (t : TileRec) q =>
    if mask.getLsbD q then t else
      let x := (m.cntP.getD (512 + q) 0 : Rat) - ((sGet 0 t.off (2 * (512 + q)) : Int) : Rat) / 8
      let y := (m.cntN.getD (512 + q) 0 : Rat) - ((sGet 0 t.off (2 * (512 + q) + 1) : Int) : Rat) / 8
      { t with dP := driftStep w n (600 + q) t.dP x, dN := driftStep w n (610 + q) t.dN y }) t

def setFlag (b : Nat) (c : CorrRec) : CorrRec := { c with flags := c.flags ||| (1 <<< b) }

/-- Plane step of reference steering. -/
def steerPlane (n : Nat) (c : CorrRec) : CorrRec :=
  let g := (c.gp : Rat) / 32768
  if ratAbs (g - 1) ≤ 9 / 1000 then c else
    let dn : Int := if g > 1 then c.delta - 1 else c.delta + 1
    if dn < -128 ∨ dn > 127 then setFlag 0 (setFlag 4 c) else
      let gp := roundStep n 620 (32768 * (g * (1 + (dn : Rat) / 512) / (1 + (c.delta : Rat) / 512)))
      { c with delta := dn, gp := clampNat 0 65535 gp.toNat }

/-- Group step of reference steering for group k. -/
def steerGroup (k : Nat) (c : CorrRec) : CorrRec :=
  let t := sGet 0 c.trim k
  if t.natAbs ≤ 36 then c else
    let r := sGet 0 c.ref0 k
    let rn : Int := if t > 0 then r + 1 else r - 1
    if rn < -128 ∨ rn > 127 then setFlag 0 (setFlag 4 c) else
      let tn := roundNear (4096 * ((1 + (t : Rat) / 4096) * (1 + (r : Rat) / 512) / (1 + (rn : Rat) / 512) - 1))
      { c with ref0 := sPut 0 c.ref0 k rn, trim := sPut 0 c.trim k (clampInt (-128) 127 tn) }

def steer (n : Nat) (c : CorrRec) : CorrRec := (List.range 16).foldl (fun x k => steerGroup k x) (steerPlane n c)

/-- Drift d of R106; kappa in −0.001 % per °C, the die temperature in 0.25 °C. -/
def driftOf (c : CorrRec) (kappa : Nat) (temp : Int) : Rat :=
  (1 + (c.delta : Rat) / 512) / ((c.gp : Rat) / 32768 * (1 - (kappa : Rat) / 100000 * ((temp : Rat) / 4 - (c.tVer : Rat)))) - 1

/-- d is recomputed; it sets refresh_due above 6 % and hard_limit above 12 %. -/
def setDrift (n kappa : Nat) (temp : Int) (c : CorrRec) : CorrRec :=
  let d := driftOf c kappa temp
  let c1 := { c with drift := clampInt (-32768) 32767 (roundStep n 630 (10000 * d)) }
  let c2 := if ratAbs d > 6 / 100 then setFlag 0 c1 else c1
  if ratAbs d > 12 / 100 then setFlag 1 c2 else c2

/-- The gain estimate I / M within 0.5–2.0; M = 0 leaves it open between the limits (log entry 18). -/
def gainEst (n : Nat) (mask : W8) (s : Nat) (m : PassMeas) (t : TileRec) : Rat :=
  let ps := [0, 1, 2, 3].filter fun q => !mask.getLsbD q
  let mm : Rat := ps.foldl (fun a q =>
    a + colVal t (2 * (512 + q)) (m.cntP.getD (512 + q) 0) + colVal t (2 * (512 + q) + 1) (m.cntN.getD (512 + q) 0)) 0
  let i : Rat := ((ps.length * s : Nat) : Rat)
  if mm = 0 then 1 / 2 + 3 / 2 * ((Config.freeBits n 16).toNat : Rat) / 65535 else ratClamp (1 / 2) 2 (i / mm)

/-- pilot_update with weight 1/wg for gp and 1/wd for dP and dN. -/
def pilotUpdateW (wg wd n : Nat) (r : RunPass) (m : PassMeas) (d : Dev) : Dev :=
  let pid := r.desc.plane
  let p := getPlane d pid
  let t := pilotDrift wd n p.corr.pilotMask m (getTile d (tileKey pid))
  let d1 := setTile (tileKey pid) t d
  if r.desc.s < 512 then d1 else
    let g := gainEst n p.corr.pilotMask r.desc.s m t
    let gp := roundStep n 640 ((p.corr.gp : Rat) + (32768 * g - (p.corr.gp : Rat)) / wg)
    let c1 := steer n { p.corr with gp := clampNat 0 65535 gp.toNat }
    let die := getDie d (pkDie pid)
    setPlane pid { p with corr := setDrift n die.kappa die.temp c1 } d1

/-- pilot_update (R98), from an unflagged pass that is no re-fire. -/
def pilotUpdate (n : Nat) (r : RunPass) (m : PassMeas) (d : Dev) : Dev := pilotUpdateW 32 256 n r m d

/-! Results. -/

/-- A pass of a call is resolved on its die's buffer. -/
def resolveBuf (r : RunPass) (add : TotalBuf → TotalBuf) (c : ArrCall) : ArrCall :=
  { c with bufs := c.bufs.map fun b =>
      if bufIs (pkDie r.desc.plane) r.desc.slab b then add { b with open_ := b.open_ - 1 } else b }

/-- Promote corrected counts: c × scale / 8 rounded once to FP32 and added to the die's column totals (R141). -/
def promote (r : RunPass) (c : List Int) (b : TotalBuf) : TotalBuf :=
  match fdec e4m3 r.desc.scale.toNat with
  | .fin _ m e => { b with totals := addTotals b.totals ((List.range r.desc.cols).map fun j =>
      let x := c.getD j 0
      (j, rnd fp32 (.fin (decide (x < 0)) (x.natAbs * m) (e - 11)))) }
  | _ => b

/-- A flagged pass is queued once for re-fire; a flagged re-fire gives 3002h, charges the plane and ends the call, where it has one, with
its array-fault flag (R77, R342). -/
def flagPass (r : RunPass) (m : PassMeas) (cs : List (Nat × Nat)) (d : Dev) : Dev :=
  let pid := r.desc.plane
  let d0 := { d with arr.flagged := BitVec.ofNat 16 (satAdd 16 d.arr.flagged.toNat 1) }
  if !r.desc.refire then
    queueRefire r.desc
      (raise 0x3001 2 0 (uPlane pid) (passPayload r m cs) d0)
  else
    let d1 := raise 0x3002 3 0 (uPlane pid) (passPayload r m cs)
      { d0 with arr.repeated := BitVec.ofNat 16 (satAdd 16 d0.arr.repeated.toNat 1) }
    let d2 := match findCall d1 r.desc.core r.desc.ticket with
      | some c => setCall { resolveBuf r id c with fault := true } d1
      | none => d1
    charge 0x3002 false (uPlane pid) d2

/-! Program pauses (R118). -/

/-- The i-th plane in a die's program order has to pause: above 85 °C, without a share, or beyond the program limit. -/
def pauseDue (x : DieSt) (i : Nat) : Bool := decide (x.temp > 340) || decide (x.share = 0) || decide (i ≥ x.progLimit)

/-- Paused planes whose conditions hold again resume, in the order in which they started; planes that have to pause do so at the end
of their step. -/
def programPause (n : Nat) (d : Dev) : Dev :=
  let x := getDie d n
  ((List.range x.programming.length).zip x.programming).foldl (fun y e =>
    modPlane e.2 (fun p => { p with paused := p.paused && pauseDue x e.1 }) y) d

/-- A plane begins a step of its program: it pauses before it where it has to. -/
def stepBegin (pid step : Nat) (d : Dev) : Dev :=
  let x := getDie d (pkDie pid)
  let due := match x.programming.findIdx? (· = pid) with
    | some i => pauseDue x i
    | none => false
  modPlane pid (fun p => { p with step := step, paused := due }) d

/-! Maintenance passes (R84, R90, R102, R103). -/

/-- One step of the 32-bit Galois LFSR with taps 80200003h. -/
def lfsrStep (x : Nat) : Nat := if x % 2 = 1 then (x / 2) ^^^ 0x80200003 else x / 2

/-- Candle codes from a seed: values 0 and 8 are drawn again. -/
def candleCodes : Nat → Nat → List Int → List Int
  | 0, _, acc => acc.reverse
  | f + 1, x, acc =>
    if acc.length = 256 then acc.reverse else
      let y := lfsrStep x
      let v := y % 16
      if v = 0 ∨ v = 8 then candleCodes f y acc
      else candleCodes f y ((if v < 8 then (v : Int) else 8 - (v : Int)) :: acc)

/-- Side sum of a candle: every block driven with shift 2. -/
def candleSum (codes : List Int) : Nat := codes.foldl (fun a x => a + 2 * x.natAbs) 0

/-- A maintenance pass without inputs yet. -/
def maintBase (kind pid pos : Nat) : PassDesc :=
  { kind := kind, plane := pid, pos := pos, mask := 0xFF, codes := [], rows := List.range 256, shifts := 0, scale := 0, s := 0
    core := 272, ticket := 0, handle := 0, rowSeg := 0, slab := 0, cols := 512, residual := false, refire := false }

/-- Seed of a position's candle; a blank check of a position without a record takes 1 (log entry 170). -/
def candleSeed (p : PlaneSt) (pos : Nat) : Nat := ((sFind p.candles pos).map fun c => c.seed.toNat).getD 1

/-- The descriptor of a maintenance pass: a candle with shift 2; a null pass, which drives no row; a self-check's pilot pass, every row
with code +1 and shift 1, S = 1,024. -/
def maintDesc (d : Dev) (r : MaintReq) : PassDesc :=
  let b := maintBase r.kind r.plane r.pos
  match r.kind with
  | 1 =>
    let codes := candleCodes 65536 (candleSeed (getPlane d r.plane) r.pos) []
    { b with codes := codes, shifts := 0xAAAA, s := candleSum codes }
  | 2 => { b with mask := 0 }
  | _ => { b with codes := List.replicate 256 1, shifts := 0x5555, s := 1024 }

/-- Take as many of the passes due as there is room for, in order. -/
def takeMaint (d : Dev) : Nat → List MaintReq → List PassDesc × List MaintReq
  | _, [] => ([], [])
  | room, q :: rest =>
    let k := min room q.left
    let t := takeMaint d (room - k) rest
    (List.replicate k (maintDesc d q) ++ t.1, if k < q.left then { q with left := q.left - k } :: rest else t.2)

/-- Passes due enter the maintenance queue, which holds 1,024, as it has room. -/
def feedMaint (n : Nat) (d : Dev) : Dev :=
  let x := getDie d n
  let r := takeMaint d (1024 - x.maintQ.length) x.maintWait
  setDie n { x with maintQ := x.maintQ ++ r.1, maintWait := r.2 } d

/-- Maintenance passes fall due on a die; one that is told to hold requests is woken for them (R29). -/
def addMaint (n : Nat) (rs : List MaintReq) (d : Dev) : Dev :=
  if rs.isEmpty then d else
    let d1 := feedMaint n (modDie n (fun x => { x with maintWait := x.maintWait ++ rs }) d)
    shareIfIdle (if domHolds d1 (349 + n) then domWake (349 + n) d1 else d1)

/-- Drop the candle passes of a plane that have not begun. -/
def dropCandles (pid : Nat) (d : Dev) : Dev :=
  let mine : PassDesc → Bool := fun p => decide (p.kind = 1 ∧ p.plane = pid)
  modDie (pkDie pid) (fun x => { x with
    maintQ := x.maintQ.filter (!mine ·), refireQ := x.refireQ.filter (!mine ·)
    maintWait := x.maintWait.filter fun r => !decide (r.kind = 1 ∧ r.plane = pid) })
    (modPlane pid (fun p => { p with candleDue := false, candleRes := [] }) d)

/-! Slots (R69–R71, R85–R87). -/

/-- What a slot has started: tiles busy, starts, and the passes begun. -/
structure SlotAcc where
  busy : List Nat
  used : Nat
  begun : List PassDesc

/-- Start passes of a queue in order while the share lasts, skipping passes whose tile is busy. -/
def startQ (share : Nat) : List PassDesc → SlotAcc → List PassDesc × SlotAcc
  | [], a => ([], a)
  | p :: r, a =>
    let t := pkTile p.plane
    if a.used < share ∧ !a.busy.contains t then
      startQ share r { busy := t :: a.busy, used := a.used + 1, begun := a.begun ++ [p] }
    else
      let q := startQ share r a
      (p :: q.1, q.2)

/-- Start at most one pass of a queue. -/
def startOne (share : Nat) : List PassDesc → SlotAcc → List PassDesc × SlotAcc
  | [], a => ([], a)
  | p :: r, a =>
    let t := pkTile p.plane
    if a.used < share ∧ !a.busy.contains t then (r, { busy := t :: a.busy, used := a.used + 1, begun := a.begun ++ [p] })
    else
      let q := startOne share r a
      (p :: q.1, q.2)

/-- Tiles of planes that take program steps, in start order. -/
def programTiles (d : Dev) (x : DieSt) : List Nat :=
  ((x.programming.filter fun p => !(getPlane d p).paused).map pkTile).dedup

/-- Give tiles a program step each while the share lasts. -/
def startSteps (share : Nat) (tiles : List Nat) (a : SlotAcc) : SlotAcc :=
  tiles.foldl (fun b t => if b.used < share ∧ !b.busy.contains t then { b with busy := t :: b.busy, used := b.used + 1 } else b) a

/-- Queued passes whose plane fires no traffic any more are held (R77, R83). -/
def holdQueued (n : Nat) (d : Dev) : Dev :=
  let x := getDie d n
  let bad : PassDesc → Bool := fun p => decide (p.kind = 0) && !firesTraffic d p.plane
  let out := (x.refireQ ++ x.trafficQ).filter bad
  if out.isEmpty then d else
    let d1 := setDie n { x with refireQ := x.refireQ.filter (!bad ·), trafficQ := x.trafficQ.filter (!bad ·) } d
    out.foldl (fun y p => match findCall y p.core p.ticket with
      | some c => let r := holdPass p (leaveBuf p c, y); setCall r.1 r.2
      | none => y) d1

/-- Count a started pass: TIL_PASS_CNT and the call's passes. -/
def countPass (p : PassDesc) (d : Dev) : Dev :=
  let d1 := { d with arr.passCnt := d.arr.passCnt + 1 }
  match findCall d1 p.core p.ticket with
  | some c => setCall { c with passes := c.passes + 1 } d1
  | none => d1

/-- One slot of a die. Program steps take their 3 slots in 4 first, then re-fires, traffic, maintenance; in the fourth slot
a tile's queued pass goes before its program step (R71). While the die checks itself no pass of a call starts (R90). -/
def dieSlot (n : Nat) (d0 : Dev) : Dev :=
  let d := programPause n (feedMaint n (holdQueued n d0))
  let x := getDie d n
  if !x.lock || x.held || x.retired then d else
    let onlyRe := decide (x.refireQ.length ≥ 4096)
    let tiles := programTiles d x
    let fourth := decide (x.slotNo % 4 = 3)
    let a0 : SlotAcc := ⟨[], 0, []⟩
    let a1 := if onlyRe || fourth then a0 else startSteps x.share tiles a0
    let r1 := startQ x.share x.refireQ a1
    let m0 := if !onlyRe && decide (x.fullSlots ≥ 1024) then startOne x.share x.maintQ r1.2 else (x.maintQ, r1.2)
    let forced := decide (m0.1.length < x.maintQ.length)
    let r2 := if onlyRe || x.checking then (x.trafficQ, m0.2) else startQ x.share x.trafficQ m0.2
    let full := decide (r2.2.used ≥ x.share ∧ x.share > 0)
    let r3 := if onlyRe then (m0.1, r2.2) else startQ x.share m0.1 r2.2
    let fin := if onlyRe || !fourth then r3.2 else startSteps x.share tiles r3.2
    let snap : PassDesc → RunPass := fun p =>
      { desc := p, corr := (getPlane d p.plane).corr, tile := getTile d (tileKey p.plane), comp := (getPlane d p.plane).comp
        slot := x.slotNo + 1, unlocked := false }
    let d1 := setDie n { x with
      refireQ := r1.1, trafficQ := r2.1, maintQ := r3.1, slotNo := x.slotNo + 1
      running := x.running ++ fin.begun.map snap
      fullSlots := if forced || !full then 0 else x.fullSlots + 1 } d
    fin.begun.foldl (fun y p => countPass p y) d1

/-- DIE_SLOT (R85). -/
def execDieSlot (d : DieIx) (s : State) : Out := run (dieSlot d) s

/-! Converter lock (R78). -/

/-- The line loses lock: every pass of the slot in progress is flagged, the queues are held, 3004h. -/
def lockLoss (n : Nat) (d : Dev) : Dev :=
  let x := getDie d n
  if !x.lock then d else
    let cur : RunPass → Bool := fun r => decide (r.slot = x.slotNo)
    raise 0x3004 3 0 (uDie n) (pay [(16, 4, (x.running.filter cur).length)])
      (setDie n { x with
        lock := false, held := true
        running := x.running.map fun r => if cur r then { r with unlocked := true } else r } d)

/-- CONVERTER_LOCK_LOSS (R78). -/
def execConverterLockLoss (d : DieIx) (s : State) : Out := run (lockLoss d) s

/-- Lock returns after us microseconds: 3005h. -/
def lockReturn (n : Nat) (us : W32) (d : Dev) : Dev :=
  let x := getDie d n
  if x.lock then d else raise 0x3005 1 0 (uDie n) (pay [(16, 4, us.toNat)]) (setDie n { x with lock := true, held := false } d)

/-- CONVERTER_LOCK_RETURN (R78). -/
def execConverterLockReturn (d : DieIx) (us : W32) (s : State) : Out := run (lockReturn d us) s

/-- No lock for over 1 ms: the die is charged and becomes Suspect (R78, R345). -/
def lockTimeout (n : Nat) (d : Dev) : Dev :=
  let x := getDie d n
  if x.lock || !x.held then d else charge 0x3004 false (uDie n) d

/-- LOCK_LOSS_TIMEOUT (R78). -/
def execLockLossTimeout (d : DieIx) (s : State) : Out := run (lockTimeout d) s

end Sys2Proof.Machine
end

