-- ==== Sys2Proof/Machine/Placement.lean ====
section
/-! DEFINITION. Placement of segments: free tile-planes, row alignment (R110), compensation (R111), programming (R118, R120),
golden store planes (R114, R115), digital entries (R81), handles (R81, R175). -/

namespace Sys2Proof.Machine

/-- An unused number below n, the device's choice among those free (log entry 20). -/
def pickFree (n : Nat) (used : Nat → Bool) (d : Dev) : Option Nat × Dev :=
  let c := Config.pick d.freeCtr % max 1 n
  let d1 := { d with freeCtr := d.freeCtr + 1 }
  (if used c then (List.range n).find? fun i => !used i else some c, d1)

/-- One of a list, the device's choice. -/
def pickOf {α : Type} (l : List α) (d : Dev) : Option α × Dev :=
  (l[Config.pick d.freeCtr % max 1 l.length]?, { d with freeCtr := d.freeCtr + 1 })

/-! Tile-planes. -/

def programsOf (d : Dev) (pid : Nat) : Nat := (getPlane d pid).programs

def dieLinked (d : Dev) (n : Nat) : Bool := let x := getDie d n; !x.retired && !x.linkDown && !x.suspect

/-- Analogue tile-planes of the device. -/
def analoguePlanes : List Nat :=
  (List.range 16).flatMap fun die => (List.range 4096).flatMap fun t => (List.range 160).map fun p => planeKey die t p

/-- Planes of the swap pool: the share of the configuration block of the 10,485,760 analogue planes, a part of a plane dropped (log
entry 25). -/
def poolPlanes (d : Dev) : Nat := cfgGet d 0x0208 0 * 10485760 / 100

/-- A plane of the swap pool: the pool takes the highest planes of every tile first (log entry 25). -/
def inPool (d : Dev) (pid : Nat) : Bool :=
  decide (pkPlane pid < 160 ∧ (159 - pkPlane pid) * 65536 + pkDie pid * 4096 + pkTile pid < poolPlanes d)

/-- A plane holds content that is no shadow. -/
def ownContent (d : Dev) (e : Nat × PlaneSt) : Bool :=
  !e.2.segs.isEmpty && decide (planeState d e.1 ≠ 4) && !(e.2.why = 2 && decide (planeState d e.1 = 1 ∨ planeState d e.1 = 2))

/-- A load leaves the capacity reserve alone: shadows apart, fewer positions hold content than are guaranteed (R64). -/
def reserveKept (d : Dev) : Bool :=
  decide ((d.arr.planes.filter (ownContent d)).foldl (fun a e => a + e.2.segs.length) 0 < 38146973)

/-- Planes without content remain for every guaranteed position not taken yet, four to a plane. -/
def planesSpare (d : Dev) : Bool := decide (d.arr.planes.countP (ownContent d) < 9536744)

/-- A program of the plane waits for one of the die's 64 places (R84). -/
def progWaits (d : Dev) (pid : Nat) : Bool := (getDie d (pkDie pid)).progWait.any fun e => e.2 = pid

/-- Free analogue planes of a die below the endurance limit, in or out of the swap pool, that no placement has taken. -/
def freeOnDie (d : Dev) (swap : Bool) (die : Nat) : List Nat :=
  if !dieLinked d die then [] else
  (List.range 4096).flatMap fun t => (List.range 160).filterMap fun p =>
    let pid := planeKey die t p
    if planeState d pid = 0 && (getPlane d pid).segs.isEmpty && inPool d pid == swap && decide (programsOf d pid < 10000) && !progWaits d pid
    then some pid else none

def freePlanes (d : Dev) (swap : Bool) : List Nat := (List.range 16).flatMap (freeOnDie d swap)

/-- Those of the lowest program count. -/
def lowestCount (d : Dev) (l : List Nat) : List Nat :=
  match l with
  | [] => []
  | p :: r =>
    let m := r.foldl (fun a x => min a (programsOf d x)) (programsOf d p)
    l.filter fun x => programsOf d x = m

/-! Row alignment (R110). -/

/-- Try to match logical row l along an augmenting path: visited physical rows and the matching physical → logical. -/
def augment (ok : Nat → Nat → Bool) : Nat → Nat → List Nat × Store Nat → Bool × List Nat × Store Nat
  | 0, _, st => (false, st)
  | f + 1, l, st =>
    (List.range 32).foldl (fun (acc : Bool × List Nat × Store Nat) p =>
      let (found, vis, m) := acc
      if found || vis.contains p || !ok l p then acc else
        match sFind m p with
        | none => (true, p :: vis, sSet m p l)
        | some l' =>
          let r := augment ok f l' (p :: vis, m)
          if r.1 then (true, r.2.1, sSet r.2.2 p l) else (false, r.2.1, m)) (false, st.1, st.2)

/-- align_block: physical row of each logical row of a block. -/
def alignBlock (ok : Nat → Nat → Bool) : List Nat :=
  let m := (List.range 32).foldl (fun m l => (augment ok 33 l ([], m)).2.2) ([] : Store Nat)
  let placed := (List.range 32).map fun l => (m.find? fun e => e.2 = l).map (·.1)
  (placed.foldl (fun (acc : List Nat × List Nat) o => match o with
    | some p => (acc.1 ++ [p], acc.2)
    | none =>
      let p := ((List.range 32).find? fun x => !(m.any fun e => e.1 = x) && !acc.2.contains x).getD 0
      (acc.1 ++ [p], p :: acc.2)) ([], [])).1

/-- Programmed weight of a segment at logical row r and column c. -/
def segWeight (d : Dev) (s : SegRef) (r c : Nat) : Int :=
  let h := getHandle d s.handle
  sGet 0 h.golden ((s.rowSeg * h.colSlabs + s.colSlab) * 131072 + r * 512 + c)

/-- A stuck-off cell does no harm under a weight. -/
def harmless (x : Defect) (w : Int) : Bool := x.stuckOn || (if x.side then decide (w ≥ 0) else decide (w ≤ 0))

/-- Permutations of a position for the plane's known defects. -/
def alignPosition (d : Dev) (p : PlaneSt) (pos : Nat) (s : SegRef) : List (Nat × List Nat) :=
  (List.range 8).map fun b =>
    let ds := p.defects.filter fun x => decide (x.row / 32 = pos * 8 + b ∧ x.pair < 512)
    (pos * 8 + b, alignBlock fun l r => (ds.filter fun x => x.row % 32 = r).all fun x =>
      harmless x (segWeight d s (32 * b + l) x.pair))

/-- Compensation entries a plane needs (R111): stuck-on cells its programmed state has off, stuck-off cells under a weight
that needs them. -/
def compNeeded (d : Dev) (p : PlaneSt) : List CompEnt :=
  p.defects.filterMap fun x =>
    if x.pair ≥ 512 then none else
      let pos := x.row / 256
      match sFind p.segs pos with
      | none => none
      | some s =>
        let r := x.row % 256
        let l := ((List.range 256).find? fun n => physRow p pos n = r).getD r
        let w := segWeight d s l x.pair
        if x.stuckOn then
          (if x.side then (if w ≥ 0 then some ⟨r, x.pair, true, true, pos⟩ else none)
           else (if w ≤ 0 then some ⟨r, x.pair, false, true, pos⟩ else none))
        else if harmless x w then none
        else some ⟨r, x.pair, !x.side, false, pos⟩

/-- Stuck-on cells in data pairs (R112). -/
def stuckOnData (p : PlaneSt) : Nat := p.defects.countP fun x => x.stuckOn && decide (x.pair < 512)

/-- Pilot pairs that hold a defect are masked (R101). -/
def pilotMaskOf (p : PlaneSt) : W8 :=
  p.defects.foldl (fun m x => if x.pair ≥ 512 then m ||| (1 <<< (x.pair - 512)) else m) 0

/-- Too few unmasked pilots to track the plane (R101). -/
def untrackable (m : W8) : Bool :=
  decide (((List.range 4).filter fun q => !m.getLsbD q).length < 2) || (m.getLsbD 6 && m.getLsbD 7)

/-! Permutation tables (R110). -/

/-- A position has a permutation in use. -/
def hasPerm (p : PlaneSt) (pos : Nat) : Bool := p.perms.any fun e => e.1 / 8 = pos

/-- The 160-byte table of a position: 8 blocks of 32 entries of 5 bits, the physical row that carries a logical row. -/
def permTable (p : PlaneSt) (pos : Nat) : Bytes :=
  toLe 160 ((List.range 256).foldl (fun a n => a + physRow p pos n % 32 * 2 ^ (5 * n)) 0)

/-- A plane's tables leave the die's permutation area. -/
def permDrop (pid : Nat) (d : Dev) : Dev :=
  let p := getPlane d pid
  modDie (pkDie pid) (fun x => { x with permTabs := p.permAt.foldl (fun m e => sDel m e.2) x.permTabs })
    (setPlane pid { p with permAt := [] } d)

/-- Write the table of each permuted position of a plane at the lowest unused index of the area. -/
def permWrite (pid : Nat) (d : Dev) : Dev :=
  ((List.range 4).filter (hasPerm (getPlane d pid))).foldl (fun x pos =>
    let tabs := (getDie x (pkDie pid)).permTabs
    let i := ((List.range (tabs.length + 1)).find? fun n => (sFind tabs n).isNone).getD tabs.length
    modDie (pkDie pid) (fun y => { y with permTabs := sSet y.permTabs i (permTable (getPlane x pid) pos) })
      (modPlane pid (fun p => { p with permAt := sSet p.permAt pos i }) x)) (permDrop pid d)

/-- Write the tables of every plane again at their indices, from the golden-store metadata (R110, R113). -/
def permRestore (d : Dev) : Dev :=
  d.arr.planes.foldl (fun x e => e.2.permAt.foldl (fun y a =>
    modDie (pkDie e.1) (fun z => { z with permTabs := sSet z.permTabs a.2 (permTable e.2 a.1) }) y) x) d

/-- Align a plane's positions for its defects and write their tables. -/
def alignPlane (pid : Nat) (d : Dev) : Dev :=
  let tables : PlaneSt → Store (List Nat) := fun p =>
    (p.segs.flatMap fun e => alignPosition d p e.1 e.2).foldl (fun m x => if x.2 = List.range 32 then m else sSet m x.1 x.2) []
  permWrite pid (modPlane pid (fun p => { p with perms := tables p }) d)

/-- The perm bit and table index of an analogue entry, as its plane has them (R81). -/
def permEnt (d : Dev) (e : MapEnt) : MapEnt :=
  if e.digital then e else
    let p := getPlane d e.loc
    { e with perm := hasPerm p e.pos, digPage := if hasPerm p e.pos then BitVec.ofNat 32 (sGet 0 p.permAt e.pos) else 0 }

/-- Content fits a plane: aligned for its defects it leaves at most 64 compensation entries, and the die's pool has room for them
(R112). -/
def contentFits (d : Dev) (pid : Nat) (segs : Store SegRef) : Bool :=
  let x := alignPlane pid (modPlane pid (fun p => { p with segs := segs }) d)
  let n := (compNeeded x (getPlane x pid)).length
  decide (stuckOnData (getPlane d pid) ≤ 64 ∧ n ≤ 64
    ∧ (getDie d (pkDie pid)).compUsed - (getPlane d pid).comp.length + n ≤ 4194304)

/-! Programming. -/

/-- Start to program a plane: state Programming, work of its die (R118, R120); a candle check of it that is due is dropped (R105). A
die takes 64 planes at once, others wait (R84). why: 0 load or move, 1 refresh in place, 2 shadow, 3 swap-in. -/
def startProgram (why pid : Nat) (d : Dev) : Dev :=
  let die := pkDie pid
  if planeState d pid = 7 then d
  else if (getDie d die).programming.length ≥ 64 then
    (if progWaits d pid then d else modDie die (fun x => { x with progWait := x.progWait ++ [(why, pid)] }) d)
  else
    let d1 := modPlane pid (fun p => { p with why := why }) (dropCandles pid (planeTo 1 1 pid d))
    shareIfIdle (stepBegin pid 1 (modDie die (fun x => { x with programming := x.programming ++ [pid] }) d1))

/-- A plane leaves Programming or Verifying, or the wait for it; the next one that waits starts. -/
def stopProgram (pid : Nat) (d : Dev) : Dev :=
  let die := pkDie pid
  let d1 := programPause die (modDie die (fun x => { x with
      programming := x.programming.filter (· ≠ pid), progWait := x.progWait.filter fun e => e.2 ≠ pid })
    (modPlane pid (fun p => { p with step := 0, paused := false }) d))
  match (getDie d1 die).progWait.filter fun e => decide (planeState d1 e.2 ≠ 7) with
  | [] => d1
  | (why, q) :: rest =>
    if (getDie d1 die).programming.length ≥ 64 then d1 else startProgram why q (modDie die (fun x => { x with progWait := rest }) d1)

/-- Empty a plane and set it Free; at 10,000 programs it is retired (endurance table). -/
def freePlane (pid : Nat) (d : Dev) : Dev :=
  let n := (getPlane d pid).comp.length
  let d1 := modDie (pkDie pid) (fun x => { x with compUsed := x.compUsed - n }) (permDrop pid (dropCandles pid (stopProgram pid d)))
  let d2 := planeTo 1 0 pid (modPlane pid (fun p => { p with segs := [], perms := [], comp := [], candles := [] }) d1)
  -- at its endurance limit the plane is retired as its content leaves
  if programsOf d2 pid ≥ 10000 then retire 0 0x3003 (uPlane pid) d2 else d2

/-! Golden store planes 160–197 of a tile (R113–R115). A codeword's key is plane × 128 + codeword. -/

def storePlanes (pid : Nat) : List Nat := (List.range 38).map fun i => planeKey (pkDie pid) (pkTile pid) (160 + i)

/-- The plane of spare codewords of a tile (log entry 172). -/
def sparePlane (pid : Nat) : Nat := planeKey (pkDie pid) (pkTile pid) 199

/-- Quintet bytes of a segment's golden weights, row-major; digits beyond weight 131,071 hold weight 0 (R114). -/
def segPayload (golden : Store Int) (seg : Nat) : Bytes :=
  (List.range 26215).map fun i => BitVec.ofNat 8 ((List.range 5).foldl (fun a n =>
    let k := 5 * i + n
    a + ((if k < 131072 then sGet 0 golden (seg * 131072 + k) else 0) + 1).toNat * 3 ^ n) 0)

/-- The 32-byte header of a segment's golden record (R114). -/
def goldenHeader (h : HandleEnt) (seg : Nat) : Bytes :=
  toLe 2 h.model.toNat ++ toLe 2 h.gen.toNat ++ toLe 2 (seg / max 1 h.colSlabs) ++ toLe 2 (seg % max 1 h.colSlabs)
    ++ toLe 2 (Config.crc16 (segPayload h.golden seg)).toNat ++ List.replicate 22 0

/-- A record can be read: no byte of its payload is 243–255 (R114). -/
def recordReads (payload : Bytes) : Bool := payload.all fun b => decide (b.toNat ≤ 242)

/-- Valid codewords of a store plane, with the handle and segment of each. -/
def codewordsOn (d : Dev) (p : Nat) : List Nat :=
  d.arr.handles.flatMap fun h => h.2.goldenAt.flatMap fun e => e.2.filter fun c => c / 128 = p

/-- Codewords of golden records move: each key in the map takes its new one. -/
def moveCodewords (m : Store Nat) (d : Dev) : Dev :=
  { d with arr.handles := d.arr.handles.map fun h =>
      (h.1, { h.2 with goldenAt := h.2.goldenAt.map fun e => (e.1, e.2.map fun c => (sFind m c).getD c) }) }

/-- A store plane whose valid codewords fall below half of those written is compacted into the free store plane with the lowest
program count (R115; log entry 173); at 1,000 programs it is retired. -/
def storeCompact (pid : Nat) (d : Dev) : Dev :=
  (storePlanes pid).foldl (fun x p =>
    let s := getPlane x p
    if s.storeUsed = 0 || decide (2 * s.storeValid ≥ s.storeUsed) || planeState x p ≠ 8 then x else
      let frees := (storePlanes pid).filter fun q => q ≠ p && (getPlane x q).storeUsed = 0 && planeState x q = 8
        && decide (programsOf x q < 1000)
      match pickOf (lowestCount x frees) x with
      | (none, y) => y
      | (some q, y) =>
        let cs := codewordsOn y p
        let y1 := moveCodewords (cs.zip ((List.range cs.length).map (q * 128 + ·))) y
        let y2 := modPlane q (fun t => { t with storeUsed := cs.length, storeValid := cs.length }) y1
        let y3 := modPlane p (fun t => { t with storeUsed := 0, storeValid := 0, spares := [], programs := t.programs + 1 }) y2
        -- a store plane at its endurance limit takes no further write
        if programsOf y3 p ≥ 1000 then retire 0 0x3003 (uPlane p) y3 else y3) d

/-- Codewords of a tile not written since their plane was last erased, in order. -/
def storeFree (d : Dev) (pid : Nat) : List Nat :=
  (storePlanes pid).flatMap fun p => if planeState d p ≠ 8 then [] else
    let used := (getPlane d p).storeUsed
    (List.range (117 - used)).map fun i => p * 128 + used + i

/-- Seven codewords for a record on a tile. -/
def storeRoom (d : Dev) (pid : Nat) : Option (List Nat) :=
  let l := (storeFree d pid).take 7
  if l.length = 7 then some l else none

/-- A codeword is written, or no longer valid. -/
def codewordIn (c : Nat) (d : Dev) : Dev := modPlane (c / 128) (fun s => { s with storeUsed := s.storeUsed + 1, storeValid := s.storeValid + 1 }) d
def codewordOut (c : Nat) (d : Dev) : Dev :=
  modPlane (c / 128) (fun s => { s with storeValid := s.storeValid - 1, spares := sDel s.spares (c % 128) }) d

/-- Write a segment's golden record, 7 codewords, on the tile of a plane, or where that is full on the lowest tile of its die
with room (R114, R115). Below 38 V the write is deferred (R381). -/
def storeWrite (handle seg pid : Nat) (d : Dev) : Dev :=
  if d.pwr.vinLow then { d with arr.goldenWait := d.arr.goldenWait ++ [(handle, seg, pid)] } else
    match (match storeRoom d pid with
      | some l => some l
      | none => (List.range 4096).findSome? fun t => storeRoom d (planeKey (pkDie pid) t 160)) with
    | none => d
    | some l =>
      let d1 := l.foldl (fun x c => codewordIn c x) d
      let h := getHandle d1 handle
      setHandle handle { h with goldenAt := sSet h.goldenAt seg l, goldenHdr := sSet h.goldenHdr seg (goldenHeader h seg) } d1

/-- Codewords become invalid, and the tiles that held them are compacted where they have to be. -/
def storeDrop (l : List Nat) (d : Dev) : Dev :=
  (l.map (· / 128)).eraseDups.foldl (fun x p => storeCompact p x) (l.foldl (fun x c => codewordOut c x) d)

/-- Release a segment's golden record. -/
def storeRelease (handle seg : Nat) (d0 : Dev) : Dev :=
  let d := { d0 with arr.goldenWait := d0.arr.goldenWait.filter fun w => w.1 ≠ handle || w.2.1 ≠ seg }
  let h := getHandle d handle
  match sFind h.goldenAt seg with
  | none => d
  | some l => storeDrop l (setHandle handle { h with goldenAt := sDel h.goldenAt seg, goldenHdr := sDel h.goldenHdr seg } d)

/-- The golden record of a segment follows its primary analogue copy to another die: written there before the old one is released
(R115). -/
def storeMove (handle seg pid : Nat) (d : Dev) : Dev :=
  match sFind (getHandle d handle).goldenAt seg with
  | none => d
  | some old =>
    if old.all (fun c => pkDie (c / 128) = pkDie pid) || d.pwr.vinLow then d else
      let d1 := storeWrite handle seg pid d
      if sFind (getHandle d1 handle).goldenAt seg = some old then d1 else storeDrop old d1

/-- A codeword is written again: in a spare codeword of the tile, which replaces it, or where none is left at the end of an open store
plane (R113, R116; log entry 172). -/
def codewordRewrite (c : Nat) (d : Dev) : Dev :=
  let pid := c / 128
  let used := ((storePlanes pid).flatMap fun p => (getPlane d p).spares.map (·.2))
  match ((List.range 117).map (sparePlane pid * 128 + ·)).find? fun s => !used.contains s with
  | some s => modPlane pid (fun p => { p with spares := sSet p.spares (c % 128) s }) d
  | none => match storeFree d pid with
    | n :: _ => codewordOut c (codewordIn n (moveCodewords [(c, n)] d))
    | [] => d

/-- Writes that waited for the input voltage go on (R381). -/
def storeResume (d : Dev) : Dev :=
  let d1 := d.arr.goldenWait.foldl (fun x w => storeWrite w.1 w.2.1 w.2.2 x) { d with arr.goldenWait := [] }
  d1.arr.rewrites.foldl (fun x c => codewordRewrite c x) { d1 with arr.rewrites := [] }

/-! Segments of a new generation. -/

/-- Open planes of a placement in progress: plane, positions used, layers. -/
abbrev OpenPlanes := List (Nat × Nat × List Nat)

/-- Expected passes of the die of a plane: the segments it holds, those of the placement in progress among them (R229; log entry 191). -/
def onDie (d : Dev) (pid : Nat) : Nat :=
  (d.arr.planes.filter fun e => decide (pkDie e.1 = pkDie pid) && ownContent d e).foldl (fun a e => a + e.2.segs.length) 0

/-- Those on the dies with the fewest expected passes. -/
def leastLoaded (d : Dev) (l : List Nat) : List Nat :=
  match l with
  | [] => []
  | p :: r =>
    let m := r.foldl (fun a x => min a (onDie d x)) (onDie d p)
    l.filter fun x => onDie d x = m

/-- Place one segment (R229, R112): into a plane opened by this placement on a tile without the layer; else into a Free plane on such
a tile; else into any opened plane with room; else into any Free plane. Free planes are taken outside the reserve, lowest program count
first, then on the die with the fewest expected passes, and only where the content fits. -/
def placeSeg (swap : Bool) (layer : Nat) (s : SegRef) (st : Option OpenPlanes × Dev) : Option (Nat × Nat) × Option OpenPlanes × Dev :=
  match st.1 with
  | none => (none, none, st.2)
  | some op =>
    let d := st.2
    let tileHas : Nat → Bool := fun pid => op.any fun o => tileKey o.1 = tileKey pid && o.2.2.contains layer
    let fits : Nat → Nat → Bool := fun pid pos => contentFits d pid (sSet (getPlane d pid).segs pos s)
    let room := (op.filter fun o => decide (o.2.1 < 4) && fits o.1 o.2.1).map (·.1)
    let free := ((freePlanes d swap).filter fun p => !(op.any fun o => o.1 = p)).filter fun p => fits p 0
    let choose : List Nat → List Nat := fun l => leastLoaded d (lowestCount d l)
    let fresh_ := free.filter fun p => !tileHas p
    let joined := room.filter fun p => !tileHas p
    let cand :=
      if !joined.isEmpty then leastLoaded d joined
      else if (swap || planesSpare d) && !fresh_.isEmpty then choose fresh_
      else if !room.isEmpty then leastLoaded d room
      else if swap || reserveKept d then choose free else []
    match pickOf cand d with
    | (none, d1) => (none, none, d1)
    | (some p, d1) =>
      let pos := ((op.find? fun o => o.1 = p).map fun o => o.2.1).getD 0
      let op' := if pos = 0 then (p, 1, [layer]) :: op
        else op.map fun x => if x.1 = p then (x.1, x.2.1 + 1, layer :: x.2.2) else x
      (some (p, pos), some op', modPlane p (fun x => { x with segs := sSet x.segs pos s }) d1)

def segIndex (h : HandleEnt) (s : SegRef) : Nat := s.rowSeg * h.colSlabs + s.colSlab

def colsM1Of (h : HandleEnt) (j : Nat) : Nat := if j + 1 = h.colSlabs then h.lastColsM1 else 511

/-- Tile-map entry of a segment on a plane. -/
def analogEnt (d : Dev) (h : HandleEnt) (s : SegRef) (pid pos : Nat) : MapEnt :=
  permEnt d { loc := pid, pos := pos, rowSeg := s.rowSeg, colSlab := s.colSlab, colsM1 := colsM1Of h s.colSlab }

/-- Digital tile-map entry of a segment, on a logical core of the device's choice. -/
def digitalEnt (h : HandleEnt) (i j : Nat) (d : Dev) : MapEnt × Dev :=
  ({ loc := Config.pick d.freeCtr % 256, digital := true, rowSeg := i, colSlab := j, colsM1 := colsM1Of h j
     digPage := Config.freeBits d.freeCtr 32 }, { d with freeCtr := d.freeCtr + 1 })

/-- Digital entries for every segment of a handle. -/
def digitalList (h : HandleEnt) (d : Dev) : List MapEnt × Dev :=
  (List.range (h.rowSegs * h.colSlabs)).foldl (fun (acc : List MapEnt × Dev) n =>
    let r := digitalEnt h (n / max 1 h.colSlabs) (n % max 1 h.colSlabs) acc.2
    (acc.1 ++ [r.1], r.2)) ([], d)

def curList (h : HandleEnt) : List MapEnt := if h.listSel then h.list1 else h.list0

/-- A call in flight resolved a list that names a plane. -/
def planeInUse (d : Dev) (pid : Nat) : Bool :=
  d.arr.calls.any fun c => c.list.any fun e => !e.digital && e.loc = pid

/-- Handles whose current list names a plane, with the segments there. -/
def handlesOn (d : Dev) (pid : Nat) : List Nat :=
  (d.arr.handles.filter fun h => (curList h.2).any fun e => !e.digital && e.loc = pid).map (·.1)

/-- Flip every handle on a plane to another plane, position by position. -/
def flipPlane (old new_ : Nat) (d : Dev) : Dev :=
  (handlesOn d old).foldl (fun x i =>
    let h := getHandle x i
    flipHandle i ((curList h).map fun e => if !e.digital && e.loc = old then permEnt x { e with loc := new_ } else e) x) d

/-- Golden records follow the primary copies that serve (R115). -/
def goldenFollow (d : Dev) : Dev :=
  d.arr.handles.foldl (fun x h => h.2.goldenAt.foldl (fun y g =>
    match (curList h.2)[g.1]? with
    | some e => if !e.digital && e.valid && decide (planeState y e.loc = 3) then storeMove h.1 g.1 e.loc y else y
    | none => y) x) d

/-- Flip every segment on a plane to digital entries (R117, R83). -/
def flipDigital (old : Nat) (d : Dev) : Dev :=
  (handlesOn d old).foldl (fun x i =>
    let h := getHandle x i
    let r := (curList h).foldl (fun (acc : List MapEnt × Dev) e =>
      if !e.digital && e.loc = old then let y := digitalEnt h e.rowSeg e.colSlab acc.2; (acc.1 ++ [y.1], y.2)
      else (acc.1 ++ [e], acc.2)) ([], x)
    flipHandle i r.1 r.2) d

end Sys2Proof.Machine
end

