-- ==== Sys2Proof/Machine/PolicyOps.lean ====
section
/-! DEFINITION. Recipes in force and policy hooks: current recipe (R135), switches (R136), hook queues (R137), refusals
(2011h, 2012h). -/

namespace Sys2Proof.Machine

def keyModel (lk : Nat) : W16 := BitVec.ofNat 16 (lk / 2 ^ 32)
def keyGen (lk : Nat) : W16 := BitVec.ofNat 16 (lk / 2 ^ 16)
def keyLayer (lk : Nat) : W16 := BitVec.ofNat 16 lk

def currentRecipe (d : Dev) (lk : Nat) : Nat := (sGet 0 d.num.current lk).toNat
def recipeOf (d : Dev) (lk idx : Nat) : Option Recipe := sFind d.num.listed (lk * 16 + idx)
/-- The settings a layer runs under; a layer without records runs with the defaults of the record. -/
def recipeNow (d : Dev) (lk : Nat) : Recipe := (recipeOf d lk (currentRecipe d lk)).getD {}

/-- A hint record of a kind covers a layer of a generation (R242). -/
def hintCovers (h : Bytes) (kind : Nat) (m g layer : W16) : Bool :=
  fld h 0 1 = kind && fld h 2 2 = m.toNat && (fld h 4 2 = 0 || fld h 4 2 = g.toNat) && (fld h 6 2 = 0xFFFF || fld h 6 2 = layer.toNat)
def hinted (d : Dev) (kind : Nat) (m g layer : W16) : Bool := d.plc.hints.any fun h => hintCovers h kind m g layer
/-- A hint of a kind covers some layer of a generation. -/
def hintedModel (d : Dev) (kind : Nat) (m g : W16) : Bool :=
  d.plc.hints.any fun h => fld h 0 1 = kind && fld h 2 2 = m.toNat && (fld h 4 2 = 0 || fld h 4 2 = g.toNat)
/-- Every affinity hint on a layer allows the die. -/
def dieAllowed (d : Dev) (m g layer : W16) (n : Nat) : Bool := d.plc.hints.all fun h => !hintCovers h 1 m g layer || bitAt (fld h 8 2) n

/-- A layer is served by digital entries, or is to be: under its recipe, or under a keep-digital hint (R136, R242). -/
def layerDigital (d : Dev) (lk : Nat) : Bool :=
  (recipeNow d lk).exec = 1 || hinted d 2 (keyModel lk) (keyGen lk) (keyLayer lk) || match sFind d.num.pending lk with
    | some r => ((recipeOf d lk r.idx.toNat).map (·.exec)) == some 1
    | none => false

/-- Owner of a model generation. -/
def ownerOf (d : Dev) (lk : Nat) : Nat := ((getGen d (keyModel lk) (keyGen lk)).map (·.owner)).getD 0

/-- A NUM event of a layer with the device as its unit. -/
def layerNum (code : W16) (sev : W8) (lk : Nat) (fs : List (Nat × Nat × Nat)) (d : Dev) : Dev :=
  raiseNum ⟨code, keyModel lk, keyLayer lk⟩ sev (ownerOf d lk) uDevice
    (pay ([(16, 2, lk / 2 ^ 32), (18, 2, lk / 2 ^ 16), (20, 2, lk)] ++ fs)) d

/-- A switch is refused: 2011h. Reasons: 1 not listed, 2 generation retiring, 3 no digital entries. -/
def refuseSwitch (lk idx reason : Nat) (d : Dev) : Dev :=
  layerNum 0x2011 2 lk [(22, 1, idx), (23, 1, reason)]
    { d with num.policy.refused := BitVec.ofNat 16 (satAdd 16 d.num.policy.refused.toNat 1) }

/-- The recipe policy program runs; the admission program runs (R137, R273). -/
def policyRuns (d : Dev) : Bool := let p := d.num.policy; p.enable && p.loaded && !p.disabled
def admitRuns (d : Dev) : Bool := let p := d.srv.adm; p.enable && p.loaded && !p.disabled

/-- Queue a hook of the recipe policy program; beyond 4,096 the oldest are dropped with 2012h kind 2. -/
def pushHook (h : HookCall) (d : Dev) : Dev :=
  if !policyRuns d then d else
    let q := d.num.policy.queue ++ [h]
    let n := q.length - 4096
    let d1 := { d with num.policy.queue := q.drop n }
    if n = 0 then d1 else raiseNum ⟨0x2012, 0, 0⟩ 3 0 uDevice (pay [(16, 1, 2), (20, 4, n)]) d1

/-- Event of the admission program: kinds 1 abort, 2 drop, 3 disabled, 4 report. -/
def admitEvent (kind code count : Nat) (payload : W64) (d : Dev) : Dev :=
  raiseNum ⟨0xB003, 0, 0⟩ 3 0 uDevice (pay [(16, 1, kind), (17, 1, code), (20, 4, count), (24, 8, payload.toNat)]) d

/-- A context stops waiting for the admission program. -/
def admitCtx (i : Nat) (d : Dev) : Dev := modCtx i (fun c => { c with awaitHook := false }) d

/-- Queue a hook of the admission program; a dropped on_accept admits its request (R273). -/
def pushAdmitHook (h : HookCall) (d : Dev) : Dev :=
  if !admitRuns d then d else
    let q := d.srv.adm.queue ++ [h]
    let n := q.length - 4096
    let d1 := (q.take n).foldl (fun x c => if c.hook = 3 then admitCtx c.arg x else x) { d with srv.adm.queue := q.drop n }
    if n = 0 then d1 else admitEvent 2 0 n 0 d1

/-- Handles of a layer, and its segments. -/
def layerHandles (d : Dev) (lk : Nat) : List Nat :=
  match getGen d (keyModel lk) (keyGen lk) with
  | some g => g.handles.filter fun i => (getHandle d i).layer = keyLayer lk
  | none => []

/-- Segments whose golden copies stand decompressed in a tenant's region: those with digital entries, and every one of a swappable model,
which stay while it is resident (R241). -/
def stagedSegs (d : Dev) (t : Nat) : Nat :=
  d.arr.handles.foldl (fun a h =>
    if h.2.tenant ≠ t then a
    else if (getGen d h.2.model h.2.gen).any (·.swappable) then a + (curList h.2).length
    else a + (curList h.2).countP (·.digital)) 0

/-- HBM that images declare: resident generations, prefixes, adapter sets of a tenant (R228). -/
def imageUsed (d : Dev) (t : Nat) : Nat :=
  let gens := ((d.plc.gens.map (·.2)).filter fun g => decide (1 ≤ g.state ∧ g.state ≤ 5)).foldl (fun a g => if g.owner = t then a + g.hbmBytes else a) 0
  let pre := d.att.prefixes.foldl (fun a p => if p.2.tenant = t then a + p.2.hbmBytes else a) gens
  d.att.adapters.foldl (fun a p => if p.2.tenant = t then a + p.2.hbmBytes else a) pre

/-- Partials of a tenant's attention calls in its staging area: those that another pipeline than the lead made, 4D + 8 B for a row and head
(R198). -/
def partialUsed (d : Dev) (t : Nat) : Nat :=
  d.att.calls.foldl (fun a x => match getCtx d x.ctx with
    | some c => if c.tenant ≠ t then a else
        x.parts.foldl (fun b e => if sGet e.2.pipe x.leads (e.1 / 256) = e.2.pipe then b else b + 4 * e.2.t.o.length + 8) a
    | none => a) 0

/-- Histories of a tenant's contexts: extents of 64 KiB (R248). -/
def historyUsed (d : Dev) (t : Nat) : Nat := d.srv.ctxs.foldl (fun a c => if c.2.tenant = t then a + 65536 * c.2.extents.length else a) 0

/-- HBM of a tenant's region in use outside its key–value area. -/
def hbmTaken (d : Dev) (t : Nat) : Nat := imageUsed d t + 32768 * stagedSegs d t + partialUsed d t + historyUsed d t
/-- HBM of a tenant's region outside its key–value area. -/
def hbmRoom (d : Dev) (t : Nat) : Nat := regionSize d t - regionSize d t * cfgGet d 0x0303 t / 100
/-- n more segments of 32 KiB fit in a tenant's staging (log entry 28). -/
def stagingRoom (d : Dev) (t n : Nat) : Bool := decide (hbmTaken d t + 32768 * n ≤ hbmRoom d t)

/-- Placement can give every segment of a layer a digital entry. -/
def layerRoom (d : Dev) (lk : Nat) : Bool :=
  let n := (layerHandles d lk).foldl (fun a i => a + (curList (getHandle d i)).countP (!·.digital)) 0
  stagingRoom d (ownerOf d lk) n

/-- Put a layer on digital entries. -/
def layerToDigital (lk : Nat) (d : Dev) : Dev :=
  (layerHandles d lk).foldl (fun x i => let y := digitalList (getHandle x i) x
                                        flipHandle i y.1 y.2) d

/-- Lists that go back from digital entries to a plane's segments; those of layers that run, or are to run, digital stay (R136). -/
def flipFromDigital (pid : Nat) (d : Dev) : Dev :=
  let p := getPlane d pid
  let free : Nat → Bool := fun i => let h := getHandle d i
                                    !layerDigital d (layerKey h.model h.gen h.layer)
  (((p.segs.map fun s => s.2.handle).eraseDups).filter free).foldl (fun x i =>
    let h := getHandle x i
    let mine := p.segs.filter fun s => s.2.handle = i
    flipHandle i ((curList h).map fun e => match mine.find? fun s => s.2.rowSeg = e.rowSeg && s.2.colSlab = e.colSlab with
      | some s => analogEnt x h s.2 pid s.1
      | none => e) x) d

/-- Put a layer back on its analogue planes. -/
def layerToArray (lk : Nat) (d : Dev) : Dev :=
  let hs := layerHandles d lk
  (d.arr.planes.filter fun p => decide (planeState d p.1 = 3) && p.2.segs.any fun s => hs.contains s.2.handle).foldl
    (fun x p => flipFromDigital p.1 x) d

/-- A layer that neither is nor is to be digital goes back to its planes. -/
def settleLists (lk : Nat) (d : Dev) : Dev :=
  if !layerDigital d lk && (layerHandles d lk).any fun i => (curList (getHandle d i)).any (·.digital) then layerToArray lk d else d

/-- Take a switch into force as the layer next begins: 2010h; a layer that leaves exec = 1 goes back to the array. -/
def applySwitch (lk : Nat) (r : SwitchReq) (d : Dev) : Dev :=
  let old := currentRecipe d lk
  let d1 := { d with
    num.current := sPut 0 d.num.current lk r.idx, num.pending := sDel d.num.pending lk
    num.policy.switches := BitVec.ofNat 16 (satAdd 16 d.num.policy.switches.toNat 1), num.flaggedRuns := sDel d.num.flaggedRuns lk }
  settleLists lk (layerNum 0x2010 1 lk [(22, 1, old), (23, 1, r.idx.toNat), (24, 1, r.source)] d1)

/-- A layer begins: a switch that waits for nothing comes into force (R136). -/
def layerBegins (lk : Nat) (d : Dev) : Dev := match sFind d.num.pending lk with
  | some r => if r.waitEpochs.isNone then applySwitch lk r d else d
  | none => d

/-- What a switch would be answered: 0 accepted, 1 pending until digital entries are there, 2 refused with its reason. A generation the
device does not know is refused as one that is retiring (log entry 183). -/
def switchVerdict (lk idx : Nat) (d : Dev) : Nat × Nat :=
  let live := match getGen d (keyModel lk) (keyGen lk) with
    | some g => decide (1 ≤ g.state ∧ g.state ≤ 4)
    | none => false
  if !live then (2, 2) else
    match recipeOf d lk idx with
    | none => (2, 1)
    | some r => if r.exec = 1 ∧ (recipeNow d lk).exec ≠ 1 ∧ !layerRoom d lk then (1, 0) else (0, 0)

/-- Request a switch (R136), with the answer given. -/
def requestSwitch (lk idx source : Nat) (d : Dev) : Nat × Dev :=
  let v := switchVerdict lk idx d
  let put : Option Nat → Dev → Dev := fun w x => { x with num.pending := sSet x.num.pending lk ⟨BitVec.ofNat 8 idx, source, w⟩ }
  match v.1 with
  | 2 => (2, refuseSwitch lk idx v.2 d)
  | 1 => (1, put (some 2) d)
  | _ =>
    let toDigital := ((recipeOf d lk idx).map (·.exec)) == some 1 && decide ((recipeNow d lk).exec ≠ 1)
    (0, if toDigital then layerToDigital lk (put none d) else settleLists lk (put none d))

/-- A plan withdraws the digital entries of a layer: a switch to exec = 1 that waits is refused, the layer stays on its recipe. -/
def switchWithdrawn (lk : Nat) (d : Dev) : Dev :=
  match sFind d.num.pending lk with
  | none => d
  | some r =>
    if ((recipeOf d lk r.idx.toNat).map (·.exec)) ≠ some 1 then d
    else refuseSwitch lk r.idx.toNat 3 { d with num.pending := sDel d.num.pending lk }

end Sys2Proof.Machine
end

