-- ==== Sys2Proof/Machine/ModelOps.lean ====
section
/-! DEFINITION. Generations and loads: state changes and their events (R231–R236, R243), completion of model commands (R289),
capacity (R228), discards, the real pass of drain-and-replace (R235), building a decoded image (R229, R237). -/

namespace Sys2Proof.Machine

/-- Raise a LOAD event (R243). -/
def loadEv (code : W16) (sev : W8) (owner : Nat) (m g : W16) (fs : List (Nat × Nat × Nat)) (d : Dev) : Dev :=
  raise code sev owner uDevice (pay ([(16, 2, m.toNat), (18, 2, g.toNat)] ++ fs)) d

/-! Model commands (R289, R364). -/

/-- Write the entry of a command, or the final response of a management command with the 32-byte entry as its data. -/
def cmdEnd (o : Origin) (status : W16) (m g : W16) (d : Dev) : Dev :=
  match o with
  | .host fn sq e => sendCommandEntry fn sq (eTag e) status m.toNat g.toNat d
  | .mgmt sid id => reply (some sid) 0x0010 id status true (commandEntry 0 status m.toNat g.toNat 0 ++ [0]) d
  | .peer _ => d

/-- End the outstanding commands that satisfy p. -/
def endCmds (p : ModelCmd → Bool) (status : W16) (d : Dev) : Dev :=
  (d.plc.cmds.filter p).foldl (fun x c => cmdEnd c.origin status c.model c.gen x)
    { d with plc.cmds := d.plc.cmds.filter fun c => !p c }

/-! Generation states. -/

/-- Handle state of a generation state (R231): 3 and 4 active, 5 retiring, else invalid. -/
def handleStateOf (g : Nat) : Nat := match g with
  | 3 | 4 => 1
  | 5 => 2
  | _ => 0

/-- Change a generation's state: its handles follow, 9007h. -/
def genTo (m g : W16) (new_ cause : Nat) (d : Dev) : Dev :=
  match getGen d m g with
  | none => d
  | some x =>
    let d1 := setGen m g { x with state := new_, retireCause := if new_ = 5 then cause else x.retireCause } d
    let d2 := x.handles.foldl (fun y i => setHandle i { getHandle y i with state := handleStateOf new_ } y) d1
    joinRefresh (loadEv 0x9007 1 x.owner m g [(20, 1, x.state), (21, 1, new_), (22, 1, cause)] d2)

/-- Requests pinned to a generation. -/
def pinned (d : Dev) (m g : W16) : Nat :=
  d.srv.ctxs.countP fun c => c.2.model = m && c.2.gen = g && decide (2 ≤ c.2.state ∧ c.2.state ≤ 5)

/-- No generation of the model in Loading to Retiring. -/
def modelEmpty (d : Dev) (m : W16) : Bool := (genIn d m 1 5).isNone

/-- Drop a generation's segments from its planes; planes left empty become Free, their refresh is abandoned (R119). -/
def genFreePlanes (hs : List Nat) (d : Dev) : Dev :=
  let on := d.arr.planes.filter fun p => p.2.segs.any fun s => hs.contains s.2.handle
  on.foldl (fun x p =>
    let pid := p.1
    let left := (getPlane x pid).segs.filter fun s => !hs.contains s.2.handle
    let x1 := modPlane pid (fun q => { q with segs := left }) x
    if !left.isEmpty then x1 else
      let x2 := match sFind x1.arr.refreshes pid with
        | some r => match r.shadow with
          | some sh => freePlane sh { x1 with arr.refreshes := sDel x1.arr.refreshes pid }
          | none => { x1 with arr.refreshes := sDel x1.arr.refreshes pid }
        | none => x1
      if planeState x2 pid = 7 then x2 else freePlane pid x2) d

/-- Invalidate a generation's handles under the reuse rule of R175; with keep the golden records stay. -/
def genDropHandles (hs : List Nat) (keep : Bool) (d : Dev) : Dev :=
  hs.foldl (fun x i =>
    let h := getHandle x i
    if keep then setHandle i { h with state := 0, list0 := [], list1 := [], freedEpoch := 1 } x else
      let x1 := (h.goldenAt.map (·.1)).foldl (fun y s => storeRelease i s y) x
      setHandle i { freedEpoch := 1 } x1) d

/-- Model state after one of its generations has gone. -/
def modelSettle (m : W16) (d : Dev) : Dev :=
  if !modelEmpty d m then d else
    let x := getModel d m
    let stored := (genIn d m 6 6).any fun g => g.2.keepGolden
    let replacing := d.plc.loads.any fun l => l.model = m && l.dnr && !l.dry
    if replacing || x.state = 3 then d
    else if stored then setModel m { x with state := 4 } d
    else setModel m {} d

/-! Capacity (R228). -/

def residentGens (d : Dev) : List GenSt := (d.plc.gens.filter fun g => decide (1 ≤ g.2.state ∧ g.2.state ≤ 5)).map (·.2)
def positionsUsed (d : Dev) : Nat :=
  (residentGens d).foldl (fun a g => if !g.swappable || g.swappedIn then a + g.positions else a) 0
def tenantPositions (d : Dev) (t : Nat) : Nat :=
  (residentGens d).foldl (fun a g => if g.owner = t ∧ (!g.swappable || g.swappedIn) then a + g.positions else a) 0
def goldenUsed (d : Dev) : Nat :=
  (d.plc.gens.map (·.2)).foldl (fun a g => if (1 ≤ g.state ∧ g.state ≤ 5) || g.keepGolden then a + g.records else a) 0
/-- Models with a generation in Loading to Retiring. -/
def residentModels (d : Dev) : List Nat := ((d.plc.gens.filter fun g => decide (1 ≤ g.2.state ∧ g.2.state ≤ 5)).map fun g => g.1 / 65536).eraseDups
/-- Golden records of an image: its positions and its section records of 28,672 B (R228, R430). -/
def imageRecords (h t : Bytes) : Nat :=
  hPositions h + ((List.range (hSections h)).filter fun i => sKind t i ≠ 6).foldl (fun a i => a + ceilDiv (sLength t i) 28672) 0

/-- Digital copies of a swappable image: 32 KiB a segment (R241). -/
def imageHbm (h : Bytes) : Nat := hHbm h + (if hKind h = 0 ∧ fld h 7 1 = 1 then 32768 * hPositions h else 0)

/-- Analogue positions a load needs at once: none for a swappable image (R228). -/
def loadPositions (h : Bytes) : Nat := if fld h 7 1 = 1 then 0 else hPositions h

/-- Shortfall of positions, golden records or the owner's reservation; shortfall of HBM or identifiers. -/
def shortPlanes (d : Dev) (tenant : Nat) (h t : Bytes) : Bool :=
  hKind h = 0 && (
    decide (positionsUsed d + loadPositions h > min 38146973 (guaranteed d))
    || decide (goldenUsed d + imageRecords h t > 41615360)
    || (let r := cfgGet d 0x0304 tenant; r ≠ 0 && decide (tenantPositions d tenant + loadPositions h > r)))
def shortOther (d : Dev) (tenant : Nat) (h : Bytes) : Bool :=
  decide (hbmTaken d tenant + imageHbm h > hbmRoom d tenant)
    || (hKind h = 0 && modelEmpty d (hModel h) && decide (4096 ≤ (residentModels d).length))
    || (hKind h = 1 && decide (d.att.prefixes.length ≥ 65536)) || (hKind h = 2 && decide (d.att.adapters.length ≥ 16384))

/-! Loads. -/

def loadOf (d : Dev) (m : W16) : Option LoadSt := d.plc.loads.find? fun l => l.model = m
def setLoad (l : LoadSt) (d : Dev) : Dev :=
  { d with plc.loads := d.plc.loads.map fun x => if x.model = l.model then l else x }

def recFlag' (r : Bytes) (n : Nat) : Bool := bitAt (fld r 6 1) n
def recAddr (r : Bytes) : Nat := fld r 8 8
def originFn : Origin → Nat
  | .host fn _ _ => fn.val
  | _ => 0

def fromPeer : Origin → Bool
  | .peer _ => true
  | _ => false

/-- Ask the host for a part of the image (R280). -/
def askHost (l : LoadSt) (off len : Nat) (d : Dev) : Dev :=
  if decide (fld l.record 5 1 = 0) && !fromPeer l.origin then emit (.hostRead (originFn l.origin) (BitVec.ofNat 64 (recAddr l.record + off)) len) d else d
def askHeader (l : LoadSt) (d : Dev) : Dev := askHost l 0 4096 d
def askShard (l : LoadSt) (k : Nat) (d : Dev) : Dev := askHost l (hBase l.hdr + k * shardSize) shardSize d

/-- Shards of the sections of some kinds, in section-table order and by index within a section (R222; log entry 190). -/
def shardsIn (l : LoadSt) (p : Nat → Bool) : List Nat :=
  ((List.range (hSections l.hdr)).filter fun i => p (sKind l.sect i)).flatMap fun i => (List.range (sCount l.sect i)).map (sFirst l.sect i + ·)

/-- The order in which shards are fetched: those of the sections of kinds 01h, 03h, 04h and 05h before the rest (R229). -/
def shardOrder (l : LoadSt) : List Nat :=
  let early : Nat → Bool := fun k => k = 1 || k = 3 || k = 4 || k = 5
  shardsIn l early ++ shardsIn l fun k => !early k

/-- The next shard to ask for. -/
def nextShard (l : LoadSt) : Option Nat := (shardOrder l).find? fun k => !l.got.contains k

def askNext (l : LoadSt) (d : Dev) : Dev :=
  match nextShard l with
  | some k => askShard l k d
  | none => d

/-- Take a load's references from the decode tables. -/
def dropTables (l : LoadSt) (d : Dev) : Dev :=
  let n : DTab → Nat := fun t => if t.model = l.model && t.gen = l.gen then (l.queue.filter fun b => b.ready && b.kind = 1 && b.table = t.table).length else 0
  { d with plc.dtabs := d.plc.dtabs.map fun e =>
      let c := e.2.count - n e.2
      (e.1, { e.2 with count := c, idleUs := if c = 0 ∧ e.2.count ≠ 0 then d.time.stampUs else e.2.idleUs }) }

/-- A failed or cancelled load: its new generation, prefix or adapter set is discarded; in the real pass of drain-and-replace
the model becomes unavailable (R223, R235). -/
def loadEnd (l : LoadSt) (status : W16) (shard : Nat) (event : Bool) (d : Dev) : Dev :=
  let d0 := dropTables l { d with plc.loads := d.plc.loads.filter fun x => x.model ≠ l.model }
  let d1 := if event then loadEv 0x9003 3 l.tenant l.model l.gen [(20, 2, status.toNat), (24, 4, shard)] d0 else d0
  let k := hKind l.hdr
  let d2 := if l.hdr.isEmpty || k = 0 then
      match getGen d1 l.model l.gen with
      | some g => if g.state ≠ 1 then d1 else
          let x := genTo l.model l.gen (if fld l.record 5 1 = 2 then 6 else 0) 7 d1
          let y := l.planes.foldl (fun z p => stopProgram p z) x
          let z := genDropHandles g.handles (fld l.record 5 1 = 2) (genFreePlanes g.handles y)
          if fld l.record 5 1 = 2 then z else { z with plc.gens := sDel z.plc.gens (genKey l.model l.gen) }
      | none => d1
    else if k = 1 then { d1 with att.prefixes := sDel d1.att.prefixes (hItem l.hdr) }
    else { d1 with att.adapters := sDel d1.att.adapters (hItem l.hdr) }
  let d3 := if l.dnr && !l.dry then setModel l.model { getModel d2 l.model with state := 3 } d2 else modelSettle l.model d2
  let d4 := endCmds (fun c => c.sub = 1 && c.model = l.model) status d3
  endCmds (fun c => c.sub = 5 && c.model = l.model) 0x0000 d4

/-- A generation report for the flotilla (R329): 1 Ready, 2 switch, 3 requests pinned to a Draining generation (log
entry 23). -/
def genReport (m g : W16) (kind count : Nat) : Bytes := toLe 2 m.toNat ++ toLe 2 g.toNat ++ toLe 2 kind ++ toLe 4 count

/-- A load fails on this module; in a broadcast the other members are told (R230, R328). -/
def loadFail (l : LoadSt) (status : W16) (shard : Nat) (d : Dev) : Dev :=
  let d1 := loadEnd l status shard true d
  if recFlag' l.record 2 && !standalone d then
    flood 0x15 [] (toLe 2 l.model.toNat ++ toLe 2 l.gen.toNat ++ toLe 2 status.toNat ++ toLe 2 0 ++ toLe 4 shard) d1
  else d1

/-- A load's generation is Ready, its prefix or adapter set active unless it has been retired meanwhile: 9002h, and the command's entry
(R229 step 6, R237). -/
def loadReady (l : LoadSt) (d : Dev) : Dev :=
  let ms := (d.time.stampUs - l.startUs).toNat / 1000
  let d1 := { d with plc.loads := d.plc.loads.filter fun x => x.model ≠ l.model }
  let d2 := match hKind l.hdr with
    | 1 => match sFind d1.att.prefixes (hItem l.hdr) with
      | some p => { d1 with att.prefixes := sSet d1.att.prefixes (hItem l.hdr) { p with state := if p.state = 1 then 2 else p.state } }
      | none => d1
    | 2 => match sFind d1.att.adapters (hItem l.hdr) with
      | some a => { d1 with att.adapters := sSet d1.att.adapters (hItem l.hdr) { a with state := if a.state = 1 then 2 else a.state } }
      | none => d1
    | _ => genTo l.model l.gen 2 1 d1
  let d3 := loadEv 0x9002 1 l.tenant l.model l.gen [(20, 4, ms), (24, 4, l.programmed)] d2
  let d4 := endCmds (fun c => c.sub = 1 && c.model = l.model) 0x0000 d3
  if recFlag' l.record 2 && hKind l.hdr = 0 && !standalone d then
    flood 0x14 [] (genReport l.model l.gen 1 0)
      (modGen l.model l.gen (fun g => { g with readyFrom := selfMember d :: g.readyFrom }) d4)
  else d4

/-! Delivered content. -/

def blockKey (s t b : Nat) : Nat := (s * 65536 + t) * 2 ^ 24 + b
/-- Delivered bytes of a tensor, or of a section without tensors. -/
def sectData (l : LoadSt) (s t : Nat) : Bytes :=
  (l.data.filter fun e => e.1 / 2 ^ 24 = s * 65536 + t).flatMap (·.2)
def sectBytes (l : LoadSt) (kind : Nat) : Bytes :=
  match sectOf l.hdr l.sect kind with
  | some i => sectData l i 0
  | none => []
def graphOf (l : LoadSt) : Bytes := sectBytes l 1

/-- Tensor entry of a tensor of a section. -/
def tensorOf (l : LoadSt) (s t : Nat) : Option Bytes :=
  ((List.range (gTensors (graphOf l))).map (graphTensor (graphOf l))).find? fun e => fld e 0 1 = s && fld e 2 2 = t

/-- The image has a layer graph; a prefix or an adapter set need not have one. -/
def hasGraph (l : LoadSt) : Bool := (sectOf l.hdr l.sect 1).isSome

/-- Expanded length of a tensor or section; none where no graph states it. -/
def expectLen (l : LoadSt) (s t : Nat) : Option Nat :=
  if hasTensors (sKind l.sect s) then
    (if hasGraph l then (tensorOf l s t).map fun e => fld e 20 8 else none)
  else some (sLength l.sect s)

def sectComplete (l : LoadSt) (i : Nat) : Bool :=
  if hasTensors (sKind l.sect i) && hasGraph l then
    (List.range (sTensors l.sect i)).all fun t => decide (some (sectData l i t).length = expectLen l i t)
  else decide (((l.data.filter fun e => e.1 / 2 ^ 40 = i).foldl (fun a e => a + e.2.length) 0) = sLength l.sect i)

/-! Building (R229 steps 2, 4, 5; R237). -/

def ratOf32 (x : Nat) : Rat :=
  match fdec fp32 x with
  | .fin n m e => (if n then -1 else 1) * (m : Rat) * (2 : Rat) ^ e
  | _ => 0

/-- An index is kept from other matrices: in use, or not yet invalid for one full placement epoch (R175). -/
def indexKept (h : HandleEnt) : Bool := h.model ≠ 0 || h.gen ≠ 0 || decide (h.freedEpoch ≠ 0 ∧ h.freedEpoch < 3)

/-- End of the outlier blocks of a tenant: a new block is written there (log entry 174). -/
def blockTop (d : Dev) (t : Nat) : Nat :=
  d.arr.handles.foldl (fun a h => if h.2.tenant = t && !h.2.des.isEmpty then
    max a (h.2.blockAddr + 512 + h.2.colSlabs * h.2.des.length * 128) else a) 0

/-- Write a handle's outlier block into its owner's HBM region (R124). -/
def writeBlock (i : Nat) (d : Dev) : Dev :=
  let h := getHandle d i
  if h.des.isEmpty then d else
    hbmPut h.tenant h.blockAddr (outlierBlock h.colSlabs h.des (copiesOf h.colSlabs h.des h.golden)) d

/-- Write every block again from the golden records: HBM lost its content. -/
def writeBlocks (d : Dev) : Dev :=
  d.arr.handles.foldl (fun x h => writeBlock h.1 (setHandle h.1 { getHandle x h.1 with staged := [], copies := [] } x)) d

/-- A tensor that this module keeps of a broadcast load: one that belongs to no expert, or whose expert the plan in force gives it or
gives no module (R230; log entry 128). -/
def planKeeps (d : Dev) (l : LoadSt) (e : Bytes) : Bool :=
  fld e 14 2 = 0xFFFF || !recFlag' l.record 2 ||
    match sFind d.fab.copies (layerKey l.model l.gen (BitVec.ofNat 16 (fld e 12 2)) * 65536 + fld e 14 2) with
    | some ms => ms.contains (selfMember d)
    | none => true

/-- A handle, invalid so far, for each ternary tensor of the image that is kept, with its designation list (R229 steps 2 and 5): the
handles and their tensors. -/
def makeHandles (l : LoadSt) (d : Dev) : List Nat × List Nat × Dev :=
  let g := graphOf l
  let des := desLists g (sectBytes l 4)
  (List.range (gTensors g)).foldl (fun (acc : List Nat × List Nat × Dev) i =>
    let e := graphTensor g i
    if fld e 1 1 ≠ 0 || !planKeeps d l e then acc else
      let rows := fld e 4 4
      let cols := fld e 8 4
      let used : Nat → Bool := fun n => indexKept (getHandle acc.2.2 n) || acc.1.contains n
      match pickFree (2 ^ 20) used acc.2.2 with
      | (none, x) => (acc.1, acc.2.1 ++ [i], x)
      | (some n, x) =>
        let x1 := { x with freeCtr := x.freeCtr + 2 }
        let cores := 1 + Config.pick x.freeCtr % 16
        (acc.1 ++ [n], acc.2.1 ++ [i], setHandle n {
          model := l.model, gen := l.gen, tenant := l.tenant, state := 0, rowSegs := rowSegsOf rows, colSlabs := colSlabsOf cols
          lastRowsM1 := (rows - 1) % 256, lastColsM1 := (cols - 1) % 512, des := des.getD i [], blockAddr := blockTop x l.tenant
          desCore := Config.pick (x.freeCtr + 1) % (257 - cores), desCores := cores
          layer := BitVec.ofNat 16 (fld e 12 2), expert := BitVec.ofNat 16 (fld e 14 2), tensor := i } x1)) ([], [], d)

/-- Place a handle's segments on planes and build its list; none when no plane fits. -/
def placeHandle (swap : Bool) (i : Nat) (st : Option OpenPlanes × Dev) : Option OpenPlanes × Dev :=
  let h := getHandle st.2 i
  let r := (List.range (h.rowSegs * h.colSlabs)).foldl (fun (acc : List MapEnt × Option OpenPlanes × Dev) n =>
    let s : SegRef := { handle := i, model := h.model, gen := h.gen, tenant := h.tenant, rowSeg := n / max 1 h.colSlabs, colSlab := n % max 1 h.colSlabs }
    match placeSeg swap h.layer.toNat s acc.2 with
    | (none, _, x) => (acc.1, none, x)
    | (some (pid, pos), o, x) => (acc.1 ++ [analogEnt x h s pid pos], o, x)) ([], st)
  (r.2.1, setHandle i { getHandle r.2.2 i with list0 := r.1, listSel := false } r.2.2)

/-- Write the golden record of a list entry: on the tile of its plane, or for a digital entry on a tile of the device's
choice. -/
def goldenWrite (i : Nat) (colSlabs : Nat) (e : MapEnt) (d : Dev) : Dev :=
  if e.digital then
    storeWrite i (e.rowSeg * colSlabs + e.colSlab) (planeKey (Config.pick d.freeCtr % 16) (Config.pick (d.freeCtr + 1) % 4096) 0)
      { d with freeCtr := d.freeCtr + 2 }
  else storeWrite i (e.rowSeg * colSlabs + e.colSlab) e.loc d

/-- Program the planes of a placement: alignment, permutation bits of the lists, golden records, then state Programming. -/
def programAll (why : Nat) (op : OpenPlanes) (hs : List Nat) (golden : Bool) (d : Dev) : Dev :=
  let d1 := op.foldl (fun x o => alignPlane o.1 x) d
  let d2 := hs.foldl (fun x i =>
    let h := getHandle x i
    let l := h.list0.map (permEnt x)
    let x1 := setHandle i { h with list0 := l } x
    if golden then l.foldl (fun y e => goldenWrite i h.colSlabs e y) x1 else x1) d1
  op.foldl (fun x o => startProgram why o.1 x) d2

/-- Layers of the image, sections kept for the kernels, and the recipes as adjusted: 9008h for each adjustment (R224). -/
def takeRecipes (l : LoadSt) (d : Dev) : Dev :=
  let runs := recipeRuns (sectBytes l 3)
  (List.range runs.length).foldl (fun x i =>
    let run := runs.getD i []
    (List.range run.length).foldl (fun y j =>
      let r := recipeAdjust run.length (run.getD j [])
      let key := layerKey l.model l.gen (BitVec.ofNat 16 i) * 16 + j
      let y1 := { y with num.listed := sSet y.num.listed key r.1 }
      r.2.foldl (fun z o => loadEv 0x9008 2 l.tenant l.model l.gen [(20, 2, i), (22, 1, j), (23, 1, o)] z) y1) x) d

/-- Every section but the ternary ones, as the generation keeps it: tensors of experts that the module does not keep are left out. -/
def keepSects (l : LoadSt) (d : Dev) : Store Bytes :=
  (List.range (hSections l.hdr)).flatMap fun i =>
    if sKind l.sect i = 6 then [] else
      ((List.range (max 1 (sTensors l.sect i))).filter fun t => !hasTensors (sKind l.sect i) || (tensorOf l i t).all (planKeeps d l)).map
        fun t => (i * 65536 + t, sectData l i t)

/-- The map of a prefix: pages of each self-attention layer in ascending order (R462). -/
def prefixMap (ls : List LayerInfo) (len : Nat) (b : Bytes) : Store PageEnt :=
  let n := ceilDiv len 64
  ((List.range ls.length).foldl (fun (acc : Store PageEnt × Nat) i =>
    match ls[i]? with
    | none => acc
    | some l =>
      if l.attKind ≠ 1 then acc else
        let sz := 512 * pageGran l
        ((List.range n).foldl (fun m j =>
          let fill := min 64 (len - 64 * j)
          sSet m (pageKeyOf i j) { valid := false, fill := fill, shared := true, data := (b.drop (acc.2 + sz * j)).take (fill * entrySize l) }) acc.1,
         acc.2 + sz * n)) ([], 0)).1

/-- Pages of a prefix take frames of the owner's tier-1 area, and its map blocks addresses (R202, R237). -/
def prefixPlace (id : Nat) (ls : List LayerInfo) (d : Dev) : Dev :=
  match sFind d.att.prefixes id with
  | none => d
  | some p0 =>
    let d1 := p0.map.foldl (fun x e => match sFind x.att.prefixes id with
      | none => x
      | some p =>
        let f := newFrame 1 p.tenant ((ls[e.1 / 16384]?.map pageGran).getD 0) x
        { f.2 with att.prefixes := sSet f.2.att.prefixes id { p with map := sSet p.map e.1 { e.2 with valid := true, loc := f.1 } } }) d
    match sFind d1.att.prefixes id with
    | none => d1
    | some p =>
      let r := fresh 64 d1
      let b := growBlocks (blocksOf p.map) p.blocks r.2
      { b.2 with att.prefixes := sSet b.2.att.prefixes id { p with addr := r.1, blocks := b.1 } }

/-- The entries of a layer's last page beyond its fill are 0 (R462). -/
def prefixTails (ls : List LayerInfo) (len : Nat) (b : Bytes) : Bool :=
  let n := ceilDiv len 64
  ((ls.filter (·.attKind = 1)).foldl (fun (acc : Bool × Nat) l =>
    let sz := 512 * pageGran l
    let fill := len - 64 * (n - 1)
    (acc.1 && zeros b (acc.2 + sz * (n - 1) + fill * entrySize l) ((64 - fill) * entrySize l), acc.2 + sz * n)) (true, 0)).1

/-- Length of section 08h for a prefix (R462). -/
def prefixBytes (ls : List LayerInfo) (len : Nat) : Nat :=
  (ls.filter (·.attKind = 1)).foldl (fun a l => a + 512 * pageGran l * ceilDiv len 64) 0

/-! Segments shard by shard (R229). -/

/-- Bytes of a segment's payload, once every block it lies in has been delivered. -/
def segBytes (l : LoadSt) (s t seg : Nat) : Option Bytes :=
  let lo := 26215 * seg / 65536
  let hi := (26215 * seg + 26214) / 65536
  ((List.range (hi + 1 - lo)).mapM fun n => sFind l.data (blockKey s t (lo + n))).map fun bs =>
    (bs.flatten.drop (26215 * seg - 65536 * lo)).take 26215

/-- The tensor of a handle of the new generation. -/
def loadTensor (l : LoadSt) (hs : List Nat) (i : Nat) : Option Bytes :=
  (hs.findIdx? (· = i)).bind fun n => (l.kept[n]?).map fun k => graphTensor (graphOf l) k

/-- Golden weights of a segment of the new generation, once decoded. -/
def loadSeg (l : LoadSt) (hs : List Nat) (i seg : Nat) : Option (Store Int) :=
  (loadTensor l hs i).bind fun e => (segBytes l (fld e 0 1) (fld e 2 2) seg).map (goldenSeg (fld e 4 4) (fld e 8 4) seg)

/-- A decoded segment becomes the handle's golden weights. -/
def takeSeg (l : LoadSt) (hs : List Nat) (i seg : Nat) (d : Dev) : Dev :=
  match loadSeg l hs i seg with
  | some w => let h := getHandle d i
              setHandle i { h with golden := goldenPut seg w h.golden } d
  | none => d

/-- The entries of a plane's segments follow it to another plane, or take its permutation bits anew. -/
def placeEntries (old pid : Nat) (segs : Store SegRef) (d : Dev) : Dev :=
  segs.foldl (fun x s =>
    let h := getHandle x s.2.handle
    let ent : MapEnt → MapEnt := fun e => if !e.digital && e.loc = old then permEnt x { e with loc := pid } else e
    setHandle s.2.handle { h with list0 := h.list0.map ent, list1 := h.list1.map ent } x) d

/-- Replace a load's plane whose verify failed, that was retired, or that its content does not fit, by another Free one (R229 step 4). -/
def replaceLoadPlane (l : LoadSt) (pid : Nat) (d : Dev) : Dev :=
  let segs := (getPlane d pid).segs
  let d0 := if planeState d pid = 7 then modPlane pid (fun p => { p with segs := [], perms := [] }) (stopProgram pid d) else freePlane pid d
  let free := (if reserveKept d0 then freePlanes d0 false else []).filter fun q => q ≠ pid && contentFits d0 q segs
  match pickOf (lowestCount d0 free) d0 with
  | (none, d1) => loadFail { l with planes := l.planes.filter (· ≠ pid) } 0x5004 0xFFFFFFFF d1
  | (some q, d1) =>
    let d2 := alignPlane q (modPlane q (fun p => { p with segs := segs }) d1)
    let l1 := { l with planes := q :: l.planes.filter (· ≠ pid), notBegun := l.notBegun.filter (· ≠ pid) }
    startProgram 0 q (setLoad l1 (placeEntries pid q segs d2))

/-- A plane whose segments have all been decoded: their golden records are written, and it begins to program, or another plane where the
content does not fit it (R229 step 4, R112). -/
def takePlane (l : LoadSt) (hs : List Nat) (pid : Nat) (d : Dev) : Dev :=
  let segs := (getPlane d pid).segs
  if segs.any fun s => (loadSeg l hs s.2.handle (segIndex (getHandle d s.2.handle) s.2)).isNone then d else
    let d1 := segs.foldl (fun x s => takeSeg l hs s.2.handle (segIndex (getHandle x s.2.handle) s.2) x) d
    let d2 := segs.foldl (fun x s => storeWrite s.2.handle (segIndex (getHandle x s.2.handle) s.2) pid x) d1
    let l1 := { l with notBegun := l.notBegun.filter (· ≠ pid) }
    let d3 := setLoad l1 d2
    if planeState d3 pid = 7 || !contentFits d3 pid segs then replaceLoadPlane l1 pid d3
    else startProgram 0 pid (placeEntries pid pid segs (alignPlane pid d3))

/-- Planes of a load that can begin to program do so. -/
def takePlanes (m : W16) (d : Dev) : Dev :=
  match loadOf d m with
  | none => d
  | some l =>
    let hs := ((getGen d m l.gen).map (·.handles)).getD []
    l.notBegun.foldl (fun x pid => match loadOf x m with
      | some y => takePlane y hs pid x
      | none => x) d

/-- Step 2 of R229: handles, invalid so far, and a place for every segment; a swappable image takes no plane. Too few planes or handles
end the load with LOAD_NO_CAPACITY. -/
def placeLoad (l : LoadSt) (d : Dev) : Dev :=
  let r := makeHandles l d
  let d1 := modGen l.model l.gen (fun x => { x with handles := r.1 }) r.2.2
  let l1 := { l with placed := true, kept := r.2.1 }
  if r.1.length ≠ r.2.1.length then loadFail l1 0x5004 0xFFFFFFFF (setLoad l1 d1)
  else if fld l.hdr 7 1 = 1 then setLoad l1 d1
  else
    let p := r.1.foldl (fun st i => placeHandle false i st) (some [], setLoad l1 d1)
    match p.1 with
    | none => loadFail l1 0x5004 0xFFFFFFFF p.2
    | some op => setLoad { l1 with planes := op.map (·.1), notBegun := op.map (·.1) } p.2

/-- Build the whole image (R229 step 5): a prefix's pages, an adapter set's tensors, a model's digital content, recipes, tokeniser table and
outlier blocks. A swappable image's segments take digital entries; planes still at work hold a load back from Ready. -/
def buildLoad (l : LoadSt) (d : Dev) : Dev :=
  match hKind l.hdr with
  | 1 => match sFind d.att.prefixes (hItem l.hdr), getGen d l.model l.gen with
    | some p, some g =>
      let b := sectBytes l 8
      if b.length ≠ prefixBytes g.layers (hPrefixLen l.hdr) || !prefixTails g.layers (hPrefixLen l.hdr) b then loadFail l 0x1001 0xFFFFFFFF d else
        let m := prefixMap g.layers (hPrefixLen l.hdr) b
        loadReady l (prefixPlace (hItem l.hdr) g.layers { d with att.prefixes := sSet d.att.prefixes (hItem l.hdr) { p with map := m } })
    | _, _ => loadFail l 0x1001 0xFFFFFFFF d
  | 2 => match sFind d.att.adapters (hItem l.hdr) with
    | some a => loadReady l { d with att.adapters := sSet d.att.adapters (hItem l.hdr) { a with sects := keepSects l d } }
    | none => loadFail l 0x1001 0xFFFFFFFF d
  | _ =>
    let g := graphOf l
    let hs := ((getGen d l.model l.gen).map (·.handles)).getD []
    let up : GenSt → GenSt := fun x => { x with
      layers := (List.range (gLayers g)).map fun i => layerInfoOf (graphLayer g i)
      tensors := (List.range (gTensors g)).map (graphTensor g), frameSize := fld g 8 4
      f := ratOf32 (fld g 12 4), r := ratOf32 (fld g 16 4), a := ratOf32 (fld g 20 4), sects := keepSects l d, tok := sectBytes l 9 }
    let d1 := takeRecipes l (modGen l.model l.gen up d)
    let l1 := { l with phase := 3, queue := [], data := [] }
    if fld l.hdr 7 1 = 1 then
      let d2 := hs.foldl (fun x i =>
        let x1 := (List.range ((getHandle x i).rowSegs * (getHandle x i).colSlabs)).foldl (fun y n => takeSeg l hs i n y) x
        let y := digitalList (getHandle x1 i) x1
        let z := setHandle i { getHandle y.2 i with list0 := y.1 } y.2
        y.1.foldl (fun w e => goldenWrite i (getHandle w i).colSlabs e w) z) d1
      loadReady l1 (hs.foldl (fun x i => writeBlock i x) (setLoad l1 d2))
    else
      let d2 := hs.foldl (fun x i => writeBlock i x) (setLoad l1 d1)
      if l.planes.isEmpty then loadReady l1 d2 else d2

/-- Every segment of the stored generation goes back to planes from its golden records (R229, source 2). -/
def rebuildStored (l : LoadSt) (d : Dev) : Dev :=
  match getGen d l.model l.gen with
  | none => d
  | some g =>
    let d0 := setGen l.model l.gen { g with state := 1, keepGolden := false } d
    -- a record that cannot be read ends the load (R229)
    if g.handles.any fun i => !(getHandle d i).lost.isEmpty then loadFail l 0x4002 0xFFFFFFFF d0
    else if g.swappable then
      let d2 := g.handles.foldl (fun x i =>
        let y := digitalList (getHandle x i) x
        setHandle i { getHandle y.2 i with list0 := y.1, freedEpoch := 0 } y.2) d0
      loadReady l d2
    else
      let p := g.handles.foldl (fun st i => placeHandle false i st) (some [], d0)
      match p.1 with
      | none => loadFail l 0x5004 0xFFFFFFFF p.2
      | some op =>
        let l2 := { l with phase := 3, planes := op.map (·.1) }
        let d2 := programAll 0 op g.handles false (setLoad l2 p.2)
        if op.isEmpty then loadReady l2 d2 else d2

/-! Retirement (R233). -/

/-- The load of a drain-and-replace whose predecessor has retired starts its real pass (R235 phases 3 and 4). -/
def realPass (m : W16) (d : Dev) : Dev :=
  if (genIn d m 3 5).isSome then d else
    match loadOf d m with
    | none => d
    | some l =>
      if l.phase ≠ 4 then d
      else if fld l.record 5 1 = 2 then rebuildStored { l with phase := 2 } (setLoad { l with phase := 2 } d)
      else
        let l1 := { l with phase := 2, got := [], tries := [], refetched := [], queue := [], next := [], data := [], checked := false }
        askNext l1 (setLoad l1 d)

/-- A Retiring generation becomes Retired once every call on its handles has completed (R233). Its record goes with it, or, while
requests pinned to it wait for the end of the sailing (R234), with that end. -/
def tryRetired (m g : W16) (d : Dev) : Dev :=
  match getGen d m g with
  | none => d
  | some x =>
    if x.state ≠ 5 then d
    else if d.arr.calls.any fun c => x.handles.contains (c.handle.toNat % 2 ^ 20) then d
    else
      let d1 := genTo m g 6 x.retireCause d
      let d2 := genDropHandles x.handles x.keepGolden (genFreePlanes x.handles d1)
      let fit : W16 → W16 → Bool := fun a b => a = m && b = g
      let d3 := (d2.att.prefixes.filter fun p => fit p.2.model p.2.gen).foldl (fun y p => prefixRetire p.1 y) d2
      let d4 := { d3 with
        att.adapters := d3.att.adapters.map fun a => if fit a.2.model a.2.gen then (a.1, { a.2 with state := 3 }) else a
        plc.drains := sDel d3.plc.drains (genKey m g) }
      let d5 := if x.keepGolden || pinned d4 m g ≠ 0 then d4 else { d4 with plc.gens := sDel d4.plc.gens (genKey m g) }
      let d6 := pushHook { hook := 2, model := m, gen := g, layer := 0xFFFF, arg := 6 } (endCmds (fun c => c.sub = 3 && c.model = m && c.gen = g) 0x0000 d5)
      let d7 := if modelEmpty d6 m then endCmds (fun c => c.sub = 4 && c.model = m) 0x0000 d6 else d6
      realPass m (modelSettle m d7)

/-- Retire every Retiring generation that can be. -/
def retireAll (d : Dev) : Dev :=
  d.plc.gens.foldl (fun x e => tryRetired (BitVec.ofNat 16 (e.1 / 65536)) (BitVec.ofNat 16 (e.1 % 65536)) x) d

/-- A Draining generation waits for every other member of the view to report 0 (R329). -/
def remotePinned (d : Dev) (m g : W16) : Bool :=
  !standalone d && (viewMembers d).any fun n =>
    decide (n ≠ selfMember d) && decide (sFind d.plc.remote (n * 2 ^ 32 + genKey m g) ≠ some 0)

/-- A Draining generation without pinned requests becomes Retiring, then Retired (R233). -/
def tryDrained (m g : W16) (d : Dev) : Dev :=
  match getGen d m g with
  | none => d
  | some x => if x.state = 4 ∧ pinned d m g = 0 ∧ !(x.flotilla && remotePinned d m g) then tryRetired m g (genTo m g 5 3 d) else d

def drainAll (d : Dev) : Dev :=
  d.plc.gens.foldl (fun x e => tryDrained (BitVec.ofNat 16 (e.1 / 65536)) (BitVec.ofNat 16 (e.1 % 65536)) x) (retireAll d)

end Sys2Proof.Machine
end

