-- ==== Sys2Proof/Machine/Models.lean ====
section
/-! DEFINITION. Model commands (R227, R289, R290, R463), receiving and decoding an image (R215–R223), decode tables (R221),
drain-and-replace (R235), activation (R232), and the end of array calls. -/

namespace Sys2Proof.Machine

/-! Commands. -/

def originTenant (o : Origin) : Nat := originFn o

/-- Owner of a model that is resident or stored. -/
def modelOwner (d : Dev) (m : W16) : Option Nat := ((gensOf d m).find? fun g => decide (g.2.state ≤ 5) || g.2.keepGolden).map (·.2.owner)

/-- A VF names an object of another tenant (R290). -/
def foreign (d : Dev) (o : Origin) (m : W16) : Bool :=
  originTenant o ≠ 0 && match modelOwner d m with
    | some t => decide (t ≠ originTenant o)
    | none => false

/-- Model commands of a function that have no entry yet. -/
def outstanding (d : Dev) (fn : Nat) : Nat :=
  d.plc.cmds.countP fun c => match c.origin with
    | .host f _ _ => decide (f.val = fn)
    | _ => false

/-- Take a command: a host entry is fetched, and its header, its unused payload and the limit of 16 are checked; used bytes end
at byte `used`. A peer sends no commands. -/
def cmdTake (o : Origin) (sub used : Nat) (m g : W16) (act : Dev → Dev) (d : Dev) : Dev :=
  match o with
  | .host fn sq e =>
    if !canFetch d fn.val sq.val then d else
      let d1 := fetchEntry fn.val sq.val d
      if sGet 0 d.sec.slots fn.val = 2 then cmdEnd o 0x6002 m g d1
      else if fld e 0 1 ≠ 3 || !headerOk e sub false || !zeros e used (128 - used) || decide (outstanding d1 fn.val ≥ 16) then cmdEnd o 0x1001 m g d1
      else act d1
  | .mgmt _ _ => act d
  | .peer _ => d

/-- A flag byte of a host entry is 0 or 1. -/
def flagOk (o : Origin) (off : Nat) : Bool := match o with
  | .host _ _ e => decide (fld e off 1 ≤ 1)
  | _ => true

def addCmd (o : Origin) (sub : Nat) (m g : W16) (d : Dev) : Dev := { d with plc.cmds := d.plc.cmds ++ [⟨o, sub, m, g⟩] }

/-- The load record is consistent in itself (R227). -/
def recordOk (r : Bytes) : Bool :=
  decide (fld r 4 1 ≤ 63 ∧ (fld r 5 1 = 0 ∨ fld r 5 1 = 2) ∧ fld r 6 1 < 16 ∧ fld r 2 2 ≠ 0
    ∧ (if fld r 5 1 = 0 then fld r 8 8 % 4096 = 0 else fld r 8 8 = 0)) && zeros r 7 1 && zeros r 28 36

/-- A generation cannot be taken in: below the highest accepted, resident, with another in Loading or Ready, or a fifth in
Loading to Draining (R227, R231). -/
def genRefused (d : Dev) (m g : W16) : Bool :=
  decide (g.toNat < (getModel d m).highest.toNat)
    || (gensOf d m).any (fun x => x.1 = g && decide (x.2.state ≤ 5))
    || (genIn d m 1 2).isSome
    || decide ((gensOf d m).countP (fun x => decide (1 ≤ x.2.state ∧ x.2.state ≤ 4)) ≥ 4)

def acceptEvent (l : LoadSt) (shards positions : Nat) (d : Dev) : Dev :=
  loadEv 0x9001 1 l.tenant l.model l.gen [(20, 1, fld l.record 5 1), (21, 1, fld l.record 6 1), (24, 4, shards), (28, 4, positions)] d

/-- A load from the golden store: the stored generation is rebuilt from its records (R229). -/
def loadStored (l : LoadSt) (d : Dev) : Dev :=
  match getGen d l.model l.gen with
  | none => endCmds (fun c => c.sub = 1 && c.model = l.model) 0x1001 d
  | some g =>
    if !(g.state = 6 && g.keepGolden) then endCmds (fun c => c.sub = 1 && c.model = l.model) 0x1001 d
    else
      let r := cfgGet d 0x0304 l.tenant
      let n := if g.swappable then 0 else g.positions
      let short := decide (positionsUsed d + n > min 38146973 (guaranteed d)) || (r ≠ 0 && decide (tenantPositions d l.tenant + n > r))
      let dnr := short && recFlag' l.record 1 && (genIn d l.model 3 5).isSome
      if !dnr && (short || decide (hbmTaken d l.tenant + g.hbmBytes > hbmRoom d l.tenant)) then
        endCmds (fun c => c.sub = 1 && c.model = l.model) 0x5004 d
      else
        let m := getModel d l.model
        let held := recFlag' l.record 0
        let d1 := modGen l.model l.gen (fun x => { x with
          held := held, forcePrev := recFlag' l.record 3, flotilla := recFlag' l.record 2, root := recFlag' l.record 2 && !fromPeer l.origin, drainLimit := fld l.record 24 4
          readyFrom := [], switchSeen := false }) (acceptEvent l 0 g.positions { d with plc.loads := d.plc.loads ++ [{ l with dnr := dnr }] })
        let d2 := setModel l.model { m with state := if m.state = 0 ∨ m.state = 4 then 1 else m.state, highest := if m.highest.toNat < l.gen.toNat then l.gen else m.highest } d1
        if dnr then
          -- drain-and-replace: the store needs no dry pass; the old generation drains first
          let d3 := setModel l.model { getModel d2 l.model with state := 2 } d2
          let d4 := genTo l.model l.gen 1 1 d3
          let d5 := match activeGen d4 l.model with
            | some a => { genTo l.model a.1 4 1 d4 with plc.drains := sPut 0 d4.plc.drains (genKey l.model a.1) (fld l.record 24 4) }
            | none => d4
          realPass l.model (drainAll (setLoad { l with dnr := true, phase := 4 } d5))
        else rebuildStored l (genTo l.model l.gen 1 1 d2)

def loadAct (o : Origin) (r : Bytes) (d : Dev) : Dev :=
  let m : W16 := BitVec.ofNat 16 (fld r 0 2)
  let g : W16 := BitVec.ofNat 16 (fld r 2 2)
  let t := fld r 4 1
  if originTenant o ≠ 0 ∧ t ≠ originTenant o then cmdEnd o 0x6001 m g d
  else if !recordOk r then cmdEnd o 0x1001 m g d
  else if sGet 0 d.sec.slots t = 2 then cmdEnd o 0x6002 m g d
  else if (loadOf d m).isSome || decide (d.plc.loads.length ≥ 8) then cmdEnd o 0x1001 m g d
  else
    let l : LoadSt := { origin := o, record := r, model := m, gen := g, tenant := t, startUs := d.time.stampUs }
    let d1 := addCmd o 1 m g d
    if fld r 5 1 = 2 then
      (if foreign d1 o m then endCmds (fun c => c.sub = 1 && c.model = m) 0x1002 d1
       else if modelOwner d1 m ≠ some t ∨ genRefused d1 m g then endCmds (fun c => c.sub = 1 && c.model = m) 0x1001 d1
       else loadStored l d1)
    else askHeader l { d1 with plc.loads := d1.plc.loads ++ [l] }

def execLoadModel (o : Origin) (record : Bytes) (s : State) : Out :=
  run (cmdTake o 1 96 (BitVec.ofNat 16 (fld record 0 2)) (BitVec.ofNat 16 (fld record 2 2)) (loadAct o record)) s

def activateAct (o : Origin) (m g : W16) (d : Dev) : Dev :=
  if foreign d o m then cmdEnd o 0x1002 m g d else
  match getGen d m g with
  | none => cmdEnd o 0x1001 m g d
  | some x => if x.state = 2 then addCmd o 2 m g (setGen m g { x with held := false } d) else cmdEnd o 0x1001 m g d

def execActivate (o : Origin) (model gen : W16) (s : State) : Out := run (cmdTake o 2 36 model gen (activateAct o model gen)) s

/-- Move a generation towards Retired (table of R463); cause 4 forced, 8 without force, 6 for unload. -/
def retireGen (m g : W16) (force : Bool) (cause : Nat) (d : Dev) : Dev :=
  match getGen d m g with
  | none => d
  | some x => match x.state with
    | 2 => tryRetired m g (genTo m g 5 cause d)
    | 3 => if force then tryRetired m g (genTo m g 5 (if cause = 6 then 6 else 4) d) else tryDrained m g (genTo m g 4 cause d)
    | 4 => if force then tryRetired m g (genTo m g 5 (if cause = 6 then 6 else 4) d) else d
    | 5 => tryRetired m g d
    | _ => d

def retireAct (o : Origin) (m g : W16) (force : Bool) (d : Dev) : Dev :=
  if foreign d o m then cmdEnd o 0x1002 m g d else
  match getGen d m g with
  | none => cmdEnd o 0x1001 m g d
  | some x =>
    if !flagOk o 36 || x.state ≤ 1 || x.state = 6 then cmdEnd o 0x1001 m g d
    else retireGen m g force 8 (addCmd o 3 m g d)

def execRetire (o : Origin) (model gen : W16) (force : Bool) (s : State) : Out :=
  run (cmdTake o 3 37 model gen (retireAct o model gen force)) s

def unloadAct (o : Origin) (m : W16) (keep force : Bool) (d : Dev) : Dev :=
  if foreign d o m then cmdEnd o 0x1002 m 0 d
  else if !flagOk o 36 || !flagOk o 37 then cmdEnd o 0x1001 m 0 d
  else
    let d1 := match loadOf d m with
      | some l => loadFail l 0x2002 0xFFFFFFFF d
      | none => d
    let stored := (gensOf d1 m).filter fun g => g.2.state = 6 && g.2.keepGolden
    let d2 := if keep then d1 else stored.foldl (fun x g =>
      let y := genDropHandles g.2.handles false x
      { y with plc.gens := sDel y.plc.gens (genKey m g.1) }) d1
    let d3 := (gensOf d2 m).foldl (fun x g => modGen m g.1 (fun y => if y.state ≤ 5 then { y with keepGolden := keep } else y) x) d2
    let d4 := setModel m { getModel d3 m with state := if (getModel d3 m).state = 3 then 1 else (getModel d3 m).state } (addCmd o 4 m 0 d3)
    let d5 := (gensOf d4 m).foldl (fun x g => retireGen m g.1 force 6 x) d4
    let d6 := modelSettle m d5
    if modelEmpty d6 m then endCmds (fun c => c.sub = 4 && c.model = m) 0x0000 d6 else d6

def execUnload (o : Origin) (model : W16) (keepGolden force : Bool) (s : State) : Out :=
  run (cmdTake o 4 38 model 0 (unloadAct o model keepGolden force)) s

def cancelLoadAct (o : Origin) (m : W16) (d : Dev) : Dev :=
  if foreign d o m then cmdEnd o 0x1002 m 0 d else
  match loadOf d m with
  | some l =>
    if originTenant o ≠ 0 ∧ l.tenant ≠ originTenant o then cmdEnd o 0x1002 m 0 d
    else loadFail l 0x2002 0xFFFFFFFF (addCmd o 5 m 0 d)
  | none => cmdEnd o 0x0000 m 0 d

def execCancelLoad (o : Origin) (model : W16) (s : State) : Out := run (cmdTake o 5 34 model 0 (cancelLoadAct o model)) s

/-! Hints (R242). -/

def sameTarget (a b : Bytes) : Bool := (a.drop 2).take 6 == (b.drop 2).take 6 && a.getD 10 0 == b.getD 10 0

/-- Two hints name targets that have a layer of a generation in common. -/
def targetsMeet (a b : Bytes) : Bool :=
  fld a 2 2 = fld b 2 2 && (fld a 4 2 = 0 || fld b 4 2 = 0 || fld a 4 2 = fld b 4 2)
    && (fld a 6 2 = 0xFFFF || fld b 6 2 = 0xFFFF || fld a 6 2 = fld b 6 2)

/-- Layers of generations in service. -/
def liveLayers (d : Dev) (m : W16) : List Nat :=
  ((gensOf d m).filter fun g => g.2.state = 3 || g.2.state = 4).flatMap fun g =>
    (List.range g.2.layers.length).map fun i => layerKey m g.1 (BitVec.ofNat 16 i)

/-- 900Bh: a hint that cannot be honoured, or is refused. -/
def hintEvent (kind reason : Nat) (m g layer : W16) (owner : Nat) (d : Dev) : Dev :=
  loadEv 0x900B 2 owner m g [(20, 1, kind), (21, 1, reason), (22, 2, layer.toNat)] d

/-- Layers under a keep-digital hint take digital entries, or the hint is reported for want of room; those of a model in the swap pool leave
it with the next plan (R242). -/
def honourDigital (m : W16) (d : Dev) : Dev :=
  (liveLayers d m).foldl (fun x lk =>
    let pooled := (getGen x (keyModel lk) (keyGen lk)).any fun g => g.swappable && g.swappedIn
    let analog := (layerHandles x lk).any fun i => (curList (getHandle x i)).any fun e => !e.digital
    if !hinted x 2 (keyModel lk) (keyGen lk) (keyLayer lk) || pooled || !analog then x
    else if layerRoom x lk then layerToDigital lk x
    else hintEvent 2 1 (keyModel lk) (keyGen lk) (keyLayer lk) (ownerOf x lk) x) d

/-- Record a hint: the later of pin and keep-digital on a target is refused; an affinity mask without a die in service is reported. -/
def hintAdd (r : Bytes) (d : Dev) : Dev :=
  let kind := fld r 0 1
  let m : W16 := BitVec.ofNat 16 (fld r 2 2)
  let say : Nat → Dev → Dev := fun reason x =>
    hintEvent kind reason m (BitVec.ofNat 16 (fld r 4 2)) (BitVec.ofNat 16 (fld r 6 2)) (fld r 10 1) x
  let contra := d.plc.hints.any fun h => targetsMeet h r && ((kind = 2 && fld h 0 1 = 4) || (kind = 4 && fld h 0 1 = 2))
  if contra then say 2 d else
    let hs := d.plc.hints.filter fun h => !(sameTarget h r && fld h 0 1 = kind)
    let d1 := { d with plc.hints := hs ++ [r] }
    let usable := (List.range 16).any fun i => bitAt (fld r 8 2) i && !(getDie d i).retired
    if kind = 1 && !usable then say 3 d1 else if kind = 2 then honourDigital m d1 else d1

/-- Remove a hint; layers that keep-digital held go back to the array (R242). -/
def hintRemove (r : Bytes) (d : Dev) : Dev :=
  let m : W16 := BitVec.ofNat 16 (fld r 2 2)
  let d1 := { d with plc.hints := d.plc.hints.filter fun h => !(sameTarget h r && fld h 0 1 = fld r 0 1) }
  if fld r 0 1 = 2 then (liveLayers d1 m).foldl (fun x lk => settleLists lk x) d1 else d1

def hintAct (o : Origin) (r : Bytes) (d : Dev) : Dev :=
  let m : W16 := BitVec.ofNat 16 (fld r 2 2)
  let g : W16 := BitVec.ofNat 16 (fld r 4 2)
  let ok := decide (1 ≤ fld r 0 1 ∧ fld r 0 1 ≤ 4 ∧ fld r 1 1 ≤ 1 ∧ fld r 10 1 ≤ 63 ∧ (fld r 0 1 = 1 ∨ fld r 8 2 = 0)) && zeros r 11 5
  if originTenant o ≠ 0 ∧ fld r 10 1 ≠ originTenant o then cmdEnd o 0x6001 m g d
  else if !ok then cmdEnd o 0x1001 m g d
  else if modelOwner d m ≠ some (fld r 10 1) then cmdEnd o 0x1002 m g d
  else
    cmdEnd o 0x0000 m g (if fld r 1 1 = 1 then hintRemove r d else hintAdd r d)

def execHint (o : Origin) (record : Bytes) (s : State) : Out :=
  run (cmdTake o 6 48 (BitVec.ofNat 16 (fld record 2 2)) (BitVec.ofNat 16 (fld record 4 2)) (hintAct o record)) s

/-! The image header (R212, R213, R227, R228). -/

/-- Refuse a load that has not been accepted. -/
def loadRefuse (l : LoadSt) (status : W16) (d : Dev) : Dev :=
  endCmds (fun c => c.sub = 5 && c.model = l.model) 0x0000
    (endCmds (fun c => c.sub = 1 && c.model = l.model) status { d with plc.loads := d.plc.loads.filter fun x => x.model ≠ l.model })

/-- Send a load's record, header and section table to this module's children in the broadcast tree (log entry 24). -/
def treeMembers (d : Dev) (root : Nat) : List Nat := root :: (viewMembers d).filter (· ≠ root)
def treeChildren (d : Dev) (root : Nat) : List Nat :=
  let ms := treeMembers d root
  match ms.findIdx? (· = selfMember d) with
  | some p => (List.range 4).filterMap fun i => ms[4 * p + 1 + i]?
  | none => []
def rootOf (d : Dev) (l : LoadSt) : Nat := match l.origin with
  | .peer m => m.val
  | _ => selfMember d
def shardSpec (l : LoadSt) (k : Nat) : Bytes := toLe 2 l.model.toNat ++ toLe 2 l.gen.toNat ++ toLe 4 k ++ toLe 4 0
/-- Forward a part of the image: a shard, which stays in staging (R230), or FFFFFFFFh for the record, header and section table. -/
def forwardPart (l : LoadSt) (k : Nat) (body : Bytes) (d : Dev) : Dev :=
  if recFlag' l.record 2 && !standalone d then
    let d1 := if k = 0xFFFFFFFF then d else
      (let s := d.fab.staged ++ [(l.model, l.gen, k, body)]
       { d with fab.staged := s.drop (s.length - 2048) })
    (treeChildren d1 (rootOf d1 l)).foldl (fun x c => sendMsg 0x40 6 0 c (shardSpec l k) body x) d1
  else d

/-- Accept a load whose header fits (9001h). -/
def loadAccept (l : LoadSt) (dnr : Bool) (d : Dev) : Dev :=
  let h := l.hdr
  let l1 := { l with phase := 2, dnr := dnr, dry := dnr }
  let d1 := acceptEvent l1 (hShards h) (hPositions h) (setLoad l1 d)
  let d2 := match hKind h with
    | 1 => { d1 with att.prefixes := sSet d1.att.prefixes (hItem h) {
        model := l.model, gen := l.gen, tenant := l.tenant, state := 1, length := hPrefixLen h, refs := 0, map := [], hbmBytes := hHbm h } }
    | 2 => { d1 with att.adapters := sSet d1.att.adapters (hItem h) {
        model := l.model, gen := l.gen, tenant := l.tenant, state := 1, sects := [], hbmBytes := hHbm h } }
    | _ =>
      let m := getModel d1 l.model
      let g : GenSt := { state := 0, owner := l.tenant, held := recFlag' l.record 0, forcePrev := recFlag' l.record 3
                         flotilla := recFlag' l.record 2, root := recFlag' l.record 2 && !fromPeer l.origin
                         drainLimit := fld l.record 24 4, swappable := fld h 7 1 = 1
                         positions := hPositions h, records := imageRecords h l.sect, hbmBytes := imageHbm h }
      genTo l.model l.gen 1 1 (setModel l.model { m with
        state := if m.state = 0 ∨ m.state = 4 then 1 else m.state, highest := if m.highest.toNat < l.gen.toNat then l.gen else m.highest } (setGen l.model l.gen g d1))
  forwardPart l1 0xFFFFFFFF (l.record ++ toLe 1 (rootOf d l1) ++ h ++ l.sect) (askNext l1 d2)

/-- Status of a header against the record and the resident objects; 0 where it fits. -/
def headerStatus (l : LoadSt) (h t : Bytes) (d : Dev) : W16 :=
  let vf := decide (originTenant l.origin ≠ 0)
  let owner := modelOwner d l.model
  if !headerValid h || !sectionsValid h t || hModel h ≠ l.model || hGen h ≠ l.gen
      || fld l.record 16 8 ≠ hBase h + hShards h * shardSize then 0x1001
  else if hKind h = 0 then
    (if owner.isSome ∧ owner ≠ some l.tenant then (if vf then 0x1002 else 0x1001)
     else if genRefused d l.model l.gen then 0x1001 else 0)
  else
    let live := match getGen d l.model l.gen with
      | some g => decide (1 ≤ g.state ∧ g.state ≤ 4)
      | none => false
    let holder := if hKind h = 1 then (sFind d.att.prefixes (hItem h)).map (·.tenant) else (sFind d.att.adapters (hItem h)).map (·.tenant)
    if !live || (vf && owner ≠ some 0 && owner ≠ some l.tenant) then 0x1002
    else if holder.isSome then
      (if vf && holder ≠ some l.tenant then (if hKind h = 1 then 0x1003 else 0x1004) else 0x1001)
    else 0

def imageHeaderReceive (model : W16) (h t : Bytes) (d : Dev) : Dev :=
  match loadOf d model with
  | none => d
  | some l =>
    if l.phase ≠ 1 || fld l.record 5 1 ≠ 0 then d else
      let st := headerStatus l h t d
      if st ≠ 0 then loadRefuse l st d else
        let planes := shortPlanes d l.tenant h t
        let dnr := planes && recFlag' l.record 1 && (genIn d l.model 3 5).isSome
        if !dnr && (planes || shortOther d l.tenant h) then loadRefuse l 0x5004 d
        else loadAccept { l with hdr := h, sect := t, tries := [] } dnr (setLoad { l with hdr := h, sect := t, tries := [] } d)

def execImageHeaderReceive (model : W16) (hdr sect : Bytes) (s : State) : Out := run (imageHeaderReceive model hdr sect) s

/-! Shards (R215, R216, R223). -/

/-- Ask for a part again: from the host, or in a broadcast from the parent. -/
def treeParentOf (d : Dev) (root : Nat) : Option Nat :=
  let ms := treeMembers d root
  (ms.findIdx? (· = selfMember d)).bind fun p => if p = 0 then none else ms[(p - 1) / 4]?
def askAgain (l : LoadSt) (k : Nat) (d : Dev) : Dev :=
  match l.origin with
  | .peer m => match treeParentOf d m.val with
    | some p => sendMsg 0x41 6 0 p (shardSpec l k) [] d
    | none => d
  | _ => if k = 0xFFFFFFFF then askHeader l d else askShard l k d

/-- A shard or the header was not received: up to three refetches, each with 9004h; then the load fails. -/
def notReceived (l : LoadSt) (k reason : Nat) (d : Dev) : Dev :=
  let n := sGet 0 l.tries k
  if n ≥ 3 then loadFail l 0x5001 k d else
    let l1 := { l with tries := sSet l.tries k (n + 1) }
    askAgain l1 k (loadEv 0x9004 2 l.tenant l.model l.gen [(20, 4, k), (24, 1, n + 1), (25, 1, reason)] (setLoad l1 d))

/-- A block fault in a shard: it is refetched once (attempt 1, reason 3); a fault after that ends the load. -/
def blockFault (l : LoadSt) (k : Nat) (status : W16) (d : Dev) : Dev :=
  match sGet 0 l.refetched k with
  | 0 =>
    let l1 := { l with refetched := sSet l.refetched k 1, tries := sDel l.tries k }
    askAgain l1 k (loadEv 0x9004 2 l.tenant l.model l.gen [(20, 4, k), (24, 1, 1), (25, 1, 3)] (setLoad l1 d))
  | 1 => d
  | _ => loadFail l status k d

def rejectEv (l : LoadSt) (k block reason produced : Nat) (d : Dev) : Dev :=
  loadEv 0x9005 2 l.tenant l.model l.gen [(20, 4, k), (24, 2, block), (26, 1, reason), (28, 4, produced)] d

def shardHeaderOk (l : LoadSt) (k : Nat) (f : Bytes) : Bool :=
  let s := fld f 12 1
  decide (f.length = shardSize ∧ fld f 0 4 = 0x44524853 ∧ fld f 4 2 = l.model.toNat ∧ fld f 6 2 = l.gen.toNat ∧ fld f 8 4 = k
    ∧ s < hSections l.hdr ∧ sFirst l.sect s ≤ k ∧ k < sFirst l.sect s + sCount l.sect s
    ∧ 1 ≤ fld f 14 2 ∧ fld f 16 4 ≤ 4194240) && zeros f 13 1 && zeros f 20 44

/-- Bytes a kind-0 tensor's blocks span; kinds outside 0–3 count as kind 0. -/
def blockCount (total span : Nat) : Nat := ceilDiv total span

/-- Next block key of a block's tensor. -/
def tensorKey (l : LoadSt) (s t : Nat) : Nat := s * 65536 + (if hasTensors (sKind l.sect s) then t else 0)

/-- Block kind that a tensor's type implies. -/
def kindOfType (ty : Nat) : Nat := match ty with
  | 0 => 1
  | 1 => 2
  | 2 => 3
  | _ => 0

/-- Span of the blocks of a tensor. -/
def tensorSpan (l : LoadSt) (s t kind : Nat) : Nat :=
  if hasTensors (sKind l.sect s) then
    match tensorOf l s t with
    | some e => spanOf (kindOfType (fld e 1 1))
    | none => spanOf kind
  else 65536

/-- A block lies beyond its tensor's last block. -/
def beyondLast (l : LoadSt) (s t kind n : Nat) : Bool :=
  match expectLen l s (if hasTensors (sKind l.sect s) then t else 0) with
  | some len => decide (n ≥ blockCount len (tensorSpan l s t kind))
  | none => false

/-- Blocks located in a shard: those in sequence, how the scan ended (the index of the block at fault), and the next indices.
On a refetch, blocks delivered or queued already are passed over. -/
def scanBlocks (l : LoadSt) (k s : Nat) (f : Bytes) : List BlockIn × Option Nat × Store Nat :=
  let payload := fld f 16 4
  let n := fld f 14 2
  let r := (List.range n).foldl (fun (acc : List BlockIn × Option Nat × Store Nat × Nat) i =>
    let (out, bad, next, o) := acc
    if bad.isSome then acc else
      let b := f.drop (64 + o)
      let clen := fld b 4 3
      let blk := fld b 12 4
      let t := if hasTensors (sKind l.sect s) then fld b 10 2 else 0
      let key := s * 65536 + t
      let stop := o + 16 + (clen + 15) / 16 * 16
      let exp := sGet 0 next key
      let have_ := (l.data.any fun e => e.1 = blockKey s t blk) || l.queue.any fun q => q.section_ = s && q.tensor = t && q.block = blk
      let again := sGet 0 l.refetched k ≠ 0 && decide (blk < exp)
      if o + 16 > payload || clen = 0 || decide (clen > 131072) || decide (stop > payload) || !zeros b 3 1 || !zeros b 7 1
          || (!again && blk ≠ exp) || beyondLast l s t (fld b 2 1) blk then (out, some blk, next, o)
      else
        let e : BlockIn := { shard := k, ord := i, section_ := s, tensor := t, table := BitVec.ofNat 16 (fld b 0 2), kind := fld b 2 1
                             elen := fld b 8 2 + 1, block := blk, bytes := (b.drop 16).take clen, ready := false }
        (if again && have_ then out else out ++ [e], none, if again then next else sSet next key (blk + 1), stop))
    ([], none, l.next, 0)
  (r.1, if r.2.1.isNone && decide (r.2.2.2 ≠ payload) then some (fld f 14 2 % 65536) else r.2.1, r.2.2.1)

/-- A block with a table, a tensor and a kind that its section and tensor allow: 0; 3 unknown table, 4 otherwise (9005h). -/
def blockNaming (l : LoadSt) (b : BlockIn) : Nat :=
  let sk := sKind l.sect b.section_
  let kindOk : Bool :=
    if sk = 6 then b.kind = 1
    else if sk = 7 then
      (match tensorOf l b.section_ b.tensor with
        | some e => b.kind = kindOfType (fld e 1 1)
        | none => b.kind = 0 || b.kind = 2 || b.kind = 3)
    else b.kind = 0
  if !kindOk || (hasTensors sk && decide (b.tensor ≥ sTensors l.sect b.section_)) || (b.kind ≠ 1 && b.table ≠ 0xFFFF) then 4
  else if b.kind = 1 && (tableFind (sectBytes l 5) b.table.toNat).isNone then 3 else 0

/-- Slot that holds a table of the load. -/
def tableSlot (d : Dev) (l : LoadSt) (table : W16) : Option Nat :=
  (d.plc.dtabs.find? fun e => e.2.model = l.model && e.2.gen = l.gen && e.2.table = table).map (·.1)

/-- Blocks that can be decoded enter the decode queue: a kind-1 block counts its table; the others wait for none. -/
def enterQueue (l : LoadSt) (d : Dev) : Dev :=
  let r := l.queue.foldl (fun (acc : List BlockIn × Dev) b =>
    if b.ready then (acc.1 ++ [b], acc.2)
    else if b.kind ≠ 1 || blockNaming l b ≠ 0 then (acc.1 ++ [{ b with ready := true }], acc.2)
    else match tableSlot acc.2 l b.table with
      | some i => (acc.1 ++ [{ b with ready := true }], { acc.2 with
          plc.dtabs := acc.2.plc.dtabs.map fun e => if e.1 = i then (e.1, { e.2 with count := e.2.count + 1 }) else e })
      | none => (acc.1 ++ [b], acc.2)) ([], d)
  setLoad { l with queue := r.1 } r.2

/-- The early sections have arrived whole. -/
def listsHere (l : LoadSt) : Bool := [1, 3, 4, 5].all fun k => match sectOf l.hdr l.sect k with
  | some i => sectComplete l i
  | none => true

/-- R214, R218, R224, R462, R123 on the delivered lists, those of a prefix or an adapter set that has them included. -/
def listsValid (l : LoadSt) : Bool :=
  let g := graphOf l
  (!hasGraph l || graphValid l.hdr l.sect g) && ((sectOf l.hdr l.sect 3).isNone || recipesValid g (sectBytes l 3))
    && desValid g (sectBytes l 4) && tablesValid (sectBytes l 5)

/-- No shard of a section is missing, refetched or in the queue. -/
def sectSettled (l : LoadSt) (i : Nat) : Bool :=
  (List.range (sCount l.sect i)).all (fun n =>
    let k := sFirst l.sect i + n
    l.got.contains k && sGet 0 l.refetched k ≠ 1) && !(l.queue.any fun b => b.section_ = i)

/-- The decoded image is whole. -/
def imageWhole (l : LoadSt) : Bool :=
  (List.range (hSections l.hdr)).all fun i => sectSettled l i && sectComplete l i

/-- What follows a delivery or a rejection: the lists are checked once whole and the segments placed (R229 step 2); a settled section that is too short refetches its
last shard once; a whole image waits for the end of its dry pass or is built. -/
def afterBlock (l : LoadSt) (d : Dev) : Dev :=
  if !l.checked && listsHere l then
    (if !listsValid l then loadFail l 0x1001 0xFFFFFFFF d
     else
       let l1 := { l with checked := true }
       let d1 := setLoad l1 d
       let d2 := if hKind l.hdr = 0 && !l.dry then placeLoad l1 d1 else d1
       match loadOf d2 l.model with
       | some l2 => askNext l2 d2
       | none => d2)
  else
    match (List.range (hSections l.hdr)).find? fun i => (l.checked || !hasTensors (sKind l.sect i)) && sectSettled l i && !sectComplete l i with
    | some i =>
      let k := sFirst l.sect i + sCount l.sect i - 1
      blockFault l k 0x5002 (rejectEv l k 0xFFFF 2 0 d)
    | none => d

/-- A whole image is built. -/
def finishImage (model : W16) (d : Dev) : Dev :=
  match loadOf d model with
  | none => d
  | some l =>
    if l.phase ≠ 2 || !l.checked || l.dry || !imageWhole l then d
    else if hKind l.hdr = 0 && (sectOf l.hdr l.sect 9).isSome && !tokValid (sectBytes l 9) then loadFail l 0x1001 0xFFFFFFFF d
    else buildLoad l d

/-- A shard frame arrives for a load. -/
def shardArrive (model : W16) (k : Nat) (f : Bytes) (d : Dev) : Dev :=
  match loadOf d model with
  | none => d
  | some l =>
    if l.phase ≠ 2 then d
    else if decide (k ≥ hShards l.hdr) || (l.got.contains k && sGet 0 l.refetched k ≠ 1) then d
    else if !shardHeaderOk l k f then notReceived l k 2 d
    else
      let s := fld f 12 1
      if hasTensors (sKind l.sect s) && hasGraph l && !l.checked then d else
        let r := scanBlocks l k s f
        let l1 := { l with
          got := if l.got.contains k then l.got else l.got ++ [k], tries := sDel l.tries k
          refetched := if sGet 0 l.refetched k = 1 then sSet l.refetched k 2 else l.refetched
          queue := l.queue ++ r.1, next := r.2.2 }
        let d1 := forwardPart l1 k f { enterQueue l1 d with plc.shards := BitVec.ofNat 32 (satAdd 32 d.plc.shards.toNat 1) }
        match loadOf d1 model, r.2.1 with
        | some l2, some blk => blockFault l2 k 0x5002 (rejectEv l2 k blk 2 0 d1)
        | some l2, none =>
          -- a refetch that brings no block leaves a section that is too short settled
          let d2 := if r.1.isEmpty then finishImage model (afterBlock l2 d1) else d1
          (match loadOf d2 model with
           | some l3 => (match l3.origin with
             | .peer _ => d2
             | _ => askNext l3 d2)
           | none => d2)
        | none, _ => d1

def execShardReceive (model : W16) (index : Nat) (frame : Bytes) (s : State) : Out := run (shardArrive model index frame) s

/-- The part asked for has not come within its time: FFFFFFFFh is the header. -/
def shardTimeout (model : W16) (k : Nat) (d : Dev) : Dev :=
  match loadOf d model with
  | none => d
  | some l =>
    if l.phase = 1 then (if k = 0xFFFFFFFF then notReceived l k 1 d else d)
    else if l.phase = 2 ∧ k < hShards l.hdr ∧ (!l.got.contains k ∨ sGet 0 l.refetched k = 1) then notReceived l k 1 d
    else d

def execShardFetchTimeout (model : W16) (index : Nat) (s : State) : Out := run (shardTimeout model index) s

/-! Decoding (R216, R219, R220). -/

/-- Neighbours of a block in a tensor whose length no graph states: an earlier block that is not a full span of this block's kind, where 4
is another kind and 2 the tensor's end; a later block after this one, when this one is not a full span (R216, R220). -/
def blockNeighbours (l : LoadSt) (b : BlockIn) : Nat :=
  let at_ : Nat → Option Bytes := fun n => sFind l.data (blockKey b.section_ b.tensor n)
  let before := if b.block = 0 then none else at_ (b.block - 1)
  match before with
  | some p => if p.length = spanOf b.kind then later (at_ (b.block + 1)) else if p.length = 65536 ∨ p.length = 65535 ∨ p.length = 65505 then 4 else 2
  | none => later (at_ (b.block + 1))
where
  later (next : Option Bytes) : Nat := if next.isSome && decide (b.elen ≠ spanOf b.kind) then 2 else 0

/-- What a block yields: its bytes, or the reason, the bytes produced and the status of its rejection. -/
def decodeBlock (l : LoadSt) (b : BlockIn) : Except (Nat × Nat × W16) Bytes :=
  match blockNaming l b with
  | 3 => .error (3, 0, 0x5003)
  | 4 => .error (4, 0, 0x1001)
  | _ =>
    let span := if hasTensors (sKind l.sect b.section_) then spanOf b.kind else 65536
    let near := match expectLen l b.section_ b.tensor with
      | some len => if b.elen = min span (len - span * b.block) then 0 else 2
      | none => if b.elen ≤ span then blockNeighbours l b else 2
    if near = 4 then .error (4, 0, 0x1001)
    else if near ≠ 0 then .error (2, 0, 0x5002)
    else if b.kind = 1 then
      match decodeBits (buildCodes ((tableFind (sectBytes l 5) b.table.toNat).getD [])) (bitStream b.bytes) 0 0 b.elen [] with
      | .ok out => .ok out
      | .longer n => .error (1, n, 0x5002)
      | .short n => .error (2, n, 0x5002)
    else if b.bytes.length ≠ b.elen then .error (2, 0, 0x5002)
    else if b.kind ≠ 0 ∧ !(b.elen % unitLen b.kind = 0 ∧ scalesValid b.kind b.bytes) then .error (5, 0, 0x5002)
    else .ok b.bytes

def blockDecode (model : W16) (d : Dev) : Dev :=
  match loadOf d model with
  | none => d
  | some l => match l.queue.find? (·.ready) with
    | none => d
    | some b =>
      let l1 := { l with queue := l.queue.erase b }
      let one := b.kind = 1 && blockNaming l b = 0
      let d1 := { d with plc.dtabs := d.plc.dtabs.map fun e =>
        if one && e.2.model = l.model && e.2.gen = l.gen && e.2.table = b.table then
          (e.1, { e.2 with count := e.2.count - 1, idleUs := if e.2.count = 1 then d.time.stampUs else e.2.idleUs }) else e }
      match decodeBlock l b with
      | .ok out =>
        let l2 := { l1 with data := sSet l1.data (blockKey b.section_ b.tensor b.block) out }
        let d2 := afterBlock l2 (setLoad l2 d1)
        finishImage model (if sKind l.sect b.section_ = 6 then takePlanes model d2 else d2)
      | .error r =>
        let d2 := blockFault l1 b.shard r.2.2 (rejectEv l1 b.shard (b.block % 65536) r.1 r.2.1 (setLoad l1 d1))
        match loadOf d2 model with
        | some l3 => finishImage model (afterBlock l3 d2)
        | none => d2

def execBlockDecode (model : W16) (s : State) : Out := run (blockDecode model) s

/-! Decode-table slots (R221). -/

/-- The free slot idle longest: a slot never used, else the one with count 0 and the earliest stamp. -/
def freeTabSlot (d : Dev) : Option Nat :=
  match (List.range 16).find? fun i => (sFind d.plc.dtabs i).isNone with
  | some i => some i
  | none =>
    ((d.plc.dtabs.filter fun e => e.2.count = 0).foldl (fun (best : Option (Nat × DTab)) e => match best with
      | none => some e
      | some b => if e.2.idleUs.toNat < b.2.idleUs.toNat then some e else best) none).map (·.1)

def dtabInstall (model table : W16) (d : Dev) : Dev :=
  match loadOf d model with
  | none => d
  | some l =>
    if !(l.queue.any fun b => !b.ready && b.table = table) then d
    else if (tableSlot d l table).isSome then enterQueue l d
    else match freeTabSlot d, tableFind (sectBytes l 5) table.toNat with
      | some i, some lens =>
        let e : DTab := { model := l.model, gen := l.gen, table := table, lens := lens, count := 0, idleUs := d.time.stampUs }
        enterQueue l { d with plc.dtabs := sSet d.plc.dtabs i e }
      | _, _ => d

def execDtabInstall (model table : W16) (s : State) : Out := run (dtabInstall model table) s

def dtabWait (model table : W16) (us : W32) (d : Dev) : Dev :=
  match loadOf d model with
  | none => d
  | some l =>
    if us.toNat ≤ 1000 || !(l.queue.any fun b => !b.ready && b.table = table && !b.told) then d else
      let q := l.queue.map fun b => if !b.ready && b.table = table then { b with told := true } else b
      loadEv 0x9006 1 l.tenant l.model l.gen [(20, 2, table.toNat), (24, 4, us.toNat)] (setLoad { l with queue := q } d)

def execDtabWaitTimeout (model table : W16) (us : W32) (s : State) : Out := run (dtabWait model table us) s

/-! Drain-and-replace (R235) and drain limits (R233). -/

/-- Start the drain limit of a generation that begins to drain. -/
def startDrain (m g : W16) (limit : Nat) (d : Dev) : Dev := { d with plc.drains := sPut 0 d.plc.drains (genKey m g) limit }

def dryPassComplete (model : W16) (d : Dev) : Dev :=
  match loadOf d model with
  | none => d
  | some l =>
    if !l.dry || l.phase ≠ 2 || !l.checked || !imageWhole l then d
    else if (sectOf l.hdr l.sect 9).isSome && !tokValid (sectBytes l 9) then loadFail l 0x1001 0xFFFFFFFF d
    else
      let d1 := setLoad { l with phase := 4, dry := false, data := [] } (setModel model { getModel d model with state := 2 } d)
      let d2 := match activeGen d1 model with
        | some a => startDrain model a.1 (fld l.record 24 4) (genTo model a.1 4 1 d1)
        | none => d1
      realPass model (drainAll d2)

def execDryPassComplete (model : W16) (s : State) : Out := run (dryPassComplete model) s

def drainLimitExpire (m g : W16) (d : Dev) : Dev :=
  match getGen d m g with
  | none => d
  | some x => if x.state = 4 ∧ sGet 0 d.plc.drains (genKey m g) > 0 then tryRetired m g (genTo m g 5 5 d) else d

def execDrainLimitExpire (model gen : W16) (s : State) : Out := run (drainLimitExpire model gen) s

/-! Activation at a sailing boundary (R232). -/

/-- A Ready generation may become Active: its hold is clear, and a flotilla-wide one has Ready reports from every member; or a member has
reported the switch, whatever the hold (R232). -/
def mayActivate (d : Dev) (g : GenSt) : Bool :=
  (g.flotilla && !standalone d && g.switchSeen)
    || (!g.held && (!g.flotilla || standalone d || (viewMembers d).all fun m => g.readyFrom.contains m))

/-- Activate a Ready generation: recipes return to 0, the previous Active generation drains or is forced out. -/
def activateGen (m g : W16) (d : Dev) : Dev :=
  match getGen d m g with
  | none => d
  | some x =>
    let prev := activeGen d m
    let d1 := genTo m g 3 2 d
    let base := (m.toNat * 2 ^ 32 + g.toNat * 2 ^ 16)
    let d2 := { d1 with num.current := d1.num.current.filter fun e => decide (e.1 / 65536 * 65536 ≠ base) }
    let d3 := match prev with
      | some p =>
        if x.forcePrev then tryRetired m p.1 (genTo m p.1 5 4 d2)
        else tryDrained m p.1 (startDrain m p.1 x.drainLimit (genTo m p.1 4 2 d2))
      | none => d2
    let d4 := setModel m { getModel d3 m with state := 1 } d3
    let d5 := endCmds (fun c => c.sub = 2 && c.model = m && c.gen = g) 0x0000 d4
    let d6 := if x.flotilla && !standalone d then flood 0x14 [] (genReport m g 2 0) d5 else d5
    pushHook { hook := 2, model := m, gen := g, layer := 0xFFFF, arg := 3 } d6

def activateReady (d : Dev) : Dev :=
  (d.plc.gens.filter fun e => e.2.state = 2 && mayActivate d e.2).foldl (fun x e =>
    activateGen (BitVec.ofNat 16 (e.1 / 65536)) (BitVec.ofNat 16 (e.1 % 65536)) x) d

end Sys2Proof.Machine
end

