-- ==== Sys2Proof/Machine/Policy.lean ====
section
/-! DEFINITION. The operator's policy programs on CP4: calls, hooks, aborts (R136, R137, R273), and the ends of event holds
(R139). -/

namespace Sys2Proof.Machine

def lkOf (l : LayerKey) : Nat := layerKey l.model l.gen l.layer

/-- A recipe record as its 16 bytes. -/
def recipeBytes (idx : Nat) (r : Recipe) : Bytes :=
  [BitVec.ofNat 8 idx, r.k, r.rounding, r.dynSlots, r.exec, r.next] ++ toLe 2 r.satLimit.toNat ++ toLe 2 r.zeroedLimit.toNat
    ++ toLe 2 r.rmsLo.toNat ++ toLe 2 r.rmsHi.toNat ++ [r.persist, 0]

/-- recipe_switch: the answer is 0 accepted, 1 pending, 2 refused. What a running hook asks for waits for the hook's end (R137). -/
def recipeSwitch (l : LayerKey) (idx : Nat) (d : Dev) : Dev :=
  if !policyRuns d then d else
    let lk := lkOf l
    let v := switchVerdict lk idx d
    emit (.policyResult v.1 []) (if d.num.policy.running.isSome ∧ v.1 ≠ 2 then
      { d with num.policy.asked := d.num.policy.asked ++ [(lk, idx)] } else (requestSwitch lk idx 0 d).2)

def execRecipeSwitch (l : LayerKey) (idx : Nat) (s : State) : Out := run (recipeSwitch l idx) s

/-- recipe_current: the index and the record. -/
def recipeCurrent (l : LayerKey) (d : Dev) : Dev :=
  let i := currentRecipe d (lkOf l)
  emit (.policyResult i (((recipeOf d (lkOf l) i).map (recipeBytes i)).getD [])) d

def execRecipeCurrent (l : LayerKey) (s : State) : Out := run (recipeCurrent l) s

/-- recipe_list: the layer's records. -/
def recipeList (l : LayerKey) (d : Dev) : Dev :=
  let rs := (List.range 16).filterMap fun i => (recipeOf d (lkOf l) i).map (recipeBytes i)
  emit (.policyResult rs.length rs.flatten) d

def execRecipeList (l : LayerKey) (s : State) : Out := run (recipeList l) s

/-- report: 2013h with the program's code and 8 bytes of payload. -/
def policyReport (code : W8) (payload : W64) (d : Dev) : Dev :=
  if !policyRuns d then d else
    raiseNum ⟨0x2013, 0, 0⟩ 0 0 uDevice (pay [(16, 1, code.toNat), (24, 8, payload.toNat)]) d

def execReport (code : W8) (payload : W64) (s : State) : Out := run (policyReport code payload) s

/-! Hooks. -/

/-- End a request that the admission program refuses: one final entry with ACCESS_DENIED, no token. -/
def denyCtx (i : Nat) (d : Dev) : Dev :=
  match getCtx d i with
  | none => d
  | some c =>
    if c.state ≠ 1 then d else
      endGroup i (cqDeliver c.fn c.ring
        { entry := entryOf c.tag 0x6001 1 0 i c.generated c.idsUsed c.bytesUsed 0xFFFFFFFF c.sq, data := [], ctx := some i } d)

/-- The running hook of the recipe program has ended: its switch requests are made, in order. -/
def hookEnd (d : Dev) : Dev :=
  d.num.policy.asked.foldl (fun x a => (requestSwitch a.1 a.2 0 x).2) { d with num.policy.running := none, num.policy.asked := [] }

/-- The oldest queued hook runs; the one before has ended. `adm` is what on_accept returns. -/
def hookInvoke (p : PolicyKind) (adm : Bool) (d : Dev) : Dev :=
  match p with
  | .recipe => match d.num.policy.queue with
    | [] => hookEnd d
    | h :: r => if policyRuns d then (let x := hookEnd d; { x with num.policy.queue := r, num.policy.running := some h }) else d
  | .admission => match d.srv.adm.queue with
    | [] => { d with srv.adm.running := none }
    | h :: r =>
      if !admitRuns d then d else
        let d1 := { d with srv.adm.queue := r, srv.adm.running := some h }
        if h.hook = 3 then (if adm then admitCtx h.arg d1 else denyCtx h.arg d1) else d1

def execHookInvoke (p : PolicyKind) (adm : Bool) (s : State) : Out := run (hookInvoke p adm) s

/-- Aborts within the last 60 s, this one included. -/
def recentAborts (now : W64) (l : List W64) : List W64 := now :: l.filter fun t => decide ((now - t).toNat ≤ 60000000000)

/-- Every request waits no longer for a program that no longer runs. -/
def admitAll (d : Dev) : Dev := { d with srv.ctxs := d.srv.ctxs.map fun c => (c.1, { c.2 with awaitHook := false }) }

/-- The running hook is aborted: none of its switch requests is made; the third abort in 60 s disables the program. -/
def hookAbort (p : PolicyKind) (d : Dev) : Dev :=
  match p with
  | .recipe => match d.num.policy.running with
    | none => d
    | some _ =>
      let ab := recentAborts d.time.cpNs d.num.policy.abortNs
      let d1 := { d with
        num.policy.running := none, num.policy.asked := [], num.policy.abortNs := ab
        num.policy.aborts := BitVec.ofNat 16 (satAdd 16 d.num.policy.aborts.toNat 1) }
      let d2 := raiseNum ⟨0x2012, 0, 0⟩ 3 0 uDevice (pay [(16, 1, 1), (20, 4, 1)]) d1
      if ab.length ≥ 3 then
        raiseNum ⟨0x2012, 0, 0⟩ 3 0 uDevice (pay [(16, 1, 3), (20, 4, ab.length)])
          { d2 with num.policy.disabled := true, num.policy.queue := [] }
      else d2
  | .admission => match d.srv.adm.running with
    | none => d
    | some h =>
      let ab := recentAborts d.time.cpNs d.srv.adm.abortNs
      let d1 := { d with srv.adm.running := none, srv.adm.abortNs := ab }
      let d2 := admitEvent 1 0 1 0 (if h.hook = 3 then admitCtx h.arg d1 else d1)
      if ab.length ≥ 3 then admitEvent 3 0 ab.length 0 (admitAll { d2 with srv.adm.disabled := true, srv.adm.queue := [] })
      else d2

def execHookAbort (p : PolicyKind) (s : State) : Out := run (hookAbort p) s

/-- Writing 1 to SRV_POLICY_CTL.disabled. -/
def policyReenable (d : Dev) : Dev := { d with num.policy.disabled := false, num.policy.abortNs := [] }
def execPolicyReenable (s : State) : Out := run policyReenable s

/-- Writing 1 to SRV_ADMIT_CTL.disabled. -/
def admitReenable (d : Dev) : Dev := { d with srv.adm.disabled := false, srv.adm.abortNs := [] }
def execAdmitReenable (s : State) : Out := run admitReenable s

/-- The admission program caps the share of class 2 or 3. -/
def setClassCap (cls share : Nat) (d : Dev) : Dev :=
  if admitRuns d && (cls = 2 || cls = 3) && decide (share ≤ 100) then { d with srv.caps := sSet d.srv.caps cls share } else d
def execSetClassCap (cls share : Nat) (s : State) : Out := run (setClassCap cls share) s

/-- The admission program's report. -/
def admitReport (code : W8) (payload : W64) (d : Dev) : Dev := if admitRuns d then admitEvent 4 code.toNat 1 payload d else d
def execAdmitReport (code : W8) (payload : W64) (s : State) : Out := run (admitReport code payload) s

/-- A hold of an event combination ends. -/
def execNumHoldEnd (key : HoldKey) (s : State) : Out := run (numHoldEnd key) s

end Sys2Proof.Machine
end

