-- ==== Sys2Proof/Machine/Plan.lean ====
section
/-! DEFINITION. The placement plan (R238–R242): wear allowance of its targets (R121), demand and wanted copies, and the entries that the
frozen statistics call for, in the order of R238 and within the budget of R239 (log entry 43). -/

namespace Sys2Proof.Machine

/-! Wear (R121). -/

/-- allowance of R121, in programs a day. -/
def allowance (d : Dev) (pid : Nat) : Rat :=
  let left := 10000 - programsOf d pid
  let days := max 1 (2557 - ptimeS d / 86400)
  let keep := ceilDiv days 30
  if left ≤ keep then 0 else ((left - keep : Nat) : Rat) / (days : Rat)

/-- The sum over the pool's planes, retired ones included (log entry 175). -/
def poolRate (d : Dev) : Rat := analoguePlanes.foldl (fun a pid => if inPool d pid then a + allowance d pid else a) 0

/-! Demand and wanted copies. -/

/-- Passes the calls of a generation would have fired in the epoch before. -/
def demandOf (d : Dev) (g : GenSt) : Nat := g.handles.foldl (fun a i => a + sGet 0 d.plc.frozenPasses i) 0

/-- Expert key: layer key × 65,536 + expert. -/
def expertKey (m g layer expert : W16) : Nat := layerKey m g layer * 65536 + expert.toNat

/-- Experts of a layer. -/
def expertsOf (g : GenSt) (layer : W16) : Nat :=
  ((g.tensors.filter fun e => fld e 12 2 = layer.toNat && fld e 14 2 ≠ 0xFFFF).map fun e => fld e 14 2).eraseDups.length

/-- Wanted copies of R240. -/
def wantedCopies (d : Dev) (m g layer expert : W16) : Nat :=
  if hinted d 3 m g layer then 1 else
    let key := expertKey m g layer expert
    let all := (d.plc.frozenExperts.filter fun e => e.1 / 65536 = key / 65536).foldl (fun a e => a + e.2) 0
    let x := ((getGen d m g).map fun y => expertsOf y layer).getD 0
    if all = 0 then 1 else min 4 (max 1 (ceilDiv (sGet 0 d.plc.frozenExperts key * x) (2 * all)))

/-- The handles of an expert's matrix, its copies last: the expert table's, or the one handle of an expert without copies. -/
def expertHandles (d : Dev) (g : GenSt) (layer expert : W16) (tensor : Nat) : List Nat :=
  g.handles.filter fun i => let h := getHandle d i
                            h.layer = layer && h.expert = expert && h.tensor = tensor && h.state ≠ 2

/-- Epochs in a row in which an expert wanted fewer copies than it has (R240). -/
def lowerCounts (d : Dev) : Store Nat :=
  d.plc.expertTab.foldl (fun m e =>
    let lk := e.1 / 65536
    let w := wantedCopies d (keyModel lk) (keyGen lk) (keyLayer lk) (BitVec.ofNat 16 e.1)
    let have_ := match getGen d (keyModel lk) (keyGen lk), e.2.head? with
      | some g, some i => (expertHandles d g (keyLayer lk) (BitVec.ofNat 16 e.1) (getHandle d i).tensor).length
      | _, _ => 0
    sPut 0 m e.1 (if w < have_ then sGet 0 d.plc.lower e.1 + 1 else 0)) d.plc.lower

/-! Segments and their order (R239). -/

def targets (e : PlanEntry) : List Nat := (e.segs.map (·.plane)).eraseDups

/-- The segment a plan segment places. -/
def planRef (d : Dev) (s : PlanSeg) : SegRef :=
  let h := getHandle d s.handle
  { handle := s.handle, model := h.model, gen := h.gen, tenant := h.tenant, rowSeg := s.seg / max 1 h.colSlabs, colSlab := s.seg % max 1 h.colSlabs }

/-- A segment of a generation in service, with its plane; none while its entry is digital. -/
structure PlanItem where
  model : W16
  gen : W16
  layer : W16
  expert : W16
  handle : Nat
  seg : Nat
  plane : Option Nat
  pos : Nat
  deriving DecidableEq, Repr

/-- Lexicographic order. -/
def lexLt : List Nat → List Nat → Bool
  | a :: x, b :: y => decide (a < b) || (decide (a = b) && lexLt x y)
  | [], _ :: _ => true
  | _, [] => false

/-- Ascending model, generation, layer, expert, segment and unit. -/
def PlanItem.order (x : PlanItem) : List Nat :=
  [x.model.toNat, x.gen.toNat, x.layer.toNat, x.expert.toNat, x.seg, x.plane.getD 0, x.handle]

/-- Segments of the generations in service, in order. -/
def planItems (d : Dev) : List PlanItem :=
  let gens := (d.plc.gens.map (·.2)).filter fun g => g.state = 3 || g.state = 4
  sortBy (fun a b => lexLt a.order b.order) (gens.flatMap fun g => (g.handles.filter fun i => (getHandle d i).state = 1).flatMap fun i =>
    let h := getHandle d i
    let l := curList h
    (List.range l.length).filterMap fun n => (l[n]?).map fun e =>
      { model := h.model, gen := h.gen, layer := h.layer, expert := h.expert, handle := i, seg := n
        plane := if e.digital then none else some e.loc, pos := e.pos })

/-- Segments of a list that a plane serves. -/
def onPlane (is : List PlanItem) (pid : Nat) : List PlanItem := is.filter fun x => x.plane = some pid
def planesOf (is : List PlanItem) : List Nat := (is.filterMap (·.plane)).eraseDups
def pinnedItem (d : Dev) (x : PlanItem) : Bool := hinted d 4 x.model x.gen x.layer
/-- The affinity hints on a segment allow a die. -/
def itemOn (d : Dev) (x : PlanItem) (die : Nat) : Bool := dieAllowed d x.model x.gen x.layer die
/-- Calls in the epoch before. -/
def itemCalls (d : Dev) (is : List PlanItem) : Nat := is.foldl (fun a x => a + sGet 0 d.plc.frozenCalls x.handle) 0

/-! The plan in the making. -/

/-- Entries so far, the planes they take and the handles' segments they move; the budget left, whether an entry was dropped, how many were,
and the hints that could not be honoured: kind, model, generation, layer. -/
structure PlanDraft where
  out : List PlanEntry := []
  taken : List Nat := []
  moved : List (Nat × Nat) := []
  left : Nat
  full : Bool := false
  dropped : Nat := 0
  unmet : List (Nat × W16 × W16 × W16) := []
  deriving DecidableEq, Repr

/-- An entry of 1 to 5 spends as many programs as it has targets; the first that needs more than is left is dropped, and all later ones
with it (R239). -/
def PlanDraft.spend (e : PlanEntry) (p : PlanDraft) : PlanDraft :=
  let n := (targets e).length
  if p.full || decide (n > p.left) then { p with full := true, dropped := p.dropped + 1 }
  else { p with out := p.out ++ [e], taken := p.taken ++ targets e, moved := p.moved ++ e.segs.map fun s => (s.handle, s.seg), left := p.left - n }

/-- An entry that programs nothing (R238). -/
def PlanDraft.free (e : PlanEntry) (p : PlanDraft) : PlanDraft := { p with out := p.out ++ [e] }

/-- A hint that this plan cannot honour. -/
def PlanDraft.miss (h : Nat × W16 × W16 × W16) (p : PlanDraft) : PlanDraft :=
  { p with unmet := if p.unmet.contains h then p.unmet else p.unmet ++ [h] }

def PlanDraft.untouched (p : PlanDraft) (is : List PlanItem) : Bool := is.all fun x => !p.moved.contains (x.handle, x.seg)

/-- Segments put on a plane. -/
def placeOn (pid : Nat) (is : List PlanItem) : List PlanSeg := is.map fun x => ⟨x.handle, x.seg, pid, Fin.ofNat 4 x.pos⟩
/-- Segments packed four to a plane, in order. -/
def packed (is : List PlanItem) : List (List PlanItem) :=
  (List.range (ceilDiv is.length 4)).map fun i =>
    let part := (is.drop (4 * i)).take 4
    (part.zip (List.range 4)).map fun x => { x.1 with pos := x.2 }

/-- Planes the plan may take for some segments: Free, with allowance, not taken, on dies allowed, and the content fits (R112, R239). -/
def targetPlanes (d : Dev) (pool : List Nat) (dieOk : Nat → Bool) (is : List PlanItem) (taken : List Nat) : List Nat :=
  pool.filter fun q => !taken.contains q && dieOk (pkDie q) && decide (allowance d q > 0) && is.all (fun x => itemOn d x (pkDie q))
    && contentFits d q ((placeOn q is).foldl (fun m s => sSet m s.pos.val (planRef d s)) [])

/-- The one with the lowest program count, then the lowest unit (R239). -/
def targetFor (d : Dev) (pool : List Nat) (dieOk : Nat → Bool) (is : List PlanItem) (taken : List Nat) : Option Nat :=
  (targetPlanes d pool dieOk is taken).foldl (fun b q => match b with
    | none => some q
    | some x => if lexLt [programsOf d q, q] [programsOf d x, x] then some q else b) none

/-- Targets for groups of segments, one plane each; none where some group has none. -/
def targetsFor (d : Dev) (pool : List Nat) (dieOk : Nat → Bool) (groups : List (List PlanItem)) (taken : List Nat) : Option (List PlanSeg) :=
  groups.foldl (fun acc g => acc.bind fun out =>
    (targetFor d pool dieOk g (taken ++ out.map (·.plane))).map fun q => out ++ placeOn q g) (some [])

/-- An entry that places segments of the first one's matrix. -/
def planEntry (kind : Fin 8) (x : PlanItem) (segs : List PlanSeg) : PlanEntry := ⟨kind, x.handle, segs, x.model, x.gen, x.layer, x.expert⟩

/-- Move groups of segments: an entry where each has a target, else nothing but what `no` says. -/
def PlanDraft.move (d : Dev) (kind : Fin 8) (pool : List Nat) (dieOk : Nat → Bool) (groups : List (List PlanItem)) (no : PlanDraft → PlanDraft)
    (p : PlanDraft) : PlanDraft :=
  match groups.flatten with
  | [] => p
  | x :: r =>
    if !p.untouched (x :: r) then p else
      match targetsFor d pool dieOk groups p.taken with
      | some segs =>
        let q := p.spend (planEntry kind x segs)
        if q.full then no q else q
      | none => no p

/-! The steps of R238. -/

/-- Step 1: segments on a die that an affinity hint excludes move, each plane's together; segments under a pin that lost their plane get one
again. -/
def hintMoves (d : Dev) (is : List PlanItem) (free : List Nat) (p : PlanDraft) : PlanDraft :=
  let off := (planesOf is).filter fun q => (onPlane is q).any fun x => !itemOn d x (pkDie q)
  let p1 := off.foldl (fun a q =>
    let g := onPlane is q
    let why := g.filter fun x => !itemOn d x (pkDie q)
    a.move d 1 free (fun _ => true) [g] (fun b => why.foldl (fun c x => c.miss (1, x.model, x.gen, x.layer)) b)) p
  let bare := is.filter fun x => x.plane.isNone && pinnedItem d x && !layerDigital d (layerKey x.model x.gen x.layer)
    && !(getGen d x.model x.gen).any (fun g => g.swappable && !g.swappedIn)
    && !(d.arr.planes.any fun e => e.2.segs.any fun s => s.2.handle = x.handle && segIndex (getHandle d x.handle) s.2 = x.seg)
  ((bare.map (·.handle)).eraseDups).foldl (fun a i =>
    (packed (bare.filter fun x => x.handle = i)).foldl (fun b g =>
      b.move d 1 free (fun _ => true) [g] (fun c => g.foldl (fun e x => e.miss (4, x.model, x.gen, x.layer)) c)) a) p1

/-- A die that stayed within 5 °C of its throttle point for the epoch; one that is 10 °C or more below its own. -/
def dieHot (d : Dev) (n : Nat) : Bool := !d.plc.frozenCooled.getLsbD n && decide ((getDie d n).temp + 20 > 4 * (throttlePoint d (4 + n) : Int))
def dieCool (d : Dev) (n : Nat) : Bool := decide ((getDie d n).temp + 40 ≤ 4 * (throttlePoint d (4 + n) : Int))

/-- Step 2: planes of hot dies, busiest first, to cool dies; pinned segments stay. -/
def thermalMoves (d : Dev) (is : List PlanItem) (free : List Nat) (p : PlanDraft) : PlanDraft :=
  let hot := (planesOf is).filter fun q => dieHot d (pkDie q) && (onPlane is q).all fun x => !pinnedItem d x
  (sortBy (fun a b => decide (itemCalls d (onPlane is a) > itemCalls d (onPlane is b))) hot).foldl (fun a q =>
    a.move d 2 free (dieCool d) [onPlane is q] id) p

/-- An expert's matrices in service: model, generation, layer, expert, tensor. -/
def planExperts (is : List PlanItem) : List (W16 × W16 × W16 × W16) :=
  ((is.filter fun x => x.expert ≠ 0xFFFF).map fun x => (x.model, x.gen, x.layer, x.expert)).eraseDups
def expertTensors (d : Dev) (is : List PlanItem) (x : W16 × W16 × W16 × W16) : List Nat :=
  ((is.filter fun i => (i.model, i.gen, i.layer, i.expert) = x).map fun i => (getHandle d i.handle).tensor).eraseDups

/-- Step 3: copies of experts that want more than they have. -/
def replicaAdds (d : Dev) (is : List PlanItem) (free : List Nat) (p : PlanDraft) : PlanDraft :=
  (planExperts is).foldl (fun a x => match getGen d x.1 x.2.1 with
    | none => a
    | some g => (expertTensors d is x).foldl (fun b t =>
      match expertHandles d g x.2.2.1 x.2.2.2 t with
      | [] => b
      | i :: r =>
        (List.range (wantedCopies d x.1 x.2.1 x.2.2.1 x.2.2.2 - (r.length + 1))).foldl (fun c _ =>
          match targetsFor d free (fun _ => true) (packed (is.filter fun y => y.handle = i)) c.taken, is.find? fun y => y.handle = i with
          | some segs, some y => { c.spend (planEntry 3 y segs) with moved := c.moved }
          | _, _ => c) b) a) p

/-- Segments of a generation. -/
def genItems (is : List PlanItem) (k : Nat) : List PlanItem := is.filter fun x => genKey x.model x.gen = k

/-- The entry of a swap: the whole generation. -/
def swapEntry (kind : Fin 8) (x : PlanItem) (segs : List PlanSeg) : PlanEntry := ⟨kind, x.handle, segs, x.model, x.gen, 0xFFFF, 0xFFFF⟩

/-- Planes of a generation's segments. -/
def genPlanes (d : Dev) (g : GenSt) : List Nat :=
  (d.arr.planes.filter fun e => !e.2.segs.isEmpty && e.2.segs.all fun s => g.handles.contains s.2.handle).map (·.1)

/-- Fewest of the victims, least demanded first, whose planes make room for a swap-in. -/
def victimsFor (d : Dev) (cand : Nat) (try_ : List Nat → Option (List PlanSeg)) :
    List (Nat × GenSt) → List (Nat × GenSt) → Nat → Option (List (Nat × GenSt) × List PlanSeg)
  | [], _, _ => none
  | v :: r, out, sum =>
    let s := sum + demandOf d v.2
    if 2 * s ≥ cand then none else
      let vs := out ++ [v]
      match try_ (vs.flatMap fun x => genPlanes d x.2) with
      | some segs => some (vs, segs)
      | none => victimsFor d cand try_ r vs s

/-- Steps 4 and 7: swap-ins by descending demand; where the pool's Free planes do not suffice, the least-demanded unpinned models whose
demand together is below half leave first (R241). A model under keep-digital leaves the pool (R242). -/
def swapMoves (d : Dev) (is : List PlanItem) (p : PlanDraft) : PlanDraft :=
  let live := d.plc.gens.filter fun e => (e.2.state = 3 || e.2.state = 4) && e.2.swappable
  let hintOn : Nat → Nat × GenSt → Bool := fun kind e => hintedModel d kind (BitVec.ofNat 16 (e.1 / 65536)) (BitVec.ofNat 16 (e.1 % 65536))
  let out (e : Nat × GenSt) (a : PlanDraft) : PlanDraft := match genItems is e.1 with
    | x :: _ => a.free (swapEntry 7 x [])
    | [] => a
  let p1 := (live.filter fun e => e.2.swappedIn && hintOn 2 e).foldl (fun a e => out e a) p
  let more : Nat × GenSt → Nat × GenSt → Bool := fun a b => decide (demandOf d a.2 > demandOf d b.2)
  let cands := sortBy more (live.filter fun e => !e.2.swappedIn && !hintOn 2 e && decide (demandOf d e.2 ≥ d.plc.swapMin.toNat))
  let victims := sortBy (fun a b => more b a) (live.filter fun e => e.2.swappedIn && !hintOn 4 e && !hintOn 2 e)
  (cands.foldl (fun (acc : PlanDraft × Nat × List Nat) e =>
    let (a, tokens, gone) := acc
    match genItems is e.1 with
    | [] => acc
    | x :: r =>
      let groups := packed (x :: r)
      let try_ : List Nat → Option (List PlanSeg) := fun freed => targetsFor d (freePlanes d true ++ freed) (fun _ => true) groups a.taken
      let n := groups.length
      if (n : Rat) + (tokens : Rat) > d.arr.swapTokens then acc else
        match try_ [] with
        | some segs =>
          let b := a.spend (swapEntry 4 x segs)
          if b.full then (b, tokens, gone) else (b, tokens + n, gone)
        | none =>
          match victimsFor d (demandOf d e.2) try_ (victims.filter fun v => !gone.contains v.1) [] 0 with
          | none => acc
          | some (vs, segs) =>
            let b := a.spend (swapEntry 4 x segs)
            if b.full then (b, tokens, gone) else (vs.foldl (fun c v => out v c) b, tokens + n, gone ++ vs.map (·.1))) (p1, 0, [])).1

/-- A matrix called in more than half of the epoch's sailings. -/
def busyHandle (d : Dev) (i : Nat) : Bool := decide (2 * sGet 0 d.plc.frozenSailed i > d.plc.frozenSailings)

/-- Step 5: of the busy segments of a tile the one with the most calls stays; the others move apart, to tiles without one. -/
def separations (d : Dev) (is : List PlanItem) (free : List Nat) (p : PlanDraft) : PlanDraft :=
  let busy := is.filter fun x => x.plane.isSome && busyHandle d x.handle
  let tileOf : PlanItem → Nat := fun x => tileKey (x.plane.getD 0)
  let calls : PlanItem → Nat := fun x => sGet 0 d.plc.frozenCalls x.handle
  let taken : List Nat := (busy.map tileOf).eraseDups
  (taken.foldl (fun (acc : PlanDraft × List Nat) t =>
    match sortBy (fun a b => decide (calls a > calls b)) (busy.filter fun x => tileOf x = t) with
    | [] => acc
    | _ :: rest => (rest.filter fun x => !pinnedItem d x).foldl (fun (a : PlanDraft × List Nat) x =>
      let pool := free.filter fun q => !a.2.contains (tileKey q)
      let b := a.1.move d 5 pool (fun _ => true) [[{ x with pos := 0 }]] id
      (b, a.2 ++ (b.taken.drop a.1.taken.length).map tileKey)) acc) (p, taken)).1

/-- Step 6: copies beyond the wanted number, once it has stayed lower for 3 epochs (R240). -/
def replicaDrops (d : Dev) (is : List PlanItem) (p : PlanDraft) : PlanDraft :=
  (planExperts is).foldl (fun a x => match getGen d x.1 x.2.1 with
    | none => a
    | some g =>
      let key := expertKey x.1 x.2.1 x.2.2.1 x.2.2.2
      if sGet 0 d.plc.lower key < 3 then a else
        (expertTensors d is x).foldl (fun b t =>
          ((expertHandles d g x.2.2.1 x.2.2.2 t).drop (wantedCopies d x.1 x.2.1 x.2.2.1 x.2.2.2)).foldl (fun c i =>
            c.free ⟨6, i, [], x.1, x.2.1, x.2.2.1, x.2.2.2⟩) b) a) p

/-- The plan that the frozen statistics call for (R238–R242). -/
def planDue (d : Dev) : PlanDraft :=
  let is := planItems d
  let free := freePlanes d false
  let p0 : PlanDraft := { left := d.plc.migRate.toNat * d.plc.seconds.toNat }
  replicaDrops d is (separations d is free (swapMoves d is (replicaAdds d is free (thermalMoves d is free (hintMoves d is free p0)))))

end Sys2Proof.Machine
end

