-- ==== Sys2Proof/Machine/Epochs.lean ====
section
/-! DEFINITION. Placement epochs (R238–R242): the plan and its budget, migrations, replicas, the swap pool (R121, R241),
cross-module agreement at the boundary (R317–R319), and the placement queries. -/

namespace Sys2Proof.Machine

/-! Release of planes and copies. -/

/-- Some segment of a plane is on the current list of its handle. -/
def onList (d : Dev) (pid : Nat) : Bool :=
  (getPlane d pid).segs.any fun s => (curList (getHandle d s.2.handle)).any fun e => !e.digital && e.loc = pid

/-- A plane that a load, a migration in progress or a refresh needs. -/
def planeClaimed (d : Dev) (pid : Nat) : Bool :=
  d.plc.loads.any (fun l => l.planes.contains pid)
    || d.plc.plan.any (fun r => !r.done && !r.withdrawn && r.entry.segs.any fun s =>
        s.plane = pid && (getPlane d pid).segs.any fun x => x.2.handle = s.handle || r.copy = some x.2.handle)
    || d.arr.refreshes.any (fun r => r.1 = pid || r.2.shadow = some pid)
    || (getPlane d pid).segs.any fun s =>
      let h := getHandle d s.2.handle
      layerDigital d (layerKey h.model h.gen h.layer) && !(getGen d h.model h.gen).any fun g => g.swappable && !g.swappedIn

/-- Free Active planes that a flip has emptied, once no call uses the old list (R82). -/
def sweepPlanes (d : Dev) : Dev :=
  (d.arr.planes.filter fun p => decide (planeState d p.1 = 3) && !p.2.segs.isEmpty && !onList d p.1 && !planeClaimed d p.1 && !planeInUse d p.1).foldl
    (fun x p => freePlane p.1 x) d

/-- Copies that a removal has retired become invalid once no call uses them (R175, R240). -/
def sweepCopies (d : Dev) : Dev :=
  d.plc.gens.foldl (fun x g =>
    if g.2.state ≠ 3 ∧ g.2.state ≠ 4 then x else
      let out := g.2.handles.filter fun i => decide ((getHandle x i).state = 2) && !(x.arr.calls.any fun c => c.handle.toNat % 2 ^ 20 = i)
      if out.isEmpty then x else
        let y := genDropHandles out false (genFreePlanes out x)
        { y with plc.gens := sSet y.plc.gens g.1 { g.2 with handles := g.2.handles.filter fun i => !out.contains i } }) d

/-- Segments that a separation moved elsewhere leave a plane that goes on with the others, once no call uses them (R82). -/
def sweepSegs (d : Dev) : Dev :=
  let served : Nat → SegRef → Bool := fun pid s => match (curList (getHandle d s.handle))[segIndex (getHandle d s.handle) s]? with
    | some e => e.digital || decide (e.loc = pid)
    | none => true
  (d.arr.planes.filter fun p => decide (planeState d p.1 = 3) && p.2.segs.any (fun s => !served p.1 s.2) && onList d p.1
      && !planeClaimed d p.1 && !planeInUse d p.1).foldl
    (fun x p => modPlane p.1 (fun q => { q with segs := q.segs.filter fun s => served p.1 s.2 }) x) d

def sweep (d : Dev) : Dev := goldenFollow (sweepSegs (sweepPlanes (sweepCopies d)))

/-- The end of an array call (R174) lets generations, copies and planes go that waited for it (R233, R82). -/
def execArrayCallComplete (k : CoreIx) (ticket : W32) (s : State) : Out :=
  run (fun d => sweep (retireAll (arrayCallComplete k.val ticket d))) s

/-! Wear (R121). -/

/-- Tokens accrue at rate / 86,400 a second of powered time, up to one day's rate. -/
def swapAccrue (seconds : Nat) (d : Dev) : Dev :=
  let r := poolRate d
  { d with arr.swapTokens := min r (d.arr.swapTokens + r * (seconds : Rat) / 86400) }

def execSwapTokenAccrue (seconds : Nat) (s : State) : Out := run (swapAccrue seconds) s

/-- CP2 has computed the plan for the next epoch. One that is not the plan the statistics call for, or that CP5's sample finds wrong, is
withdrawn and charges CP2 (R339, R340; log entry 43); hints that the plan cannot honour are reported (R242). -/
def planComputed (plan : List PlanEntry) (checked : Bool) (d : Dev) : Dev :=
  let d1 := { d with plc.lower := lowerCounts d }
  let due := planDue d1
  if !checked || plan ≠ due.out then cpFault 3 2 { d with plc.nextPlan := [], plc.nextDropped := 0, plc.computing := false }
  else
    let d2 := due.unmet.foldl (fun x h =>
      hintEvent h.1 1 h.2.1 h.2.2.1 h.2.2.2 (((getGen x h.2.1 h.2.2.1).map (·.owner)).getD 0) x) d1
    { d2 with plc.nextPlan := plan, plc.nextDropped := due.dropped, plc.computing := false }

def execPlanComputed (plan : List PlanEntry) (checked : Bool) (s : State) : Out := run (planComputed plan checked) s

/-! Taking a plan into force. -/

/-- A plane, or its die, that reliability has marked Suspect or retired. -/
def planeMarked (d : Dev) (p : Nat) : Bool := decide (planeState d p ≥ 6) || (getDie d (pkDie p)).suspect || (getDie d (pkDie p)).retired

/-- Planes that an entry's segments leave. -/
def sources (d : Dev) (e : PlanEntry) : List Nat :=
  if e.kind.val = 3 then [] else
    e.segs.filterMap fun s => ((curList (getHandle d s.handle))[s.seg]?).bind fun x => if x.digital then none else some x.loc

/-- The rank whose decision overrides an entry (R24): 2 while the owner is scrubbed, 4 where a target or a source is Suspect or retired, 5
where placement itself has taken a target meanwhile. -/
def overridden (d : Dev) (e : PlanEntry) : Option Nat :=
  match getGen d e.model e.gen with
  | none => some 5
  | some g =>
    if sGet 0 d.sec.slots g.owner = 2 then some 2
    else if (targets e).any (planeMarked d) || (sources d e).any (planeMarked d) then some 4
    else if (targets e).any (fun p => decide (planeState d p ≠ 0) || !(getPlane d p).segs.isEmpty || progWaits d p) then some 5 else none

/-- 900Ah: an entry is withdrawn under R24. -/
def withdrawnEvent (e : PlanEntry) (rank : Nat) (d : Dev) : Dev :=
  raise 0x900A 1 0 uDevice (pay [(16, 4, d.plc.epoch.toNat), (20, 4, e.handle), (24, 1, rank)]) d

/-- A new handle for a copy of a matrix: invalid until its planes are verified (R240). -/
def copyHandle (i : Nat) (d : Dev) : Option Nat × Dev :=
  let used : Nat → Bool := fun n => indexKept (getHandle d n)
  match pickFree (2 ^ 20) used d with
  | (some n, x) =>
    let h := getHandle x i
    (some n, modGen h.model h.gen (fun g => { g with handles := g.handles ++ [n] })
      (writeBlock n (setHandle n { h with
        state := 0, list0 := [], list1 := [], listSel := false, goldenAt := [], goldenHdr := [], staged := [], copies := [], digBad := []
        blockAddr := blockTop x h.tenant } x)))
  | r => r

/-- Start an entry's programs. A swap-in needs as many tokens as planes, else it waits for the next epoch (R121). -/
def startEntry (r : PlanRun) (d : Dev) : PlanRun × Dev :=
  let e := r.entry
  match overridden d e with
  | some rank => ({ r with withdrawn := true, overruled := true }, withdrawnEvent e rank d)
  | none =>
    let n := (targets e).length
    if e.kind.val = 4 ∧ d.arr.swapTokens < (n : Rat) then ({ r with withdrawn := true }, d)
    else
      let d0 := if e.kind.val = 4 then { d with arr.swapTokens := d.arr.swapTokens - (n : Rat) } else d
      let c := if e.kind.val = 3 then copyHandle e.handle d0 else (some e.handle, d0)
      match c.1 with
      | none => ({ r with withdrawn := true }, c.2)
      | some i =>
        let refOf : PlanSeg → Dev → SegRef := fun s x => let y := planRef x s
                                                         if e.kind.val = 3 then { y with handle := i } else y
        let d1 := e.segs.foldl (fun x s => modPlane s.plane (fun p => { p with segs := sSet p.segs s.pos.val (refOf s x) }) x) c.2
        let d2 := (targets e).foldl (fun x p => startProgram (if e.kind.val = 4 then 3 else 0) p (alignPlane p x)) d1
        -- a swap-in takes the digital entries that a waiting switch asked for (R136)
        let d3 := if e.kind.val = 4 then (liveLayers d2 e.model).foldl (fun x lk => if keyGen lk = e.gen then switchWithdrawn lk x else x) d2 else d2
        ({ r with copy := if e.kind.val = 3 then some i else none }, d3)

/-- Replica removal: the handle leaves the expert table and retires (R240). Swap-out: the lists go to digital entries
(R241). -/
def immediateEntry (r : PlanRun) (d : Dev) : PlanRun × Dev :=
  let e := r.entry
  if e.kind.val = 6 then
    let key := expertKey e.model e.gen e.layer e.expert
    let left := (sGet [] d.plc.expertTab key).filter (· ≠ e.handle)
    ({ r with done := true }, setHandle e.handle { getHandle d e.handle with state := 2 }
      { d with plc.expertTab := sSet d.plc.expertTab key left })
  else
    match getGen d e.model e.gen with
    | none => ({ r with withdrawn := true }, d)
    | some g =>
      let planes := d.arr.planes.countP fun p => p.2.segs.any fun s => g.handles.contains s.2.handle
      let d1 := g.handles.foldl (fun x i => let y := digitalList (getHandle x i) x
                                            flipHandle i y.1 y.2) d
      let d2 := modGen e.model e.gen (fun x => { x with swappedIn := false }) d1
      ({ r with done := true }, (loadEv 0x900C 1 g.owner e.model e.gen [(20, 1, 2), (24, 4, planes)] d2))

/-- Abandon a migration that its epoch did not complete: its targets become Free, a new copy's handle goes (R238). -/
def abandonEntry (r : PlanRun) (d : Dev) : Dev :=
  if r.done || r.withdrawn then d else
    let d1 := (targets r.entry).foldl (fun x p => if decide (planeState x p ≤ 3) then freePlane p x else x) d
    match r.copy with
    | some i => modGen r.entry.model r.entry.gen (fun g => { g with handles := g.handles.filter (· ≠ i) }) (genDropHandles [i] false d1)
    | none => d1

/-- Switches that wait for digital entries try again; one that two epochs could not serve is refused (R136). -/
def waitSwitches (d : Dev) : Dev :=
  d.num.pending.foldl (fun x e => match e.2.waitEpochs with
    | none => x
    | some n =>
      if layerRoom x e.1 then
        layerToDigital e.1 { x with num.pending := sSet x.num.pending e.1 { e.2 with waitEpochs := none } }
      else if n ≤ 1 then refuseSwitch e.1 e.2.idx.toNat 3 { x with num.pending := sDel x.num.pending e.1 }
      else { x with num.pending := sSet x.num.pending e.1 { e.2 with waitEpochs := some (n - 1) } }) d

/-- Agreement on the cross-module plan at the boundary into an epoch (R318 steps 4 and 5, R319). -/
def agreePlan (n : Nat) (d : Dev) : Dev :=
  if standalone d || (viewMembers d).length ≤ 1 then d else
    let own := match d.fab.ownPlan with
      | some p => if p.1 = n then some p else none
      | none => none
    let agrees : Nat → Bool := fun m => m = selfMember d || match own, sFind d.fab.plans m with
      | some p, some q => decide (q.1 = n ∧ q.2.1 = d.fab.view ∧ q.2.2 = p.2.1)
      | _, _ => false
    match own with
    | some p =>
      if (viewMembers d).all agrees then
        let held := (d.fab.copies.filter fun e => e.2.contains (selfMember d) && !(sGet [] p.2.2 e.1).contains (selfMember d)).map (·.1)
        { d with fab.copies := p.2.2, fab.planEpoch := BitVec.ofNat 32 n, fab.fails := 0, fab.leaving := held, fab.ownPlan := none }
      else planFailed agrees { d with fab.ownPlan := none }
    | none => planFailed agrees d
where
  planFailed (agrees : Nat → Bool) (d : Dev) : Dev :=
    let f := satAdd 8 d.fab.fails.toNat 1
    let d1 := { d with fab.fails := BitVec.ofNat 8 f }
    let bitmap := (viewMembers d).foldl (fun a m => if agrees m then a else a + 2 ^ m) 0
    if f = 3 then raise 0x8004 2 0 uDevice (pay [(16, 4, n), (20, 1, f), (24, 8, bitmap)]) d1 else d1

/-- Statistics of the closed epoch, flooded to the members: epoch, free planes, expert counts (R318; log entry 23). -/
def statsBody (epoch : Nat) (d : Dev) : Bytes :=
  toLe 4 epoch ++ toLe 4 (d.arr.planes.countP fun p => !p.2.segs.isEmpty)
    ++ d.plc.frozenExperts.flatMap fun e => toLe 8 (e.1 / 65536) ++ toLe 2 e.1 ++ toLe 4 e.2

/-- Take the entries of a plan that satisfy p, in order. -/
def planPass (p : PlanRun → Bool) (f : PlanRun → Dev → PlanRun × Dev) (d : Dev) : Dev :=
  let r := d.plc.plan.foldl (fun (acc : List PlanRun × Dev) x =>
    if p x then let y := f x acc.2; (acc.1 ++ [y.1], y.2) else (acc.1 ++ [x], acc.2)) ([], d)
  { r.2 with plc.plan := r.1 }

/-- An epoch ends (R238, R317): statistics freeze, unfinished migrations are abandoned, the computed plan comes into force. -/
def epochBoundary (d : Dev) : Dev :=
  let old := d.plc.epoch
  let new_ : W32 := match d.fab.jump with
    | some j => if j.toNat > (old + 1).toNat then j else old + 1
    | none => old + 1
  let d1 := d.plc.plan.foldl (fun x r => abandonEntry r x) d
  let d2 := { d1 with
    arr.handles := d1.arr.handles.map fun h =>
      (h.1, if h.2.freedEpoch = 0 then h.2 else { h.2 with freedEpoch := min 3 (h.2.freedEpoch + 1) })
    plc.epoch := new_, plc.secondsNow := d1.plc.seconds, plc.computing := true, fab.jump := none, fab.leaving := []
    plc.frozenPasses := d1.plc.passes, plc.frozenExperts := d1.plc.experts, plc.passes := [], plc.experts := []
    plc.frozenCalls := d1.plc.calls, plc.frozenSailed := d1.plc.sailed, plc.frozenSailings := d1.plc.sailings, plc.calls := [], plc.sailed := []
    plc.sailings := 0, plc.frozenCooled := d1.plc.cooled, plc.cooled := 0
    plc.dropped := d1.plc.nextDropped, plc.nextPlan := [], plc.nextDropped := 0, plc.plan := d1.plc.nextPlan.map fun e => { entry := e } }
  let d3 := raise 0x9009 1 0 uDevice (pay [(16, 4, new_.toNat), (20, 4, d2.plc.plan.length), (24, 4, d2.plc.dropped)]) d2
  -- what leaves makes room for what comes (R241)
  let leave := planPass (fun x => decide (x.entry.kind.val ≥ 6)) immediateEntry d3
  let come := planPass (fun x => decide (x.entry.kind.val < 6)) startEntry (sweep leave)
  let d4 := sweep (waitSwitches (agreePlan new_.toNat ((come.plc.gens.map fun g => BitVec.ofNat 16 (g.1 / 65536)).eraseDups.foldl (fun x m => honourDigital m x) come)))
  let d5 := joinRefresh (pushHook { hook := 1, model := 0, gen := 0, layer := 0xFFFF, arg := old.toNat } d4)
  if standalone d5 then d5 else flood 0x12 [] (statsBody old.toNat d5) d5

def execEpochBoundary (s : State) : Out := run epochBoundary s

/-- A handle's segments serve from planes: its layer is not on digital entries. -/
def handleAnalog (d : Dev) (i : Nat) : Bool := let h := getHandle d i
                                              !layerDigital d (layerKey h.model h.gen h.layer)

/-- Put a plan segment's new place into its handle's list. -/
def moveSeg (hs : List MapEnt) (d : Dev) (h : HandleEnt) (i : Nat) (segs : List PlanSeg) : List MapEnt :=
  (List.range hs.length).map fun n => match segs.find? fun s => s.seg = n with
    | some s => { analogEnt d h { handle := i, model := h.model, gen := h.gen, tenant := h.tenant, rowSeg := n / max 1 h.colSlabs, colSlab := n % max 1 h.colSlabs } s.plane s.pos.val with valid := true }
    | none => hs.getD n { loc := 0 }

/-- A migration's targets are verified: the lists flip, the source is freed, a copy or a swap-in comes into use (R238,
R240, R241). -/
def migrationComplete (n : Nat) (d : Dev) : Dev :=
  match d.plc.plan[n]? with
  | none => d
  | some r =>
    let e := r.entry
    if r.done || r.withdrawn || e.kind.val ≥ 6 || !(targets e).all (fun p => decide (planeState d p = 3)) then d else
      let done : Dev → Dev := fun x => { x with plc.plan := x.plc.plan.set n { r with done := true } }
      match r.copy with
      | some i =>
        let h := getHandle d i
        let src := curList (getHandle d e.handle)
        let d1 := setHandle i { h with state := 1, list0 := moveSeg src d h i e.segs, listSel := false } (done d)
        let key := expertKey e.model e.gen e.layer e.expert
        let cur := sGet [] d1.plc.expertTab key
        -- the table lists every handle of the expert, its first one too
        { d1 with plc.expertTab := sSet d1.plc.expertTab key ((if cur.contains e.handle then cur else cur ++ [e.handle]) ++ [i]) }
      | none =>
        let hs := ((e.segs.map (·.handle)).eraseDups).filter (handleAnalog d)
        let d1 := hs.foldl (fun x i =>
          let h := getHandle x i
          flipHandle i (moveSeg (curList h) x h i (e.segs.filter fun s => s.handle = i)) x) (done d)
        let d2 := if e.kind.val = 4 then
            let owner := ((getGen d1 e.model e.gen).map (·.owner)).getD 0
            loadEv 0x900C 1 owner e.model e.gen [(20, 1, 1), (24, 4, (targets e).length)] (modGen e.model e.gen (fun g => { g with swappedIn := true }) d1)
          else d1
        let d3 := sweep d2
        (targets e).foldl (fun x p => storeCompact p x) d3

def execMigrationComplete (index : Nat) (s : State) : Out := run (migrationComplete index) s

/-! Queries. -/

def execPlcGenQuery (v : W32) (s : State) : Out :=
  run (fun d => { d with plc.genQuery := v.truncate 16, plc.genValid := true }) s

def execPlcAttQuery (v : W32) (s : State) : Out :=
  run (fun d => { d with plc.attQuery := v.truncate 6, plc.attValid := true }) s

end Sys2Proof.Machine
end

