-- ==== Sys2Proof/Machine/Refresh.lean ====
section
/-! DEFINITION. Defects (R109), the choice of a shadow (R117), hard limits (R108), results of passes: calls (R92, R141), null passes
(R102), candles (R103–R105), pilot self-checks (R90); flags (R106, R108), program and verify (R118), the refresh sequence (R119),
correction-record copies (R96), store scrub (R116). -/

namespace Sys2Proof.Machine

/-! Programs that end without their plane. -/

/-- The load, the migration or the refresh a plane is programmed for. -/
def loadFor (d : Dev) (pid : Nat) : Option LoadSt := d.plc.loads.find? fun l => l.planes.contains pid
def planFor (d : Dev) (pid : Nat) : Option Nat :=
  d.plc.plan.findIdx? fun r => !r.done && !r.withdrawn && r.entry.segs.any fun s => s.plane = pid

/-- A program has failed, or its plane was retired: the next candidate takes its place (R112, R119, R229). -/
def programFailed (pid : Nat) (d : Dev) : Dev :=
  match loadFor d pid with
  | some l => replaceLoadPlane l pid d
  | none =>
    match d.arr.refreshes.find? fun e => e.2.shadow = some pid with
    | some (old, r) =>
      let d1 := if planeState d pid = 7 then stopProgram pid d else freePlane pid d
      { d1 with arr.refreshes := sSet d1.arr.refreshes old { r with step := 2, shadow := none, tried := pid :: r.tried } }
    | none =>
      if (sFind d.arr.refreshes pid).isSome && planeState d pid ≠ 7 then
        startProgram 1 pid (alignPlane pid (stopProgram pid d))
      else
        match planFor d pid with
        | some n =>
          match d.plc.plan[n]? with
          | some r =>
            let gone := decide (planeState d pid = 7)
            let d1 := abandonEntry r (if gone then stopProgram pid d else d)
            let d2 := { d1 with plc.plan := d1.plc.plan.set n { r with withdrawn := true, overruled := gone } }
            if gone then withdrawnEvent r.entry 4 d2 else d2
          | none => d
        | none => if planeState d pid = 7 then stopProgram pid d else freePlane pid d

/-- Entries in progress whose target or source has been marked Suspect or retired are withdrawn (R24). -/
def overruledRuns (d : Dev) : Dev :=
  (List.range d.plc.plan.length).foldl (fun x n => match x.plc.plan[n]? with
    | none => x
    | some r =>
      if r.done || r.withdrawn || decide (r.entry.kind.val ≥ 6) || !((targets r.entry).any (planeMarked x) || (sources x r.entry).any (planeMarked x))
      then x else
        let y := abandonEntry r x
        withdrawnEvent r.entry 4 { y with plc.plan := y.plc.plan.set n { r with withdrawn := true, overruled := true } }) d

/-- Work on planes that reliability has taken away goes on elsewhere: a load takes another plane (R229), a refresh another shadow (R119), and a
plan's entry is withdrawn (R24). -/
def retiredWork (d : Dev) : Dev :=
  let gone := (d.plc.loads.flatMap (·.planes) ++ d.arr.refreshes.filterMap fun r => r.2.shadow).filter fun p => decide (planeState d p = 7)
  overruledRuns (gone.foldl (fun x p => if planeState x p = 7 then programFailed p x else x) d)

def ptimeH (d : Dev) : Nat := ptimeS d / 3600
/-- A plane holds content. -/
def hasContent (p : PlaneSt) : Bool := !p.segs.isEmpty

/-! Defects (R109, R111, R112). -/

def sameCell (a b : Defect) : Bool := a.row = b.row && a.pair = b.pair && a.side == b.side

/-- A defect list with the cells found that it does not hold yet. -/
def addDefects (source : Nat) (found l : List Defect) : List Defect :=
  found.foldl (fun l x => if l.any (sameCell x) then l else l ++ [{ x with source := source }]) l

/-- Enter defects not listed yet; the compensation entries of the plane follow. More than 255 defects, or more than 64
stuck-on data cells, retire the plane (rule 5; log entry 27). An entry beyond 64 sets refresh_due. -/
def enterDefects (source : Nat) (found : List Defect) (pid : Nat) (d : Dev) : Dev :=
  let p := getPlane d pid
  let all := addDefects source found p.defects
  let p1 := { p with defects := all.take 255 }
  if all.length > 255 ∨ stuckOnData p1 > 64 then retire 5 0x3003 (uPlane pid) (setPlane pid p1 d) else
    let need := compNeeded d p1
    let die := getDie d (pkDie pid)
    let used := die.compUsed - p.comp.length + min 64 need.length
    if need.length > 64 then setPlane pid { p1 with corr := setFlag 0 p.corr } d
    else if used > 4194304 then
      raise 0x400A 2 0 (uDie (pkDie pid)) (pay [(16, 1, pkDie pid)]) (setPlane pid p1 d)
    else setDie (pkDie pid) { die with compUsed := used } (setPlane pid { p1 with comp := need } d)

/-- A defect scan of a missed pair ends; row drivers or converters it finds failed retire the tile (R104, R109, R89). -/
def defectScan (pid pair : Nat) (found : List Defect) (tileFailed : Bool) (d : Dev) : Dev :=
  let p := getPlane d pid
  if !p.scans.contains pair then d else
    let d1 := setPlane pid { p with scans := p.scans.filter (· ≠ pair) } d
    if tileFailed then retireTile (tileKey pid) d1
    else enterDefects 1 (found.filter fun x => x.pair = pair) pid d1

def execDefectScanComplete (tp : PlaneId) (pair : Nat) (found : ScanFound) (s : State) : Out :=
  run (defectScan (pidOf tp) pair found.defects found.tileFailed) s

/-! Shadows (R117). -/

/-- Free planes of the reserve that fit a plane's content in the order of R117: same die in another tile, same stack, any die; lowest
count first; not one that has failed in this refresh. -/
def reservePlane (pid : Nat) (segs : Store SegRef) (tried : List Nat) (d : Dev) : Option Nat × Dev :=
  let die := pkDie pid
  let fits := freePlanes d false |>.filter fun q => tileKey q ≠ tileKey pid && !tried.contains q && contentFits d q segs
  let a := fits.filter fun q => pkDie q = die
  let b := fits.filter fun q => pkDie q / 4 = die / 4
  pickOf (lowestCount d (if !a.isEmpty then a else if !b.isEmpty then b else fits)) d

/-- The plane whose lists a refresh moves next. -/
def carrierOf (pid : Nat) (r : Refresh) : Nat := r.carrier.getD pid

/-- Choose a shadow for a plane in refresh step 2. A Shadow plane with the same segments needs no programming; digital entries
flip at once; with nothing available the plane waits for the next try. A retired plane that no list names needs none. -/
def chooseShadow (pid : Nat) (r : Refresh) (d : Dev) : Dev :=
  let p := getPlane d pid
  if planeState d pid = 7 && (handlesOn d (carrierOf pid r)).isEmpty then
    modPlane pid (fun q => { q with segs := [], perms := [] }) { d with arr.refreshes := sDel d.arr.refreshes pid }
  else match (d.arr.planes.find? fun q => decide (q.1 ≠ pid) && decide (planeState d q.1 = 4) && q.2.segs == p.segs
      && !(d.arr.refreshes.any fun e => e.2.shadow = some q.1)) with
  | some q => { d with arr.refreshes := sSet d.arr.refreshes pid { r with step := 4, shadow := some q.1 } }
  | none =>
    match reservePlane (carrierOf pid r) p.segs r.tried d with
    | (some q, d1) =>
      let d2 := alignPlane q (modPlane q (fun x => { x with segs := p.segs }) d1)
      startProgram 2 q { d2 with arr.refreshes := sSet d2.arr.refreshes pid { r with step := 3, shadow := some q } }
    | (none, d1) =>
      let tenants := (p.segs.map fun s => s.2.tenant).eraseDups
      if tenants.all fun t => stagingRoom d1 t (p.segs.countP fun s => s.2.tenant = t) then
        flipDigital (carrierOf pid r) { d1 with
          arr.refreshes := sSet d1.arr.refreshes pid { r with step := 5, digital := true, carrier := none } }
      else { d1 with arr.refreshes := sSet d1.arr.refreshes pid { r with step := 2, shadow := none, tried := [] } }

/-- Retry the choice of a shadow. -/
def shadowRetry (pid : Nat) (d : Dev) : Dev :=
  match sFind d.arr.refreshes pid with
  | some r => if r.step = 2 then chooseShadow pid r d else d
  | none => d

def execShadowRetry (tp : PlaneId) (s : State) : Out := run (shadowRetry (pidOf tp)) s

/-! Flags (R106, R108, R119). -/

/-- Begin the refresh of a Refresh-due or Suspect plane with content. -/
def beginRefresh (pid : Nat) (d : Dev) : Dev :=
  if (sFind d.arr.refreshes pid).isSome || !hasContent (getPlane d pid) then d
  else { d with arr.refreshes := sSet d.arr.refreshes pid { step := 2, shadow := none, digital := false, carrier := none } }

/-- Plane whose refresh this plane serves as verified shadow, until the flip of step 7. -/
def shadowFor (d : Dev) (pid : Nat) : Option (Nat × Refresh) :=
  d.arr.refreshes.find? fun e => e.2.shadow = some pid && decide (3 ≤ e.2.step ∧ e.2.step ≤ 7)

/-- A hard limit: 4002h, Suspect, and retirement on the second within 30 days. A Suspect shadow hands its lists to the
refreshed plane when that has verified, else the refresh looks for a new shadow; its own refresh begins. -/
def hardLimit (pid : Nat) (d : Dev) : Dev :=
  let p := getPlane d pid
  let again := match p.lastHard with
    | some t => decide (ptimeS d < t + 30 * day)
    | none => false
  let d1 := raise 0x4002 2 0 (uPlane pid) (pay [(16, 2, wrap 16 p.corr.drift), (18, 1, p.corr.flags.toNat)])
    (setPlane pid { p with lastHard := some (ptimeS d) } d)
  if again then retire 4 0x4002 (uPlane pid) d1 else
    let d2 := charge 0x4002 false (uPlane pid) d1
    match shadowFor d2 pid with
    | some (old, r) =>
      let d3 := beginRefresh pid d2
      if r.step ≥ 6 ∧ (planeState d3 old = 4 ∨ planeState d3 old = 5) then
        let d4 := flipPlane pid old { d3 with arr.refreshes := sDel d3.arr.refreshes old }
        let u := getUnit d4 (uPlane old)
        planeTo 1 3 old (if u.state = 1 then unitReturn u.cause (uPlane old) d4 else d4)
      else chooseShadow old { r with step := 2, shadow := none, carrier := if r.step ≥ 5 then some pid else r.carrier } d3
    | none => beginRefresh pid d2

/-! Null passes (R102). -/

/-- Some null pass of a tile is due, queued or running. -/
def nullPending (x : DieSt) (tile : Nat) : Bool :=
  let mine : PassDesc → Bool := fun p => decide (p.kind = 2 ∧ pkTile p.plane = tile)
  x.maintQ.any mine || x.refireQ.any mine || x.running.any (fun r => mine r.desc)
    || x.maintWait.any fun r => decide (r.kind = 2 ∧ pkTile r.plane = tile)

/-- Four null passes of a tile fall due; the plane they select is the device's choice. -/
def nullDue (die tile plane : Nat) (d : Dev) : Dev :=
  let x := getDie d die
  if x.retired || (getTile d (die * 4096 + tile)).retired || x.checking || nullPending x tile then d
  else addMaint die [⟨2, planeKey die tile plane, 0, 4⟩] d

/-- NULL_PASS_DUE (R102). -/
def execNullPassDue (d : DieIx) (tile : TileIx) (plane : Fin 160) (s : State) : Out := run (nullDue d.val tile.val plane.val) s

/-- A reading of a tile's null passes; the average of four, in 1/8 count, becomes the offset of each column, and dP and dN become
0. -/
def nullReading (r : RunPass) (m : PassMeas) (d : Dev) : Dev :=
  let die := pkDie r.desc.plane
  let tile := pkTile r.desc.plane
  let key := tileKey r.desc.plane
  let x := getDie d die
  let reads := sGet [] x.nulls tile ++ [(List.range 1040).map fun c => if c % 2 = 0 then m.cntP.getD (c / 2) 0 else m.cntN.getD (c / 2) 0]
  if reads.length < 4 then setDie die { x with nulls := sSet x.nulls tile reads } d
  else
    let n := d.freeCtr
    let off := (List.range 1040).foldl (fun (o : Store Int) c =>
      let avg : Rat := ((reads.foldl (fun a q => a + q.getD c 0) 0 : Nat) : Rat) / (reads.length : Rat)
      sPut 0 o c (clampInt (-128) 127 (roundStep n c (8 * avg)))) []
    setTile key { getTile d key with off := off, dP := 0, dN := 0, nullAge := ptimeH d }
      (setDie die { x with nulls := sDel x.nulls tile } { d with freeCtr := n + 1 })

/-! Candles (R103–R105). -/

/-- Positions a check of the plane fires: those in use, position 0 in a blank check. -/
def candlePositions (p : PlaneSt) : List Nat := if p.segs.isEmpty then [0] else p.segs.map (·.1)

/-- A check falls due: dropped while the plane is being programmed, else its candles go to the maintenance queue. -/
def candleDue (pid : Nat) (d : Dev) : Dev :=
  let st := planeState d pid
  let p := getPlane d pid
  if pkPlane pid ≥ 160 || st = 1 || st = 2 || st = 7 || p.candleDue then d else
    addMaint (pkDie pid) ((candlePositions p).map fun pos => ⟨1, pid, pos, 1⟩)
      (setPlane pid { p with candleDue := true, candleRes := [] } d)

def execCandleCheckDue (tp : PlaneId) (s : State) : Out := run (candleDue (pidOf tp)) s

/-- A candle pass gave the corrected counts of its position. -/
def candleReading (r : RunPass) (c : List Int) (d : Dev) : Dev :=
  modPlane r.desc.plane (fun p => if p.candleDue then { p with candleRes := sSet p.candleRes r.desc.pos c } else p) d

/-- Expected counts ĉ of a position's candle over its valid data pairs, from the golden copy (R104): stuck-on cells take no part; all 0
in a blank check. -/
def candleExpect (d : Dev) (p : PlaneSt) (pos : Nat) (codes : List Int) : List Int :=
  match sFind p.segs pos with
  | none => List.replicate 512 0
  | some s => (List.range (colsM1Of (getHandle d s.handle) s.colSlab + 1)).map fun c =>
      (List.range 256).foldl (fun a l => a + 2 * codes.getD (physRow p pos l) 0 * segWeight d s l c) 0

/-- What a check compares at one position: corrected counts in 1/256 count, expected counts, S, base. -/
structure CandleView where
  c : List Int
  expect : List Int
  s : Nat
  base : List Int

def candleView (d : Dev) (p : PlaneSt) (pos : Nat) : CandleView :=
  let codes := candleCodes 65536 (candleSeed p pos) []
  { c := sGet [] p.candleRes pos, expect := candleExpect d p pos codes, s := candleSum codes
    base := ((sFind p.candles pos).map fun x => x.base).getD [] }

/-- Valid data pairs of a group: 32 pairs a group. -/
def groupOf (l : List Int) (k : Nat) : List Int := (l.drop (32 * k)).take 32

/-- Group error of a candle; none where the group expects nothing (log entry 26). -/
def groupError (m : CandleView) (k : Nat) : Option Rat :=
  let ps := (groupOf m.c k).zip (groupOf m.expect k)
  let den : Nat := ps.foldl (fun a x => a + 256 * x.2.natAbs) 0
  let num : Int := ps.foldl (fun a x => a + (x.1 - 256 * x.2) * x.2.sign) 0
  if den = 0 then none else some ((num : Rat) / (den : Rat))

/-- Pairs missed: |c − ĉ| > 2 × (3 + ⌈0.005 S⌉). -/
def missesOf (m : CandleView) : List Nat :=
  (List.range m.expect.length).filter fun j => decide ((m.c.getD j 0 - 256 * m.expect.getD j 0).natAbs > 256 * 2 * envelope m.s)

/-- Differences ε − base of a group over the positions checked; base in units of 0.05 %. -/
def groupShifts (ms : List CandleView) (k : Nat) : List Rat :=
  ms.filterMap fun m => (groupError m k).map fun e => e - ((m.base.getD k 0 : Int) : Rat) / 2000

def meanOf (l : List Rat) : Rat := if l.isEmpty then 0 else (l.foldl (· + ·) 0) / (l.length : Rat)

/-- The outcome table of R104, once every position of the check has its counts. -/
def candleResult (pid : Nat) (d : Dev) : Dev :=
  let p := getPlane d pid
  let poss := candlePositions p
  if !p.candleDue || !(poss.all fun q => (sFind p.candleRes q).isSome) then d else
    let ms := poss.map (candleView d p)
    let misses := (ms.flatMap missesOf).eraseDups
    let n := (ms.map fun m => (missesOf m).length).foldl (· + ·) 0
    let wide := (List.range 16).any fun k => (groupShifts ms k).any fun x => decide (ratAbs x > 6 / 100)
    let c := p.corr
    let c1 :=
      if n ≥ 16 ∨ wide then setFlag 1 c
      else if n ≥ 4 then setFlag 0 c
      else if n ≥ 1 then c
      else
        let trim := (List.range 16).foldl (fun t k =>
          sPut 0 t k (clampInt (-128) 127 (sGet 0 t k - roundNear (4096 * meanOf (groupShifts ms k))))) c.trim
        let c2 := { c with trim := trim }
        if trim.any fun e => decide (e.2.natAbs > 122) then setFlag 0 (setFlag 2 c2) else c2
    let scans := if 1 ≤ n ∧ n < 16 ∧ !wide then p.scans ++ misses.filter fun j => !p.scans.contains j else p.scans
    let moved := (List.range 16).any fun k => decide ((sGet 0 c1.trim k - sGet 0 c.trim k).natAbs > 41)
    setPlane pid { p with
      corr := { c1 with candAge := ptimeH d }, scans := scans, trimMoved := moved, candleDue := false, candleOverdue := 0
      candleRes := [] } d

def execCandleCheckResult (t : TileId) (plane : Fin 200) (s : State) : Out :=  run (candleResult (planeKey t.die t.tile plane)) s

/-- More than 1 h overdue: reported once, and the check still runs. -/
def candleLate (pid hours : Nat) (d : Dev) : Dev :=
  let p := getPlane d pid
  if !p.candleDue || hours = 0 || p.candleOverdue ≠ 0 then d else
    raise 0x4008 2 0 (uPlane pid) (pay [(16, 4, hours)]) (setPlane pid { p with candleOverdue := hours } d)

def execCandleOverdue (tp : PlaneId) (hours : W32) (s : State) : Out := run (candleLate (pidOf tp) hours.toNat) s

/-- Hours between two checks of a plane (R105): 24 with content, halved while |d| > 3 % or while the last check moved a trim by more than
41; 7 days without content (log entry 176). -/
def candleInterval (p : PlaneSt) : Nat :=
  if !hasContent p then 168 else if p.corr.drift.natAbs > 300 ∨ p.trimMoved then 12 else 24

/-- Planes of a list by rising key. -/
def oldestFirst (key : Nat → Nat) (l : List Nat) : List Nat := l.mergeSort fun a b => decide (key a ≤ key b)

/-- Planes of a die with content, the longest unchecked first. -/
def contentByAge (d : Dev) (die : Nat) : List Nat :=
  oldestFirst (fun pid => (getPlane d pid).corr.candAge)
    ((d.arr.planes.filter fun e => pkDie e.1 = die && decide (pkPlane e.1 < 160) && hasContent e.2).map (·.1))

/-- The maintenance reliability schedules on its own clock: null passes of each tile every 24 h (R102), candle checks of every analogue
plane in order of due time (R105). -/
def maintSchedule (d : Dev) : Dev :=
  let due : Nat → Nat := fun pid => let p := getPlane d pid; p.corr.candAge + candleInterval p
  let d1 := (oldestFirst due (analoguePlanes.filter fun pid => decide (ptimeH d ≥ due pid))).foldl (fun x pid => candleDue pid x) d
  (List.range 16).foldl (fun x die => (List.range 4096).foldl (fun y t =>
    if ptimeH y ≥ (getTile y (die * 4096 + t)).nullAge + 24 then nullDue die t (Config.pick y.freeCtr % 160) { y with freeCtr := y.freeCtr + 1 } else y) x) d1

/-! The pilot self-check of a die (R90). -/

/-- Passes of the self-check remain. -/
def checkRemains (x : DieSt) : Bool :=
  x.maintWait.any (fun r => decide (r.kind ≥ 2)) || x.maintQ.any (fun p => decide (p.kind ≥ 2))
    || x.refireQ.any (fun p => decide (p.kind ≥ 2)) || x.running.any fun r => decide (r.desc.kind ≥ 2)

/-- The self-check ends with its last pass: planes that failed it reach a hard limit. -/
def checkSettle (die : Nat) (d : Dev) : Dev :=
  let x := getDie d die
  if !x.checking || checkRemains x then d else
    x.checkFails.foldl (fun y pid => hardLimit pid y) (setDie die { x with checking := false, checkLeft := [], checkFails := [] } d)

/-- The self-check begins: correction records come from their last copy, then 4 null passes on every tile and 16 pilot passes on every
plane in Active, Shadow or Refresh-due state fall due. -/
def checkBegin (die : Nat) (d : Dev) : Dev :=
  let d1 := { d with
    arr.planes := sMap {} (fun k p => if pkDie k = die then { p with corr := sGet {} d.arr.savedPlanes k } else p) d.arr.planes
    arr.tiles := sMap {} (fun k t => if k / 4096 = die then { sGet {} d.arr.savedTiles k with retired := t.retired } else t) d.arr.tiles }
  if (getDie d1 die).retired then d1 else
    let c := d1.freeCtr
    let tiles := (List.range 4096).filter fun t => !(getTile d1 (die * 4096 + t)).retired
    let nulls := tiles.map fun t => (⟨2, planeKey die t (Config.pick (c + t) % 160), 0, 4⟩ : MaintReq)
    let planes := (d1.arr.planes.map (·.1)).filter fun k => pkDie k = die && firesTraffic d1 k
    let d2 := modDie die (fun x => { x with
      checking := true, checkFails := [], nulls := [], checkLeft := planes.map fun k => (k, 16) }) { d1 with freeCtr := c + 4096 }
    checkSettle die (addMaint die (nulls ++ planes.map fun k => ⟨3, k, 0, 16⟩) d2)

/-- A pilot pass of the self-check: the filter runs with weights 1/4 and 1/16, the last four passes of a plane are judged by R100, and
pilot cells found stuck become defects. -/
def checkReading (n : Nat) (r : RunPass) (m : PassMeas) (d : Dev) : Dev :=
  let pid := r.desc.plane
  let die := pkDie pid
  let left := sGet 0 (getDie d die).checkLeft pid
  let fails := decide (left ≤ 4) && (firstPair 512 520 fun j => !r.corr.pilotMask.getLsbD (j - 512)
    && decide ((pilotCorr n r m (j - 512) - 256 * pilotIdeal r.desc (j - 512)).natAbs > 256 * (4 * envelope r.desc.s))).isSome
  let d1 := pilotUpdateW 4 16 n r m d
  let d2 := modDie die (fun x => { x with
    checkLeft := sPut 0 x.checkLeft pid (left - 1)
    checkFails := if fails && !x.checkFails.contains pid then x.checkFails ++ [pid] else x.checkFails }) d1
  let stuck := m.stuck.filter fun e => decide (e.pair ≥ 512)
  if stuck.isEmpty then d2 else enterDefects 2 stuck pid d2

/-- A maintenance pass whose re-fire was flagged too gives no reading: a candle check ends without an outcome, a null set is dropped, a
pilot pass counts as failed. -/
def maintFailed (r : RunPass) (d : Dev) : Dev :=
  let pid := r.desc.plane
  let die := pkDie pid
  match r.desc.kind with
  | 1 => dropCandles pid d
  | 2 => modDie die (fun x => { x with nulls := sDel x.nulls (pkTile pid) }) d
  | 3 => modDie die (fun x => { x with
      checkLeft := sPut 0 x.checkLeft pid (sGet 0 x.checkLeft pid - 1)
      checkFails := if x.checkFails.contains pid then x.checkFails else x.checkFails ++ [pid] }) d
  | _ => d

/-! Results of passes. -/

/-- An unflagged pass does its work: a call's pass is promoted and feeds the filter unless it is a re-fire; a candle pass feeds the
filter too. -/
def passTaken (n : Nat) (r : RunPass) (m : PassMeas) (c : List Int) (d : Dev) : Dev :=
  match r.desc.kind with
  | 0 =>
    let d1 := match findCall d r.desc.core r.desc.ticket with
      | some a => setCall (resolveBuf r (promote r c) a) d
      | none => d
    if r.desc.refire then d1 else pilotUpdate n r m d1
  | 1 => candleReading r c (if r.desc.refire then d else pilotUpdate n r m d)
  | 2 => nullReading r m d
  | _ => checkReading n r m d

/-- The oldest pass begun on the tile is corrected with the parameters in force when its slot began (R93), checked, and taken or
flagged. -/
def passResult (die : Nat) (m : PassMeas) (d : Dev) : Dev :=
  let x := getDie d die
  match takeFirst (fun r : RunPass => decide (pkTile r.desc.plane = m.tile.val)) x.running with
  | none => d
  | some (r, rest) =>
    let n := d.freeCtr
    let d1 := { setDie die { x with running := rest } d with freeCtr := n + 1 }
    let c := corrected n r r.comp m
    let cs := causesOf n r m c
    let d2 := if r.desc.kind ≠ 2 && gainClamped r.corr then
        modPlane r.desc.plane (fun p => { p with corr := setFlag 3 (setFlag 1 p.corr) }) d1 else d1
    let d3 :=
      if r.unlocked || !cs.isEmpty then
        (let y := flagPass r m cs d2
         if r.desc.refire then maintFailed r y else y)
      else passTaken n r m c d2
    checkSettle die d3

/-- PASS_RESULT (R76, R92, R98). -/
def execPassResult (d : DieIx) (m : PassMeas) (s : State) : Out := run (passResult d m) s

/-! Flags (R106, R108). -/

/-- Act on one plane's flags. -/
def pollPlane (pid : Nat) (d0 : Dev) : Dev :=
  let p0 := getPlane d0 pid
  let old := decide (p0.programs > 0 ∧ ptimeH d0 ≥ p0.corr.age + 4320)
  let d := if old then setPlane pid { p0 with corr := setFlag 0 p0.corr } d0 else d0
  let p := getPlane d pid
  let st := planeState d pid
  let hard := p.corr.flags.getLsbD 1
  if st = 6 then beginRefresh pid d
  else if hard && (st = 0 || st = 3 || st = 4 || st = 5) then hardLimit pid d
  else if p.corr.flags.getLsbD 0 && (st = 3 || st = 4) then
    let d1 := raise 0x4001 1 0 (uPlane pid) (pay [(16, 2, wrap 16 p.corr.drift), (18, 1, p.corr.flags.toNat)]) d
    let d2 := planeTo 2 5 pid d1
    if (shadowFor d2 pid).isSome then d2 else beginRefresh pid d2
  else d

/-- Reliability reads the flags of every die, ends self-checks and schedules maintenance while the device serves. -/
def flagPoll (d : Dev) : Dev :=
  let d1 := (List.range 16).foldl (fun x n => checkSettle n x) d
  let d2 := d1.arr.planes.foldl (fun x e => if pkPlane e.1 < 160 then pollPlane e.1 x else x) d1
  if d2.pwr.mode = 3 then maintSchedule d2 else d2

def execFlagPoll (s : State) : Out := run (fun d => retiredWork (flagPoll d)) s

/-! Copies of the correction records (R96). -/

/-- Copy every record of a die to the golden-store metadata. -/
def copyRecords (die : Nat) (d : Dev) : Dev :=
  let ps := d.arr.planes.foldl (fun m e => if pkDie e.1 = die then sPut {} m e.1 e.2.corr else m) d.arr.savedPlanes
  let ts := d.arr.tiles.foldl (fun m e => if e.1 / 4096 = die then sPut {} m e.1 e.2 else m) d.arr.savedTiles
  { d with arr.savedPlanes := ps, arr.savedTiles := ts }

def execCorrRecordCopy (d : DieIx) (s : State) : Out := run (copyRecords d.val) s

/-! Program and verify (R118). -/

/-- A verify meets what a refresh of a Suspect plane needs: no miss and every |ε| ≤ 6 % (R108). -/
def candlesGood (r : VerifyResult) : Bool := r.noMiss && r.bases.all fun c => c.2.all fun e => decide (e.natAbs ≤ 120)

/-- Step 5: calibration sets ref0 and the verify temperature; delta, trims and flags start anew, gp = 1. -/
def calibrated (pid : Nat) (r : VerifyResult) (d : Dev) : Dev :=
  let p := getPlane d pid
  let n := d.freeCtr
  setPlane pid { p with corr := {
    ref0 := (List.range 16).foldl (fun m k => sPut 0 m k (r.ref0.getD k 0)) [], pilotMask := pilotMaskOf p
    tVer := roundStep n 0 (((getDie d (pkDie pid)).temp : Rat) / 4), age := ptimeH d, candAge := ptimeH d } } { d with freeCtr := n + 1 }

/-- Step 6: each in-use position gets a candle record, with a seed drawn from the Lantern's DRBG and never 0 (R103; log entry 177). -/
def candleRecord (pid : Nat) (r : VerifyResult) (d : Dev) : Dev :=
  ((getPlane d pid).segs.map (·.1)).foldl (fun x pos =>
    let q := drbg 4 x
    let seed := 1 + fld q.1 0 4 % (2 ^ 32 - 1)
    let base := ((r.bases.find? fun b => b.1.val = pos).map (·.2)).getD []
    let rec_ := ⟨BitVec.ofNat 32 seed, candleSum (candleCodes 65536 seed []), base.map (clampInt (-128) 127)⟩
    modPlane pid (fun p => { p with candles := sSet p.candles pos rec_ }) q.2)
    (modPlane pid (fun p => { p with candles := [] }) d)

/-- Step 7: the records and the state go to the metadata, and placement takes the plane over (R89). -/
def committed (new_ pid : Nat) (d : Dev) : Dev :=
  let d1 := modPlane pid (fun p => { p with
    corr := { p.corr with age := ptimeH d, candAge := ptimeH d }, candleDue := false, candleOverdue := 0, trimMoved := false, scans := [] }) d
  planeTo 1 new_ pid (stopProgram pid { d1 with arr.savedPlanes := sPut {} d1.arr.savedPlanes pid (getPlane d1 pid).corr })

/-- A load has verified one more plane; the last one completes it once its image is whole (R229 step 6). -/
def loadPlaneDone (pid : Nat) (d : Dev) : Dev :=
  match loadFor d pid with
  | none => d
  | some l =>
    let l1 := { l with planes := l.planes.filter (· ≠ pid), programmed := l.programmed + 1 }
    let d1 := setLoad l1 d
    if l1.planes.isEmpty && l1.phase = 3 then loadReady l1 d1 else d1

/-- Step 4: verify-readback. Row drivers or converters found failed retire the tile; defects are entered, at most 255, and the
compensation is computed; content that does not fit goes elsewhere (R109, R111, R112). -/
def verifyStep (pid : Nat) (r : VerifyResult) (d : Dev) : Dev :=
  let p0 := getPlane d pid
  let all := addDefects 0 r.defects p0.defects
  let p1 := { p0 with defects := all.take 255 }
  let need := compNeeded d p1
  let die := getDie d (pkDie pid)
  let used := die.compUsed - p0.comp.length + need.length
  let d2 := setPlane pid p1 d
  if r.tileFailed then programFailed pid (retireTile (tileKey pid) (stopProgram pid d2))
  else if all.length > 255 ∨ stuckOnData p1 > 64 ∨ untrackable (pilotMaskOf p1) then
    programFailed pid (retire 5 0x3003 (uPlane pid) (stopProgram pid d2))
  else if need.length > 64 then
    -- a refresh in place is aligned anew; what still does not fit retires the plane (R112)
    (if p0.why = 1 then
      let again := compNeeded (alignPlane pid d2) (getPlane (alignPlane pid d2) pid)
      if again.length > 64 then programFailed pid (retire 5 0x3003 (uPlane pid) (stopProgram pid d2)) else programFailed pid d2
     else programFailed pid d2)
  else if used > 4194304 then
    programFailed pid (raise 0x400A 2 0 (uDie (pkDie pid)) (pay [(16, 1, pkDie pid)]) d2)
  else if !r.ok then programFailed pid d2
  else stepBegin pid 5 (setDie (pkDie pid) { die with compUsed := used } (setPlane pid { p1 with comp := need } d2))

/-- A step of a plane's program and verify ends, and the next begins, or waits where the plane has to pause (R118). A Suspect plane
whose candle recording fails has failed verify (R108). -/
def programStep (pid : Nat) (r : VerifyResult) (d : Dev) : Dev :=
  let p := getPlane d pid
  let step := r.step.val
  if (planeState d pid ≠ 1 ∧ planeState d pid ≠ 2) ∨ p.paused ∨ step ≠ p.step then d else
    match step with
    | 1 => stepBegin pid 2 d
    | 2 => stepBegin pid 3 (modPlane pid (fun q => { q with programs := min 65535 (q.programs + 1) }) d)
    | 3 => stepBegin pid 4 (planeTo 3 2 pid d)
    | 4 => verifyStep pid r d
    | 5 => stepBegin pid 6 (calibrated pid r d)
    | 6 =>
      if p.why = 1 && decide ((getUnit d (uPlane pid)).state = 1) && !candlesGood r then programFailed pid d
      else stepBegin pid 7 (candleRecord pid r d)
    | 7 => shareIfIdle (storeCompact pid (loadPlaneDone pid (committed (if p.why = 1 ∨ p.why = 2 then 4 else 3) pid d)))
    | _ => d

/-- PROGRAM_VERIFY_COMPLETE (R118). -/
def execProgramVerifyComplete (tp : PlaneId) (r : VerifyResult) (s : State) : Out :=
  run (fun d => retiredWork (programStep (pidOf tp) r d)) s

/-! The refresh sequence (R119). -/

def refreshStep (pid : Nat) (d : Dev) : Dev :=
  match sFind d.arr.refreshes pid with
  | none => d
  | some r =>
    let go : Nat → Dev → Dev := fun n x => { x with arr.refreshes := sSet x.arr.refreshes pid { r with step := n } }
    match r.step with
    | 2 => chooseShadow pid r d
    | 3 => match r.shadow with
      | some q => if planeState d q = 4 ∨ planeState d q = 5 then go 4 d else d
      | none => go 2 d
    | 4 => match r.shadow with
      | some q =>
        let x := flipPlane (carrierOf pid r) q d
        { x with arr.refreshes := sSet x.arr.refreshes pid { r with step := 5, carrier := none } }
      | none => go 2 d
    | 5 =>
      if planeInUse d pid then d
      -- a plane that was retired is replaced: the shadow keeps the lists (R119)
      else if planeState d pid = 7 then goldenFollow (retireRefresh pid 7 d)
      else if programsOf d pid ≥ 10000 then retire 0 0x3003 (uPlane pid) d
      else if planeState d pid = 1 ∨ planeState d pid = 2 ∨ planeState d pid = 4 then go 6 d
      else go 6 (startProgram 1 pid (alignPlane pid d))
    | 6 =>
      if progWaits d pid then d
      else if planeState d pid = 4 ∨ planeState d pid = 5 then go 7 d
      else if planeState d pid = 6 then startProgram 1 pid (alignPlane pid d) else d
    | 7 =>
      let d1 := match r.shadow with
        | some q => flipPlane q pid d
        | none => flipFromDigital pid d
      let u := getUnit d1 (uPlane pid)
      go 8 (planeTo 1 3 pid (if u.state = 1 then unitReturn u.cause (uPlane pid) d1 else d1))
    | 8 => match r.shadow with
      | some q => if planeInUse d q then d else freePlane q { d with arr.refreshes := sDel d.arr.refreshes pid }
      | none => { d with arr.refreshes := sDel d.arr.refreshes pid }
    | _ => d

def execRefreshStepComplete (tp : PlaneId) (s : State) : Out := run (refreshStep (pidOf tp)) s

/-! Store scrub (R116, R236). -/

/-- The handle and segment whose golden record a codeword is part of. -/
def recordOf (d : Dev) (c : Nat) : Option (Nat × Nat) :=
  d.arr.handles.findSome? fun h => (h.2.goldenAt.find? fun e => e.2.contains c).map fun e => (h.1, e.1)

/-- A segment without a healthy copy: the model becomes unavailable; the requests whose calls need the segment, those in flight and those
to come, end with MEMORY_FAULT (R236). -/
def segmentLost (i seg : Nat) (d : Dev) : Dev :=
  let h := getHandle d i
  match getGen d h.model h.gen with
  | none => d
  | some g =>
    if g.state ≠ 3 ∧ g.state ≠ 4 then d else
      let d1 := loadEv 0x900D 3 g.owner h.model h.gen [(20, 4, i), (24, 2, seg / max 1 h.colSlabs), (26, 2, seg % max 1 h.colSlabs)]
        (setModel h.model { getModel d h.model with state := 3 } d)
      let h1 := { h with lost := if h.lost.contains seg then h.lost else h.lost ++ [seg] }
      (d1.arr.calls.filter fun c => c.handle.toNat % 2 ^ 20 = i && needsLost h1 c.firstSlab c.slabs).foldl
        (fun x c => noteRefused (coreCtxs x c.core) 0x4002 x) (setHandle i h1 d1)

/-- A codeword is scrubbed: rewritten above 48 corrections, rebuilt from a healthy analogue copy when unreadable. Below 38 V the writing
waits (R381). -/
def storeScrub (pid codeword corrections : Nat) (readable copyHealthy : Bool) (d : Dev) : Dev :=
  if planeState d pid ≠ 8 then d else
    let key := pid * 128 + codeword % 128
    let d1 := { d with arr.scrubbed := sSet d.arr.scrubbed key (ptimeH d) }
    let rewrite : Dev → Dev := fun x =>
      if x.pwr.vinLow then (if x.arr.rewrites.contains key then x else { x with arr.rewrites := x.arr.rewrites ++ [key] })
      else codewordRewrite key x
    if readable then (if corrections > 48 then rewrite d1 else d1)
    else
      let d2 := raise 0x4009 3 0 (uPlane pid) (pay [(16, 4, codeword), (20, 1, b2n copyHealthy)]) d1
      if copyHealthy then rewrite d2 else
        match recordOf d2 key with
        | some (i, seg) =>
          let h := getHandle d2 i
          let d3 := segmentLost i seg d2
          match loadOf d3 h.model with
          | some l => if fld l.record 5 1 = 2 ∧ l.gen = h.gen then loadFail l 0x4002 0xFFFFFFFF d3 else d3
          | none => d3
        | none => d2

def execStoreScrubDue (tp : PlaneId) (codeword : Nat) (corrections : Nat) (readable : Bool) (copyHealthy : Bool) (s : State) : Out :=
  run (storeScrub (pidOf tp) codeword corrections readable copyHealthy) s

end Sys2Proof.Machine
end

