-- ==== Sys2Proof/Machine/Reliability.lean ====
section
/-! DEFINITION. Cross-checks, control-processor faults and restarts, unit tests, memory errors, the ledger's periodic
records, the goal estimate (R336–R345, R349–R353). -/

namespace Sys2Proof.Machine

/-! Cross-checks (R336, R337). -/

/-- Quadrant of a core or pipeline. -/
def unitQuadrant (u : W32) : Nat := if unitKind u = 0 then bits u.toNat 0 16 / 68 else bits u.toNat 0 16 / 17

/-- Cores and pipelines, not retired. -/
def xchkable (d : Dev) (u : W32) : Bool :=
  unitOk u && (decide (unitKind u = 0) || decide (unitKind u = 3)) && !unitRetired d u

/-- CP5 pairs two units of one kind and of different quadrants; the seed comes from the Lantern. -/
def crossDue (a b : W32) (d : Dev) : Dev :=
  if d.rel.xchk.isSome || !xchkable d a || !xchkable d b || unitKind a != unitKind b || unitQuadrant a == unitQuadrant b then d
  else
    let f := fresh 32 d
    { f.2 with
      rel.xchk := some { a := a, b := b, seed := f.1, digests := none, arbiter := none }
      rel.xchkDue := f.2.rel.xchkDue.filter fun u => u != a && u != b }

/-- CROSS_CHECK_DUE (R336). -/
def execCrossCheckDue (a : W32) (b : W32) (s : State) : Out := run (crossDue a b) s

def xchkPass (u : W32) (d : Dev) : Dev := { d with rel.lastPass := sSet d.rel.lastPass u.toNat (ptimeS d) }

/-- Contexts whose work a unit served in the sailing in progress. -/
def unitCtxs (d : Dev) (u : W32) : List Nat :=
  let i := bits u.toNat 0 16
  if unitKind u = 0 then coreServed d i
  else match logicalPipe d i with
    | some n => pipeCtxs d n
    | none => []

/-- Charge a unit for a cross-check: 400Bh with the exposure, the charge, and the recompute of its requests. -/
def xchkCharge (x : Xchk) (u partner : W32) (d : Dev) : Dev :=
  let exposure := ptimeS d - sGet 0 d.rel.lastPass u.toNat
  let arb := match x.arbiter with
    | some a => a.toNat
    | none => 0
  let d1 := raise 0x400B 2 0 u (pay [(16, 4, x.seed.toNat), (20, 4, partner.toNat), (24, 4, arb), (28, 4, exposure)]) d
  charge 0x400B false u (markRecompute 6 (unitCtxs d1 u) d1)

/-- Equal digests end the check; unequal ones call the third unit, when one is free in a third quadrant. -/
def crossResult (d1 d2 : W32) (third : Option W32) (d : Dev) : Dev :=
  match d.rel.xchk with
  | none => d
  | some x =>
    if x.digests.isSome then d
    else if d1 = d2 then xchkPass x.a (xchkPass x.b { d with rel.xchk := none })
    else
      let t := third.filter fun u => xchkable d u && unitKind u == unitKind x.a && unitQuadrant u != unitQuadrant x.a
        && unitQuadrant u != unitQuadrant x.b
      { d with rel.xchk := some { x with digests := some (d1, d2), arbiter := t } }

/-- CROSS_CHECK_RESULT (R337). -/
def execCrossCheckResult (d1 : W32) (d2 : W32) (third : Option W32) (s : State) : Out := run (crossResult d1 d2 third) s

/-- The third digest decides: the odd unit is charged, or all three when all differ. -/
def arbitrate (d3 : W32) (d : Dev) : Dev :=
  match d.rel.xchk with
  | none => d
  | some x => match x.digests, x.arbiter with
    | some (d1, d2), some t =>
      let e := { d with rel.xchk := none }
      if d3 = d1 then xchkCharge x x.b x.a (xchkPass x.a (xchkPass t e))
      else if d3 = d2 then xchkCharge x x.a x.b (xchkPass x.b (xchkPass t e))
      else xchkCharge x t x.a (xchkCharge x x.b x.a (xchkCharge x x.a x.b e))
    | _, _ => d

/-- ARBITRATION_RESULT (R337). -/
def execArbitrationResult (d3 : W32) (s : State) : Out := run (arbitrate d3) s

/-- No third unit was free within 1 s: both units of the pair are charged. -/
def arbitrateLate (d : Dev) : Dev :=
  match d.rel.xchk with
  | none => d
  | some x => if x.digests.isNone then d else
    let y := { x with arbiter := none }
    xchkCharge y x.b x.a (xchkCharge y x.a x.b { d with rel.xchk := none })

/-- ARBITRATION_TIMEOUT (R337). -/
def execArbitrationTimeout (s : State) : Out := run arbitrateLate s

/-- run_now: every active core and pipeline, and every healthy spare, is to be cross-checked (R336). -/
def xchkNow (d : Dev) : Dev :=
  { d with rel.xchkDue := ((List.range 272).map uCore ++ (List.range 68).map uPipe).filter fun u => !unitRetired d u }

/-- XCHK_RUN_NOW (R336). -/
def execXchkRunNow (s : State) : Out := run xchkNow s

/-! Control processors (R339–R341). -/

/-- CP_SELF_TEST (R339): a passed test changes nothing; a failed one charges the processor and asks for its restart. -/
def execCpSelfTest (cp : CpIx) (ok : Bool) (s : State) : Out := run (fun d => if ok then d else cpFault 2 cp d) s

/-- CP_WATCHDOG (R340). -/
def execCpWatchdog (cp : CpIx) (s : State) : Out := run (cpFault 1 cp) s

/-- What the restart of one control processor costs beside the event. -/
def cpEffect (i : Nat) (d : Dev) : Dev :=
  match i with
  | 0 | 1 => if d.srv.sail.running then markRecompute 8 ((d.srv.sail.rows.map (·.ctx)).dedup) d else d
  | 2 => { d with plc.computing := false, plc.nextPlan := [], plc.nextDropped := 0, fab.computing := false }
  | 3 => lateWrite d
  | 4 => hookAbort .admission (hookAbort .recipe d)
  | _ => d

/-- One restart: 4010h with its cause and kind. -/
def cpRestart1 (island : Bool) (i : Nat) (d : Dev) : Dev :=
  match sFind d.rel.cpDown i with
  | none => d
  | some cause =>
    cpEffect i (raise 0x4010 3 0 (uCp i) (pay [(16, 1, cause), (17, 1, b2n island)])
      { d with rel.cpDown := sDel d.rel.cpDown i })

/-- The Lantern restarts a processor that is down. All eight down restart together, and the island with them: its time
starts again from 0 (R31, R341). -/
def cpRestart (i : Nat) (d : Dev) : Dev :=
  if d.rel.cpDown.length ≥ 8 then
    let d1 := (List.range 8).foldl (fun x n => cpRestart1 true n x) d
    { d1 with time.cpNs := 0 }
  else cpRestart1 false i d

/-- CP_RESTART (R341). -/
def execCpRestart (cp : CpIx) (s : State) : Out := run (cpRestart cp) s

/-! Tests of Suspect units (R345). -/

/-- A unit that passes returns, its events counted; a unit that fails is charged again and retired. A control processor is
never retired; a tile-plane under refresh is judged by its refresh (R108). -/
def unitTest (u : W32) (ok : Bool) (d : Dev) : Dev :=
  let r := getUnit d u
  if r.state ≠ 1 ∨ (unitKind u = 1 ∧ (sFind d.arr.refreshes (bits u.toNat 0 28)).isSome) then d
  else if ok then
    let d1 := unitReturn r.cause u d
    match unitKind u with
    | 1 => planeTo 2 0 (bits u.toNat 0 28) d1
    | 2 => modDie (bits u.toNat 0 4) (fun x => { x with linkDown := false }) d1
    | 3 => let p := bits u.toNat 0 16
           { d1 with att.pipes := sPut {} d1.att.pipes p { sGet {} d1.att.pipes p with state := 0 } }
    | _ => d1
  else
    let r1 : UnitRec := { r with
      times := ptimeS d :: r.times.filter (fun t => decide (ptimeS d < t + 30 * day)), life := r.life + 1 }
    let d1 := raise 0x4011 3 0 u (pay [(16, 2, r.cause.toNat)]) (ledgerEvent 0x4011 u (setUnit u r1 d))
    if unitKind u = 6 then
      let d2 := if ev24 d1 r1 ≥ 3 ∨ ev30 d1 r1 ≥ 8 then cpPermanent u d1 else d1
      unitReturn r.cause u d2
    else retire 1 0x4011 u d1

/-- UNIT_TEST_COMPLETE (R345). -/
def execUnitTestComplete (unit : W32) (ok : Bool) (s : State) : Out :=  run (unitTest unit ok) s

/-! Memories (R338). -/

/-- Requests that end with MEMORY_FAULT at the next sailing end. -/
def endMemory (ctxs : List Nat) (d : Dev) : Dev :=
  ctxs.foldl (fun x i => modCtx i (endsWith 0x4002) x) d

/-- A page lost with its memory: own and cross pages are discarded from it on, a prefix retires and its readers end (R207, R209). -/
def pageGone (k : PageKey) (d : Dev) : Dev :=
  match k.own with
  | 0 => discardFrom k.id k.index (faultCalls k.id d)
  | 1 => discardCross k.id k.index (faultCalls k.id d)
  | _ =>
    let users := (d.srv.ctxs.filter fun c => c.2.prefix_ == some (BitVec.ofNat 16 k.id) && c.2.gen != 0).map (·.1)
    endMemory users (prefixRetire k.id (users.foldl (fun x i => faultCalls i x) d))

/-- An HBM frame is retired at once; the channel is charged, and retired past 3,662 frames. -/
def frameRetire (ch : Nat) (d : Dev) : Dev :=
  let n := sGet 0 d.rel.frames ch + 1
  let d1 := raise 0x4012 1 0 (uHbm ch) (pay [(16, 4, n)]) { d with rel.frames := sSet d.rel.frames ch n }
  let d2 := charge 0x400F true (uHbm ch) d1
  if n > 3662 then retire 0 0x400F (uHbm ch) d2 else d2

/-- Fault 08h: the word is rewritten (with what, the spec does not say: free), the core is faulted and charged, and its work is
redone (R177, R338, R342). -/
def sramFault (k : Nat) (addr : Nat) (ctxs : List Nat) (d : Dev) : Dev :=
  let keep := d.grid.faulted
  let work := coreCtxs d k ++ ctxs
  let w := fresh 64 d
  let d0 := if addr < sramHi then modCore k (putLocal (addr / 8 * 8) (toLe 8 w.1.toNat)) w.2 else w.2
  let d1 := coreFault k (getCore d0 k).pc 8 addr d0
  charge 0x400F false (uCore k) (markRecompute 5 work { d1 with grid.faulted := keep })

/-- Cut a ledger sector at a record whose CRC fails (R350). -/
def ledgerCut (addr : Nat) (d : Dev) : Dev :=
  let i := addr / 65536 % 64
  let n := (addr % 65536 - 64) / 32
  let s := getSector d i
  { d with rel.sectors := sPut {} d.rel.sectors i { s with recs := s.recs.take n } }

/-- An uncorrectable error, by the row of its memory. -/
def memoryError (e : MemError) (d0 : Dev) : Dev :=
  if !unitOk e.unit then d0 else
  let d := raise 0x400F 3 0 e.unit (pay [(16, 1, e.memory.val), (24, 8, e.addr.toNat)]) d0
  let i := bits e.unit.toNat 0 16
  match e.memory with
  | 0 =>
    let d1 := match e.page with
      | some k => pageGone k d
      | none => endMemory e.ctxs d
    if unitKind e.unit = 4 then frameRetire i d1 else d1
  | 1 => if unitKind e.unit = 0 then sramFault i e.addr.toNat e.ctxs d else d
  | 2 =>
    match e.page with
    | some k => pageGone k d
    | none =>
      if unitKind e.unit ≠ 3 then d else
        let d := e.ctxs.foldl (fun x c => faultCalls c x) d
        charge 0x400F false e.unit (markRecompute 5 e.ctxs
          { d with att.pipes := sPut {} d.att.pipes i { sGet {} d.att.pipes i with state := 3 } })
  | 3 => if unitKind e.unit = 6 then cpFault 4 i d else d
  | 4 =>
    match e.plane with
    | none => d
    | some p =>
      let pid := pidOf p
      suspect 0x400F (uPlane pid) (modPlane pid (fun x => { x with corr := sGet {} d.arr.savedPlanes pid }) d)
  | 5 =>
    match e.plane with
    | some p => storeScrub (pidOf p) e.addr.toNat 0 false e.copyHealthy d
    | none => d
  | 6 =>
    if unitKind e.unit ≠ 2 then d else
      charge 0x400F false e.unit (modDie i (fun x => { x with linkDown := true }) d)
  | 7 => d
  | _ => ledgerCut e.addr.toNat d

/-- MEMORY_UNCORRECTABLE (R338). -/
def execMemoryUncorrectable (e : MemError) (s : State) : Out := run (memoryError e) s

/-- Corrected errors of a memory unit: more than 64 in the hour raise 400Eh and charge it. -/
def correctedErrors (u : W32) (n : Nat) (d : Dev) : Dev :=
  if !unitOk u then d else
  let was := sGet 0 d.rel.corrected u.toNat
  let d1 := { d with rel.corrected := sPut 0 d.rel.corrected u.toNat (was + n) }
  if was ≤ 64 ∧ was + n > 64 then
    charge 0x400E true u (raise 0x400E 2 0 u (pay [(16, 4, was + n)]) d1)
  else d1

/-- HBM_PATROL_SCRUB (R338): the scrub of HBM, or of the hot store, corrects what it meets, by memory unit. -/
def execHbmPatrolScrub (hot : Bool) (corrected : List (W32 × Nat)) (s : State) : Out :=
  run (fun d => corrected.foldl (fun x c =>
    if decide (unitKind c.1 = 4) != hot then correctedErrors c.1 c.2 x else x) d) s

/-! The ledger's periodic records (R350, R351). -/

/-- LEDGER_CHECKPOINT (R350). -/
def execLedgerCheckpoint (s : State) : Out :=
  run (fun d => ledgerAdd 4 0 0 0 (BitVec.ofNat 112 (lay [(0, 8, ptimeS d)])) d) s

/-- The hour ends: a summary for each unit with events held, and the counts of the hour start again. -/
def hourEnd (d : Dev) : Dev :=
  let d1 := d.rel.hourHeld.foldl (fun x h =>
    let u := BitVec.ofNat 32 h.1
    let r := getUnit x u
    ledgerAdd 5 0 0 u (BitVec.ofNat 112 (lay [(0, 2, ev24 x r), (2, 2, ev30 x r), (4, 4, r.life)])) x) d
  { d1 with rel.hourUnit := [], rel.hourAll := 0, rel.hourHeld := [], rel.corrected := [] }

/-- LEDGER_HOUR_END (R351). -/
def execLedgerHourEnd (s : State) : Out := run hourEnd s

/-! The goal (R348, R349). -/

/-- Design figure of a class in 10⁻⁹ a device-hour, and its design raw rate an hour; the last class has none. -/
def goalDesign : List (Rat × Option Rat) :=
  [(20, some (2 / 10000)), (2000, some (1 / 1000)), (3000, some (5 / 100000)), (1000, some (2 / 100000)), (1500, none)]

/-- Detections of a class in the last 30 days of powered time, an hour. -/
def observedRate (d : Dev) (cls : Nat) : Rat :=
  (((sGet [] d.rel.detections cls).filter fun t => decide (ptimeS d < t + 30 * day)).length : Rat) / 720

/-- The product of a class. Where the design gives no raw rate and something was detected, the ratio is free (log entry
30). -/
def goalTerm (d : Dev) (cls : Nat) (x : Rat × Option Rat) : Rat :=
  match x.2 with
  | some raw => x.1 * max 1 (observedRate d cls / raw)
  | none => if observedRate d cls = 0 then x.1 else x.1 + ((Config.freeBits d.freeCtr 32).toNat : Rat)

/-- The estimate is recomputed and recorded; above 10⁻⁵ it raises 4013h, at most once a day. -/
def goalEstimate (d : Dev) : Dev :=
  let sum := ((List.range 5).zip goalDesign).foldl (fun (a : Rat) c => a + goalTerm d c.1 c.2) 0
  let est := BitVec.ofNat 32 (min (2 ^ 32 - 1) (roundStep (d.freeCtr + 1) 0 sum).toNat)
  let d1 := ledgerAdd 6 0 0 0 (BitVec.ofNat 112 (lay [(0, 4, est.toNat)]))
    { d with rel.est := est, freeCtr := d.freeCtr + 2 }
  let told := match d.rel.estTold with
    | some t => decide (ptimeS d < t + day)
    | none => false
  if sum > 10000 ∧ !told then
    raise 0x4013 2 0 uDevice (pay [(16, 4, est.toNat)]) { d1 with rel.estTold := some (ptimeS d) }
  else d1

/-- GOAL_ESTIMATE (R349). -/
def execGoalEstimate (s : State) : Out := run goalEstimate s

/-- MGT_UNIT_QUERY (R345): the result matches the last write. -/
def execMgtUnitQuery (unit : W32) (s : State) : Out :=
  run (fun d => { d with rel.query := unit, rel.queryValid := true }) s

end Sys2Proof.Machine
end

