-- ==== Sys2Proof/Machine/PowerOps.lean ====
section
/-! DEFINITION. Power: rails (R381–R383), the ladder (R388, R389), domains and their holds (R391), loss of power and standby
(R274, R396), wakes from standby, regions and trips (R397–R401). -/

namespace Sys2Proof.Machine

/-! Rails. -/

structure Rail where
  lo : Nat
  hi : Nat
  phases : Nat
  needed : Nat
  /-- Rated current in 0.1 A. -/
  rated : Nat

/-- Rail table of R381: range in mV, phases installed and needed, rated current. -/
def railOf (n : Nat) : Rail :=
  match n with
  | 0 | 1 | 2 | 3 => ⟨600, 900, 8, 6, 1500⟩
  | 4 => ⟨700, 800, 4, 2, 500⟩
  | 5 => ⟨800, 900, 4, 2, 500⟩
  | 6 | 7 => ⟨750, 850, 4, 2, 500⟩
  | 8 => ⟨2400, 2600, 4, 2, 500⟩
  | 9 => ⟨1000, 1100, 4, 2, 500⟩
  | 10 => ⟨700, 800, 4, 2, 500⟩
  | _ => ⟨850, 950, 4, 2, 500⟩

/-- The order in which rails come up (R383). -/
def railOrder : List Nat := [5, 4, 0, 1, 2, 3, 9, 10, 6, 7, 8, 11]

def setStage (n : Nat) (x : StageSt) (d : Dev) : Dev := { d with pwr.stages := sPut {} d.pwr.stages n x }
def modStage (n : Nat) (f : StageSt → StageSt) (d : Dev) : Dev := setStage n (f (getStage d n)) d

/-- Healthy phases of a stage. -/
def healthyPhases (d : Dev) (n : Nat) : List Nat :=
  (List.range (railOf n).phases).filter fun i => !(getStage d n).failed.getLsbD i

/-- A ramp is running on the stage. -/
def ramping (d : Dev) (n : Nat) : Bool := decide (d.time.stampUs < (getStage d n).rampEnd)
/-- Power-good: enabled, its soft-start over, its rail not lost. -/
def railGood (d : Dev) (n : Nat) : Bool :=
  let s := getStage d n
  s.enabled && !s.lost && decide (s.goodFrom ≤ d.time.stampUs)

/-- Current rating of a stage in 0.1 A: derated below the phases it needs (R382). -/
def ratingOf (d : Dev) (n : Nat) : Nat :=
  let h := (healthyPhases d n).length
  if h < (railOf n).needed then h * 250 else (railOf n).rated

/-! Clocks (R28, R387). -/

def islandKey : Island → Nat
  | .core k => k
  | .pipe p => 272 + p
  | .noc q => 340 + q
  | .cps => 344
  | .hbm s => 345 + s
  | .die d => 349 + d
  | .port d => 500 + d
  | .pcie => 365
  | .criley p => 366 + p
  | .power => 374
  | .lantern => 600
  | .lamplighter => 601

/-- The domain an island lies in. -/
def islandDom : Island → Option Nat
  | .port d => some (349 + d)
  | .lantern | .lamplighter => none
  | i => some (islandKey i)

def getIsland (d : Dev) (k : Nat) : IslandSt := sGet {} d.pwr.islands k
def setIsland (k : Nat) (x : IslandSt) (d : Dev) : Dev := { d with pwr.islands := sPut {} d.pwr.islands k x }

/-- Frequency a pipeline may run at now, in 25 MHz units. -/
def pipeTarget (d : Dev) (p : Nat) : Nat := min (pipeCeilOf d (p / 17)) (min 1200 (freqAt (vcore d (p / 17)))) / 25

/-- Cores whose frequency differs from what their ceiling allows are changing, and relock once their voltage allows it (R164). -/
def clocksFollow (d : Dev) : Dev :=
  let ch : Nat → CoreSt → CoreSt := fun k c =>
    { c with changing := decide (c.actual ≠ 0) && decide (min c.req.toNat (coreCeilOf d (k / 68)) ≠ c.actual.toNat)
             relock := mustRelock d k c }
  { d with grid.cores := sMap {} ch d.grid.cores }

/-! The ladder (R388, R389). -/

/-- Program steps are stopped on every die: input below 38 V, or no VARR_PUMP (R381, R382). -/
def programsStopped (d : Dev) : Bool := d.pwr.vinLow || (getStage d 8).lost

/-- Program limit of every die at rung k. -/
def progLimitOf (d : Dev) : Nat :=
  if programsStopped d then 0 else max 16 (64 * (32 - min d.pwr.k 24) / 32)

def applyPrograms (d : Dev) : Dev :=
  (List.range 16).foldl (fun x n => programPause n (modDie n (fun y => { y with progLimit := progLimitOf x }) x)) d

/-- apply(k): a lower budget is shared out at once, a higher one at the next recomputation (R88, R390). -/
def applyRung (d : Dev) : Dev :=
  let a := min d.pwr.k 24
  let c := d.pwr.k - 24
  let budget := ceilDiv (d.pwr.bfull * (32 - a)) 32
  let d1 := { d with
    arr.budget := budget, arr.budgetFloor := decide (d.pwr.k ≥ 24)
    pwr.coreCeil := 72 - 4 * c, pwr.pipeCeil := 1200 - 75 * c }
  let d2 := if budget < d.arr.budget then shareRecompute d1 else d1
  applyPrograms (clocksFollow d2)

/-! Domains (R391–R394). -/

/-- The unit of a domain, where one exists (R402). -/
def domUnit (n : Nat) : Option W32 :=
  if n < 272 then some (uCore n) else if n < 340 then some (uPipe (n - 272))
  else if 349 ≤ n ∧ n < 365 then some (uDie (n - 349)) else if 366 ≤ n ∧ n < 374 then some (uPort (n - 366)) else none

/-- A context is in states 1–6. -/
def liveCtx (d : Dev) : Bool := d.srv.ctxs.any fun c => decide (1 ≤ c.2.state ∧ c.2.state ≤ 6)

/-- Work that has not ended keeps a domain up (R29, R158, R332). -/
def domBusy (d : Dev) (n : Nat) : Bool :=
  if n < 272 then
    let c := getCore d n
    decide (c.state = 1) || !c.calls.isEmpty || !c.attCall.isEmpty || c.dma.any (fun q => !q.2.ents.isEmpty)
  else if n < 340 then !d.att.calls.isEmpty
  else if n < 349 then
    d.srv.sail.running || d.plc.computing || !d.plc.loads.isEmpty || !d.plc.cmds.isEmpty || !d.att.calls.isEmpty || !d.att.moves.isEmpty
  else if n < 365 then
    let x := getDie d (n - 349)
    !x.refireQ.isEmpty || !x.trafficQ.isEmpty || !x.maintQ.isEmpty || !x.maintWait.isEmpty || !x.running.isEmpty
      || !x.programming.isEmpty
      || decide (x.buffers > 0) || !d.arr.calls.isEmpty
  else if n = 365 then liveCtx d || !d.plc.cmds.isEmpty
  else if n < 374 then
    let p := (sGet {} d.fab.ports (n - 366)).state
    decide (p = 3 ∨ p = 4 ∨ p = 6)
  else if n = 374 then true else false

/-- A rail of the domain belongs to a stage marked faulty (R385). -/
def domStages (n : Nat) : List Nat :=
  if n < 272 then [n / 68, 4] else if n < 340 then [(n - 272) / 17, 4] else if n < 345 then [5, 4]
  else if n < 349 then [9, 10, 5] else if n < 365 then [if n < 357 then 6 else 7, 8, 5]
  else if n = 365 then [11, 5] else if n < 374 then [11] else [5]

/-- A hold keeps the domain from entering a state: live contexts (R274), stored pages (R211), sessions (R371), work, a start in
progress, and a faulty stage for Off (R385). -/
def domHeld (d : Dev) (n tgt : Nat) : Bool :=
  d.sec.holds.contains n || domBusy d n || decide (d.nor.at_ ≠ 0)
    || (decide (340 ≤ n ∧ n < 349) && liveCtx d)
    || (decide (tgt = 4) && decide (340 ≤ n ∧ n < 349) && (allPages d).any fun e => e.2.valid && decide (e.2.tier ≤ 1))
    || (decide (tgt = 4) && (domStages n).any fun s => (getStage d s).faulty)

/-- Everything the hot store and HBM held of requests: every descriptor is Free (R274). -/
def contextsLost (d : Dev) : Dev :=
  { d with
    srv.ctxs := [], srv.sail := {}, hbm := [], att.calls := [], att.moves := [], att.assign := [], att.given := []
    att.prefixes := (d.att.prefixes.filter fun p => p.2.state ≠ 3).map fun p => (p.1, { p.2 with refs := 0 })
    rel.marks := [], grid.faulted := [], grid.refused := [], grid.faultCalls := [], grid.ran := [] }

/-- Fields of the control processors' registers return to their reset values (R14); those that come from the configuration block are set
when the domain runs again. -/
def cpLost (d : Dev) : Dev :=
  { d with
    time := { d.time with busy := false, valid := false, corrStamp := 0, corrCp := 0, corrUnc := 0, cpNs := 0 }
    rel := { d.rel with xchkSecs := 60, query := 0, queryValid := false, est := 0 }
    hif := { d.hif with winEnable := false, winBase := 0 }
    num := { d.num with policy := {}, flags := 0 }
    srv := { d.srv with
      adm := {}, measured := 0, estimate := 0, sequences := 0, prefill := 0, rate := 0, query := 0, queryValid := false }
    arr := { d.arr with
      budget := 0, budgetFloor := false, passCnt := 0, splitGroups := 0, extraPasses := 0, flagged := 0, repeated := 0, query := 0
      queryValid := false }
    plc := { d.plc with
      epoch := 0, computing := false, dropped := 0, genQuery := 0, genValid := false, attQuery := 0, attValid := false }
    att := { d.att with items := 0, emptyRows := 0, parkFail := 0, assign := [] }
    fab := { d.fab with sent := 0, resent := 0, failed := 0, fails := 0, planEpoch := 0, computing := false } }

/-- What a die keeps without power, its planes apart. -/
def dieKept (x : DieSt) : DieSt :=
  { suspect := x.suspect, retired := x.retired, linkDown := x.linkDown, kappa := x.kappa, compUsed := x.compUsed, progWait := x.progWait }

/-- A domain enters Off: what it does not keep is lost. -/
def domOff (n : Nat) (d : Dev) : Dev :=
  if n < 272 then { d with grid.cores := sDel d.grid.cores n, pwr.islands := sDel d.pwr.islands n }
  else if n < 340 then { d with att.pipes := sDel d.att.pipes (n - 272), pwr.islands := sDel d.pwr.islands n }
  else if n = 344 then cpLost d
  else if 345 ≤ n ∧ n < 349 then contextsLost d
  else if 349 ≤ n ∧ n < 365 then modDie (n - 349) (fun x => { dieKept x with permTabs := x.permTabs }) d
  else if n = 365 then { d with hif := {} }
  else if 366 ≤ n ∧ n < 374 then { d with fab.ports := sDel d.fab.ports (n - 366) }
  else d

/-- Accumulators and reduction contexts of a core are not retained below Idle (R158): their next values are free; nor is the SRAM of a
pipeline (R211). -/
def coreSleeps (n : Nat) (d : Dev) : Dev :=
  if n < 272 then
    modCore n (fun c => { c with acc := [], ctx := [], mma := [], epoch := d.freeCtr + 1 }) { d with freeCtr := d.freeCtr + 1 }
  else if n < 340 then { d with att.pipes := sPut {} d.att.pipes (n - 272) { sGet {} d.att.pipes (n - 272) with sram := {} } }
  else d

/-! Power lost, standby, starts. -/

/-- Held event counts go with HBM (R351). -/
def heldLost (d : Dev) : Store UnitRec :=
  d.rel.hourHeld.foldl (fun m h =>
    let u := sGet {} m h.1
    sPut {} m h.1 { u with times := u.times.drop h.2, life := u.life - h.2 }) d.rel.units

def stageOff (x : StageSt) : StageSt :=
  { x with enabled := false, target := 0, rampEnd := 0, goodFrom := 0, fails := 0, power := 0, iin := 0, vout := 0, iout := 0 }

/-- Every rail but VSTBY is lost: what the hub, the dies and HBM do not keep is gone (R90, R274, R381). The Lamplighter, the
Lantern, the flash and the array contents stay. -/
def powerLoss (d : Dev) : Dev :=
  let d1 := cpLost (contextsLost d)
  { d1 with
    log := { recs := [], count := 0, ready := false, queued := d.log.queued }
    grid := { cores := [], map := d.grid.map, net := [], faulted := [], refused := [], faultCalls := [], ran := [], held := [] }
    num := { listed := d.num.listed }
    arr := { d1.arr with
      dies := sMap {} (fun _ x => dieKept x) d.arr.dies
      calls := [], swapTokens := 0, asks := [] }
    rel := { d1.rel with
      xchk := none, xchkDue := [], layersDue := [], corrected := [], tern := [], hourHeld := [], units := heldLost d, cpDown := []
      deferred := [] }
    att := { map := d.att.map, prefixes := d1.att.prefixes, adapters := d.att.adapters }
    hif := {}
    plc := { d1.plc with
      dtabs := [], cmds := [], hints := [], epoch := 0, computing := false, nextPlan := [], nextDropped := 0, plan := []
      dropped := 0, experts := [], lower := [], passes := [], frozenExperts := [], frozenPasses := []
      genValid := false, attValid := false, shards := 0, remote := [] }
    srv := { variants := d.srv.variants }
    fab := {}
    pwr := { d1.pwr with
      stages := sMap {} (fun _ x => stageOff x) d.pwr.stages
      k := 0, lows := 0, above := 0, hold := false, last := [], secSum := 0, secN := 0, coreCeil := 0, pipeCeil := 0, quad := []
      doms := [], islands := [], query := 0, queryValid := false }
    nor := { d1.nor with at_ := 0, nextOff := 0, fwState := 0, handed := [], confirmed := [], handedUs := [] }
    sec := { d1.sec with holds := [] } }

/-- Enter standby (R396): 5008h with its cause. A commanded standby goes through the domain entry: dies copy their records (R96). -/
def standby (cause : Nat) (d : Dev) : Dev :=
  let d1 := powerLoss (if cause ≤ 2 then (List.range 16).foldl (fun x n => copyRecords n x) d else d)
  raise 0x5008 1 0 uDevice (pay [(16, 1, 1), (17, 1, cause)])
    { d1 with pwr.mode := 1, pwr.tripStart := false, nor.standbyWaits := false }

/-- A start begins: 1 power-on, 2 standby exit, 3 trip restart; the last two skip step 1 (R428). -/
def startBegin (cause : Nat) (d : Dev) : Dev :=
  let st := if cause = 1 then 1 else 2
  { d with
    pwr.mode := 2, pwr.tripStart := decide (cause = 3), pwr.restartDue := false
    rel.hbmOff := []
    nor := { d.nor with at_ := st, cause := cause, step := st, duration := 0, fallback := false, recovery := false, wakes := [] } }

/-- A wake source asks for the device (R394, R396, R401, R431): from standby it starts it, but not within 30 s of a trip nor
after a refused restart until THM_TRIP_CTL.clear; during a start it is recorded. -/
def deviceWake (source : Nat) (d : Dev) : Dev :=
  match d.pwr.mode with
  | 1 =>
    if d.pwr.tripped && (decide (d.time.stampUs < d.pwr.tripUs + 30000000) || (d.pwr.locked && !d.pwr.cleared)) then d
    else
      let d1 := raise 0x5008 1 0 uDevice (pay [(16, 1, 2), (17, 1, 5)]) (wakeRecord source 511 d)
      startBegin 2 { d1 with pwr.locked := false, pwr.cleared := false }
  | 2 => { wakeRecord source 511 d with nor.wakes := d.nor.wakes ++ [source] }
  | 3 => wakeRecord source 511 d
  | _ => d

/-! Regions and trips (R397–R401), temperatures in 0.25 °C. -/

/-- Sensors of a region; none for an HBM stack. -/
def regionSensors (r : Nat) : List Nat :=
  if r < 4 then (List.range 24).map (24 * r + ·)
  else if r < 20 then (List.range 16).map (96 + 16 * (r - 4) + ·)
  else if r < 24 then [] else (List.range 8).map (352 + ·)

/-- Neighbours of a sensor. -/
def sensorNeighbours (i : Nat) : List Nat :=
  let gridN : Nat → Nat → Nat → List Nat := fun base rows cols =>
    let j := i - base
    (if j ≥ cols then [i - cols] else []) ++ (if j / cols + 1 < rows then [i + cols] else [])
      ++ (if j % cols > 0 then [i - 1] else []) ++ (if j % cols + 1 < cols then [i + 1] else [])
  if i < 96 then gridN 0 8 12
  else if i < 352 then gridN (96 + (i - 96) / 16 * 16) 4 4
  else [352 + (i - 352 + 1) % 8, 352 + (i - 352 + 7) % 8]

/-- Trip point of a region in °C. -/
def tripPoint (r : Nat) : Nat := if r < 4 then 115 else if r < 20 then 95 else if r < 24 then 105 else 125

def getRegion (d : Dev) (r : Nat) : RegionSt := sGet {} d.lmp.regions r
def regionAbove (d : Dev) (r : Nat) : Bool := decide ((getRegion d r).temp > 4 * (throttlePoint d r : Int))

/-- The region nearest its throttle point; ties to the lowest. -/
def hottestRegion (d : Dev) : Nat :=
  (List.range 24).foldl (fun b i =>
    let r := i + 1
    if (getRegion d r).temp - 4 * (throttlePoint d r : Int) > (getRegion d b).temp - 4 * (throttlePoint d b : Int) then r else b) 0

/-- Microseconds of 24 h. -/
def dayUs : Nat := 86400000000

/-- A critical trip (R400): THERM_TRIP_N, then every rail but VSTBY off, 6006h, and standby. -/
def trip (region sensor temp : Nat) (d : Dev) : Dev :=
  let now := d.time.stampUs
  let recent := d.pwr.trips.filter fun t => decide ((now - t).toNat < dayUs)
  let d1 := { d with
    pwr.tripped := true, pwr.tripUs := now, pwr.trips := recent ++ [now], pwr.restartDue := true
    lmp.regions := sMap {} (fun _ r => { r with hot := 0 }) d.lmp.regions }
  let d2 := powerLoss d1
  let d3 := raise 0x6006 4 0 uDevice (pay [(16, 1, region), (17, 1, sensor), (18, 2, temp)])
    { d2 with pwr.mode := 1, pwr.tripStart := false }
  raise 0x5008 1 0 uDevice (pay [(16, 1, 1), (17, 1, 3)]) d3

/-- One step of L down (R398, R419): the first step below E starts throttling (R399). -/
def limDown (d : Dev) : Dev :=
  let e : Rat := d.pwr.e
  let l := max (d.pwr.l - e / 32) (e / 4)
  let r := hottestRegion d
  let d1 := { d with pwr.l := l }
  if d.pwr.l ≥ e ∧ l < e then
    let d2 := raise 0x6001 1 0 uDevice (pay [(16, 1, r), (18, 2, wrap 16 (getRegion d r).temp)])
      { d1 with pwr.throttleUs := d.time.stampUs }
    throttleBegins (roundStep d.freeCtr 0 l).toNat { d2 with freeCtr := d2.freeCtr + 1 }
  else d1

def anyDerated (d : Dev) : Bool := d.pwr.stages.any fun s => s.2.derated

/-- One step of L up: its return to E ends throttling, unless a stage is derated; E/2 bounds it in the first 60 s after a trip
restart. -/
def limUp (d : Dev) : Dev :=
  let e : Rat := d.pwr.e
  let cap := match d.pwr.halfUntil with
    | some t => if d.time.stampUs < t then e / 2 else e
    | none => e
  let l := max d.pwr.l (min (d.pwr.l + e / 32) cap)
  let d1 := { d with pwr.l := l }
  if d.pwr.l < e ∧ l ≥ e then
    let d2 := raise 0x6002 1 0 uDevice (pay [(16, 2, (d.time.stampUs - d.pwr.throttleUs).toNat / 1000)]) d1
    if anyDerated d then d2 else throttleEnds d2
  else d1

end Sys2Proof.Machine
end

