-- ==== Sys2Proof/Machine/Clock.lean ====
section
/-! DEFINITION. One microsecond with no command waiting (log entry 1). -/

namespace Sys2Proof.Machine

/-- The Lamplighter's counter advances while VSTBY is present (R8); the control processors' time advances while their island is not
Off (R31). -/
def tick (d : Dev) : Dev :=
  if d.pwr.mode = 0 then d
  else { d with
    time.stampUs := d.time.stampUs + 1
    time.cpNs := if d.pwr.mode = 1 ∨ (getDom d 344).state = 4 then d.time.cpNs else d.time.cpNs + 1000 }

end Sys2Proof.Machine
end

