-- ==== Sys2Proof/Machine/CoreAlu.lean ====
section
/-! DEFINITION. Core classes 0h, 1h, 3h, Ch and Dh: scalar ALU, branches, predicates and system instructions (R165). -/

namespace Sys2Proof.Machine

/-- Operations of class 0h. -/
inductive AluOp where
  | add
  | sub
  | mul
  | mulhu
  | and'
  | or'
  | xor
  | shl
  | shr
  | sra
  | slt
  | sltu
  | min
  | max
  deriving DecidableEq, Repr

/-- s_d = s_a op s_b on 64-bit words. Sums, differences and products keep the low 64 bits; slt, min and max compare as
signed words (log entry 11); the result of a shift by 64 or more is not stated and stays free (log entry 12). -/
def aluOp (op : AluOp) (x y : W64) : W64 :=
  match op with
  | .add => x + y
  | .sub => x - y
  | .mul => x * y
  | .mulhu => BitVec.ofNat 64 (x.toNat * y.toNat / 2 ^ 64)
  | .and' => x &&& y
  | .or' => x ||| y
  | .xor => x ^^^ y
  | .shl => if y.toNat < 64 then x <<< y.toNat else Config.wideShift 0 x y
  | .shr => if y.toNat < 64 then x >>> y.toNat else Config.wideShift 1 x y
  | .sra => if y.toNat < 64 then x.sshiftRight y.toNat else Config.wideShift 2 x y
  | .slt => if x.slt y then 1 else 0
  | .sltu => if x.ult y then 1 else 0
  | .min => if y.slt x then y else x
  | .max => if x.slt y then y else x

/-- Class 0h: mod is unused. -/
def aluR (op : AluOp) (k : CoreIx) (f : RForm) (d : Dev) : Dev :=
  coreR k f (f.mod = 0) (fun c => onCore k fun _ => ws f.d (aluOp op (rs c f.a) (rs c f.b)) c) d

/-- A shift's immediate operand is imm[5:0]. -/
def immShift (v : W64) : W64 := v &&& 0x3F

/-- Class 1h, in the I format or the long form: the immediate stands in place of s_b. -/
def aluI (op : AluOp) (shift : Bool) (k : CoreIx) (f : ImmForm) (d : Dev) : Dev :=
  let v := if shift then immShift (immOf f) else immOf f
  coreI k f true (fun c => onCore k fun _ => ws (immD f) (aluOp op (rs c (immA f)) v) c) d

/-- add (R165). -/
def execAdd (k : CoreIx) (f : RForm) (s : State) : Out := run (aluR .add k f) s

/-- sub (R165). -/
def execSub (k : CoreIx) (f : RForm) (s : State) : Out := run (aluR .sub k f) s

/-- mul (R165). -/
def execMul (k : CoreIx) (f : RForm) (s : State) : Out := run (aluR .mul k f) s

/-- mulhu (R165). -/
def execMulhu (k : CoreIx) (f : RForm) (s : State) : Out := run (aluR .mulhu k f) s

/-- and (R165). -/
def execAndr (k : CoreIx) (f : RForm) (s : State) : Out := run (aluR .and' k f) s

/-- or (R165). -/
def execOrr (k : CoreIx) (f : RForm) (s : State) : Out := run (aluR .or' k f) s

/-- xor (R165). -/
def execXorr (k : CoreIx) (f : RForm) (s : State) : Out := run (aluR .xor k f) s

/-- shl (R165). -/
def execShl (k : CoreIx) (f : RForm) (s : State) : Out := run (aluR .shl k f) s

/-- shr (R165). -/
def execShr (k : CoreIx) (f : RForm) (s : State) : Out := run (aluR .shr k f) s

/-- sra (R165). -/
def execSra (k : CoreIx) (f : RForm) (s : State) : Out := run (aluR .sra k f) s

/-- slt (R165). -/
def execSlt (k : CoreIx) (f : RForm) (s : State) : Out := run (aluR .slt k f) s

/-- sltu (R165). -/
def execSltu (k : CoreIx) (f : RForm) (s : State) : Out := run (aluR .sltu k f) s

/-- min (R165). -/
def execMinr (k : CoreIx) (f : RForm) (s : State) : Out := run (aluR .min k f) s

/-- max (R165). -/
def execMaxr (k : CoreIx) (f : RForm) (s : State) : Out := run (aluR .max k f) s

/-- add with an immediate (R165). -/
def execAddi (k : CoreIx) (f : ImmForm) (s : State) : Out := run (aluI .add false k f) s

/-- sub with an immediate (R165). -/
def execSubi (k : CoreIx) (f : ImmForm) (s : State) : Out := run (aluI .sub false k f) s

/-- mul with an immediate (R165). -/
def execMuli (k : CoreIx) (f : ImmForm) (s : State) : Out := run (aluI .mul false k f) s

/-- mulhu with an immediate (R165). -/
def execMulhui (k : CoreIx) (f : ImmForm) (s : State) : Out := run (aluI .mulhu false k f) s

/-- and with an immediate (R165). -/
def execAndi (k : CoreIx) (f : ImmForm) (s : State) : Out := run (aluI .and' false k f) s

/-- or with an immediate (R165). -/
def execOri (k : CoreIx) (f : ImmForm) (s : State) : Out := run (aluI .or' false k f) s

/-- xor with an immediate (R165). -/
def execXori (k : CoreIx) (f : ImmForm) (s : State) : Out := run (aluI .xor false k f) s

/-- shl with an immediate (R165). -/
def execShli (k : CoreIx) (f : ImmForm) (s : State) : Out := run (aluI .shl true k f) s

/-- shr with an immediate (R165). -/
def execShri (k : CoreIx) (f : ImmForm) (s : State) : Out := run (aluI .shr true k f) s

/-- sra with an immediate (R165). -/
def execSrai (k : CoreIx) (f : ImmForm) (s : State) : Out := run (aluI .sra true k f) s

/-- slt with an immediate (R165). -/
def execSlti (k : CoreIx) (f : ImmForm) (s : State) : Out := run (aluI .slt false k f) s

/-- sltu with an immediate (R165). -/
def execSltui (k : CoreIx) (f : ImmForm) (s : State) : Out := run (aluI .sltu false k f) s

/-- min with an immediate (R165). -/
def execMini (k : CoreIx) (f : ImmForm) (s : State) : Out := run (aluI .min false k f) s

/-- max with an immediate (R165). -/
def execMaxi (k : CoreIx) (f : ImmForm) (s : State) : Out := run (aluI .max false k f) s

/-! Branches. -/

/-- Target of a taken branch: the offset counts instructions relative to the branch. -/
def brTarget (c : CoreSt) (off : BitVec 12) : Nat := (c.pc + (off.signExtend 22 <<< 2)).toNat

/-- Compare and branch. -/
def branch (cond : W64 → W64 → Bool) (k : CoreIx) (f : BForm) (d : Dev) : Dev :=
  coreRun k 4 true (fun _ => true)
    (fun c d1 => if cond (rs c f.a) (rs c f.b) then .jump d1 (brTarget c f.off) else .done d1) d

/-- beq (R165). -/
def execBeq (k : CoreIx) (f : BForm) (s : State) : Out := run (branch (fun x y => x == y) k f) s

/-- bne (R165). -/
def execBne (k : CoreIx) (f : BForm) (s : State) : Out := run (branch (fun x y => x != y) k f) s

/-- blt (R165). -/
def execBlt (k : CoreIx) (f : BForm) (s : State) : Out := run (branch (fun x y => x.slt y) k f) s

/-- bge (R165). -/
def execBge (k : CoreIx) (f : BForm) (s : State) : Out := run (branch (fun x y => !x.slt y) k f) s

/-- bltu (R165). -/
def execBltu (k : CoreIx) (f : BForm) (s : State) : Out := run (branch (fun x y => x.ult y) k f) s

/-- bgeu (R165). -/
def execBgeu (k : CoreIx) (f : BForm) (s : State) : Out := run (branch (fun x y => !x.ult y) k f) s

/-- bp: branch when bit 0 of p_a is 1; the b field is unused. -/
def execBp (k : CoreIx) (f : BForm) (s : State) : Out :=
  run (coreRun k 4 (decide (f.a.val < 8) && decide (f.b.val = 0)) (fun _ => true)
    (fun c d => if bitAt (rp c f.a).toNat 0 then .jump d (brTarget c f.off) else .done d)) s

/-- A jump target's low 22 bits; one that is not 4-byte aligned is fault 02h (R163, log entry 11). -/
def jumpTo (a : Nat) (d : Dev) : CoreRes := if a % 4 ≠ 0 then .fault 2 a else .jump d (a % 2 ^ 22)

/-- jr: jump to s_a, return address to s_b, offset 0. -/
def execJr (k : CoreIx) (f : BForm) (s : State) : Out :=
  run (coreRun k 4 (f.off = 0) (fun _ => true)
    (fun c d => jumpTo (rs c f.a).toNat (modCore k (ws f.b (BitVec.ofNat 64 (c.pc.toNat + 4))) d))) s

/-- jal, long form only: s_d = return address, jump to imm32; a and mod are unused. -/
def execJal (k : CoreIx) (f : LForm) (s : State) : Out :=
  run (coreRun k 8 (decide (f.a.val = 0) && decide (f.mod.val = 0)) (fun c => guardOn c f.guard f.neg)
    (fun c d => jumpTo f.imm.toNat (modCore k (ws f.d (BitVec.ofNat 64 (c.pc.toNat + 8))) d))) s

/-! Predicates. -/

/-- p_d = p_a op p_b; predicate fields use 0–7. -/
def predOp (op : W32 → W32 → W32) (k : CoreIx) (f : RForm) (d : Dev) : Dev :=
  coreR k f (decide (f.d.val < 8 ∧ f.a.val < 8 ∧ f.b.val < 8 ∧ f.mod.val = 0))
    (fun c => onCore k fun _ => wp f.d (op (rp c f.a) (rp c f.b)) c) d

/-- pand (R165). -/
def execPand (k : CoreIx) (f : RForm) (s : State) : Out := run (predOp (· &&& ·) k f) s
/-- por (R165). -/
def execPor (k : CoreIx) (f : RForm) (s : State) : Out := run (predOp (· ||| ·) k f) s
/-- pxor (R165). -/
def execPxor (k : CoreIx) (f : RForm) (s : State) : Out := run (predOp (· ^^^ ·) k f) s

/-- pnot: p_d = not p_a; b and mod are unused. -/
def execPnot (k : CoreIx) (f : RForm) (s : State) : Out :=
  run (coreR k f (decide (f.d.val < 8 ∧ f.a.val < 8 ∧ f.b.val = 0 ∧ f.mod.val = 0))
    (fun c => onCore k fun _ => wp f.d (~~~(rp c f.a)) c)) s

/-- pset: p_d = s_a[31:0]. -/
def execPset (k : CoreIx) (f : RForm) (s : State) : Out :=
  run (coreR k f (decide (f.d.val < 8 ∧ f.b.val = 0 ∧ f.mod.val = 0))
    (fun c => onCore k fun _ => wp f.d ((rs c f.a).truncate 32) c)) s

/-- pget: s_d = p_a. -/
def execPget (k : CoreIx) (f : RForm) (s : State) : Out :=
  run (coreR k f (decide (f.a.val < 8 ∧ f.b.val = 0 ∧ f.mod.val = 0))
    (fun c => onCore k fun _ => ws f.d ((rp c f.a).zeroExtend 64) c)) s

/-! Control registers (indices 000h–005h). -/

/-- Ceiling of a core in 25 MHz units: the ladder's, and its quadrant's own (R382, R388). -/
def clkCeil (d : Dev) (k : Nat) : Nat := coreCeilOf d (k / 68)

/-- Value of a core control register; none where the index names no register. -/
def csrVal (d : Dev) (k : Nat) (c : CoreSt) (i : Nat) : Option W64 :=
  match i with
  | 0 => some (BitVec.ofNat 64 (lay []
      + c.state.toNat + b2n c.stalled * 4 + c.cause.toNat * 8 + b2n (logicalCore d k).isSome * 64
      + b2n (decide ((sGet {} d.rel.units (uCore k).toNat).state = 2)) * 128
      + ((logicalCore d k).getD 0) * 256 + c.tenant.toNat * 65536))
  | 1 => some (BitVec.ofNat 64 (c.req.toNat + clkCeil d k * 2 ^ 7 + c.actual.toNat * 2 ^ 14 + b2n c.changing * 2 ^ 21))
  | 2 => some (c.tenant.zeroExtend 64)
  | 3 => some (BitVec.ofNat 64 (b2n c.infMade + b2n c.nanMade * 2 + b2n c.empty * 4 + c.infCount.toNat * 2 ^ 8
      + c.nanCount.toNat * 2 ^ 20))
  | 4 => some (coreCycles d c)
  | 5 => some (BitVec.ofNat 64 (c.faultPc.toNat + c.faultAddr.toNat * 2 ^ 22 + c.faultCode.toNat * 2 ^ 44
      + b2n c.faultValid * 2 ^ 52))
  | _ => none

/-- Request a core frequency: clamped to 24–72 units; a change follows R28 when the frequency in force differs. -/
def clkReq (d : Dev) (k v : Nat) (c : CoreSt) : CoreSt :=
  let r := clampNat 24 72 (v % 128)
  let c1 := { c with req := BitVec.ofNat 7 r, changing := decide (min r (clkCeil d k) ≠ c.actual.toNat) }
  { c1 with relock := mustRelock d k c1 }

/-- A write of a core control register by its access types (R12). -/
def csrWrite (d : Dev) (k i : Nat) (v : W64) (c : CoreSt) : CoreSt :=
  match i with
  | 1 => clkReq d k v.toNat c
  | 3 => { c with
      infMade := c.infMade && !v.getLsbD 0, nanMade := c.nanMade && !v.getLsbD 1, empty := c.empty && !v.getLsbD 2 }
  | 5 => { c with faultValid := c.faultValid && !v.getLsbD 52 }
  | _ => c

/-- csrr: s_d = control register imm; the a field is unused; an index that names no register is fault 01h (log
entry 11). -/
def execCsrr (k : CoreIx) (f : ImmForm) (s : State) : Out :=
  run (coreI k f (decide (immA f = 0)) (fun c d =>
    match csrVal d k c (immOf f).toNat with
    | some v => onCore k (fun _ => ws (immD f) v c) d
    | none => .fault 1 0)) s

/-- csrw: control register imm = s_a; the d field is unused. -/
def execCsrw (k : CoreIx) (f : ImmForm) (s : State) : Out :=
  run (coreI k f (decide (immD f = 0)) (fun c d =>
    match csrVal d k c (immOf f).toNat with
    | some _ => onCore k (fun _ => csrWrite d k (immOf f).toNat (rs c (immA f)) c) d
    | none => .fault 1 0)) s

/-! System. -/

/-- nop: no field is used. -/
def execNop (k : CoreIx) (f : RForm) (s : State) : Out :=
  run (coreR k f (decide (f.d.val = 0 ∧ f.a.val = 0 ∧ f.b.val = 0 ∧ f.mod.val = 0)) (fun _ d => .done d)) s

/-- rdcyc: s_d = core cycles. -/
def execRdcyc (k : CoreIx) (f : RForm) (s : State) : Out :=
  run (coreR k f (decide (f.a.val = 0 ∧ f.b.val = 0 ∧ f.mod.val = 0))
    (fun c d => onCore k (fun _ => ws f.d (coreCycles d c) c) d)) s

/-- fence with its mod mask: bit 0 orders loads after DMA and array-port writes, which the model completes in order; bit 2
waits until every local-to-HBM write issued before it has reached HBM (R176). -/
def execFence (k : CoreIx) (f : RForm) (s : State) : Out :=
  run (coreR k f (decide (f.d.val = 0 ∧ f.a.val = 0 ∧ f.b.val = 0)) (fun c d =>
    let out := c.dma.any fun q => q.2.ents.any fun e => bitAt (fld e.desc 28 1) 0
    if bitAt f.mod.val 2 && out then .stall 4 else .done d)) s

/-- trap: a breakpoint when a debugger is attached, fault 09h otherwise (R177, R178). -/
def execTrap (k : CoreIx) (f : RForm) (s : State) : Out :=
  run (coreR k f (decide (f.d.val = 0 ∧ f.a.val = 0 ∧ f.b.val = 0 ∧ f.mod.val = 0))
    (fun c d => if c.attached then (if c.brkSkip then .done d else .halt) else .fault 9 0)) s

end Sys2Proof.Machine
end

