-- ==== Sys2Proof/Machine/CoreMem.lean ====
section
/-! DEFINITION. Core classes 2h and 5h: loads and stores (R163, R165). -/

namespace Sys2Proof.Machine

/-- Local address s_a + imm of a scalar access. -/
def memAddr (c : CoreSt) (f : ImmForm) : Nat := (rs c (immA f) + immOf f).toNat

/-- s_d = n bytes at s_a + imm, zero-extended; scalar accesses are naturally aligned. -/
def load (n : Nat) (k : CoreIx) (f : ImmForm) (d : Dev) : Dev :=
  coreI k f true (fun c d1 =>
    let a := memAddr c f
    withAccess c a n n false (onCore k (fun _ => ws (immD f) (BitVec.ofNat 64 (localNat c a n)) c) d1)) d

/-- n bytes at s_a + imm = the low bytes of s_d. -/
def store (n : Nat) (k : CoreIx) (f : ImmForm) (d : Dev) : Dev :=
  coreI k f true (fun c d1 =>
    let a := memAddr c f
    withStore k c a n n (onCore k (fun _ => putLocal a (toLe n (rs c (immD f)).toNat) c) d1)) d

/-- ld8u (R163). -/
def execLd8u (k : CoreIx) (f : ImmForm) (s : State) : Out := run (load 1 k f) s
/-- ld16u (R163). -/
def execLd16u (k : CoreIx) (f : ImmForm) (s : State) : Out := run (load 2 k f) s
/-- ld32u (R163). -/
def execLd32u (k : CoreIx) (f : ImmForm) (s : State) : Out := run (load 4 k f) s
/-- ld64 (R163). -/
def execLd64 (k : CoreIx) (f : ImmForm) (s : State) : Out := run (load 8 k f) s
/-- st8 (R163). -/
def execSt8 (k : CoreIx) (f : ImmForm) (s : State) : Out := run (store 1 k f) s
/-- st16 (R163). -/
def execSt16 (k : CoreIx) (f : ImmForm) (s : State) : Out := run (store 2 k f) s
/-- st32 (R163). -/
def execSt32 (k : CoreIx) (f : ImmForm) (s : State) : Out := run (store 4 k f) s
/-- st64 (R163). -/
def execSt64 (k : CoreIx) (f : ImmForm) (s : State) : Out := run (store 8 k f) s

/-- Local address s_a + imm × 128 of a vector access. -/
def vecAddr (c : CoreSt) (f : IForm) : Nat := (rs c f.a + (f.imm.signExtend 64 <<< 7)).toNat

/-- vld: v_d = 128 B at s_a + imm × 128, aligned to 128 B. -/
def execVld (k : CoreIx) (f : IForm) (s : State) : Out :=
  run (coreRun k 4 (decide (f.d.val < 16)) (fun _ => true) (fun c d =>
    let a := vecAddr c f
    withAccess c a 128 128 false (onCore k (fun _ => wv f.d (BitVec.ofNat 1024 (localNat c a 128)) c) d))) s

/-- vst: 128 B at s_a + imm × 128 = v_d. -/
def execVst (k : CoreIx) (f : IForm) (s : State) : Out :=
  run (coreRun k 4 (decide (f.d.val < 16)) (fun _ => true) (fun c d =>
    let a := vecAddr c f
    withStore k c a 128 128 (onCore k (fun _ => putLocal a (toLe 128 (rv c f.d).toNat) c) d))) s

end Sys2Proof.Machine
end

