-- ==== Sys2Proof/Machine/CoreWords.lean ====
section
/-! DEFINITION. The core's instruction words (R165): formats, classes and operations, read and written. -/

namespace Sys2Proof.Machine

/-! Formats. -/

/-- R format: d [21:17], a [16:12], b [11:7], guard [6:4], neg [3], mod [2:0]. -/
def wordR (w : Nat) : RForm :=
  { d := Fin.ofNat 32 (bits w 17 5), a := Fin.ofNat 32 (bits w 12 5), b := Fin.ofNat 32 (bits w 7 5)
    guard := Fin.ofNat 8 (bits w 4 3), neg := bitAt w 3, mod := Fin.ofNat 8 (bits w 0 3) }
/-- I format: d [21:17], a [16:12], immediate [11:0]. -/
def wordI (w : Nat) : IForm :=
  { d := Fin.ofNat 32 (bits w 17 5), a := Fin.ofNat 32 (bits w 12 5), imm := BitVec.ofNat 12 (bits w 0 12) }
/-- B format: a [21:17], b [16:12], offset [11:0]. -/
def wordB (w : Nat) : BForm :=
  { a := Fin.ofNat 32 (bits w 17 5), b := Fin.ofNat 32 (bits w 12 5), off := BitVec.ofNat 12 (bits w 0 12) }
/-- Long form: d [17:13], a [12:8], guard [7:5], neg [4], mod [3:0] of word 0; word 1 the immediate. -/
def wordL (w v : Nat) : LForm :=
  { d := Fin.ofNat 32 (bits w 13 5), a := Fin.ofNat 32 (bits w 8 5), guard := Fin.ofNat 8 (bits w 5 3), neg := bitAt w 4
    mod := Fin.ofNat 16 (bits w 0 4), imm := BitVec.ofNat 32 v }

def ofR (cls op : Nat) (f : RForm) : Nat :=
  cls * 2 ^ 28 + op * 2 ^ 22 + f.d * 2 ^ 17 + f.a * 2 ^ 12 + f.b * 2 ^ 7 + f.guard * 2 ^ 4 + b2n f.neg * 2 ^ 3 + f.mod
def ofI (cls op : Nat) (f : IForm) : Nat := cls * 2 ^ 28 + op * 2 ^ 22 + f.d * 2 ^ 17 + f.a * 2 ^ 12 + f.imm.toNat
def ofB (cls op : Nat) (f : BForm) : Nat := cls * 2 ^ 28 + op * 2 ^ 22 + f.a * 2 ^ 17 + f.b * 2 ^ 12 + f.off.toNat
def ofL (inner op : Nat) (f : LForm) : Nat :=
  0xF * 2 ^ 28 + inner * 2 ^ 24 + op * 2 ^ 18 + f.d * 2 ^ 13 + f.a * 2 ^ 8 + f.guard * 2 ^ 5 + b2n f.neg * 2 ^ 4 + f.mod

/-! Classes. -/

/-- Class 0h, scalar ALU. -/
def class0 (k : CoreIx) (op : Nat) (f : RForm) : Option Instr :=
  match op with
  | 0 => some (.add k f)
  | 1 => some (.sub k f)
  | 2 => some (.mul k f)
  | 3 => some (.mulhu k f)
  | 4 => some (.andr k f)
  | 5 => some (.orr k f)
  | 6 => some (.xorr k f)
  | 7 => some (.shl k f)
  | 8 => some (.shr k f)
  | 9 => some (.sra k f)
  | 10 => some (.slt k f)
  | 11 => some (.sltu k f)
  | 12 => some (.minr k f)
  | 13 => some (.maxr k f)
  | _ => none

/-- Class 4h, vector ALU. -/
def class4 (k : CoreIx) (op : Nat) (f : RForm) : Option Instr :=
  match op with
  | 0 => some (.vadd k f)
  | 1 => some (.vsub k f)
  | 2 => some (.vmul k f)
  | 3 => some (.vfma k f)
  | 4 => some (.vmax k f)
  | 5 => some (.vmin k f)
  | 6 => some (.vclt k f)
  | 7 => some (.vceq k f)
  | 8 => some (.vcvt k f)
  | 9 => some (.vexp k f)
  | 10 => some (.vrsqrt k f)
  | 11 => some (.vbcast k f)
  | 12 => some (.vsel k f)
  | 13 => some (.vperm k f)
  | _ => none

/-- Class 6h, matrix. -/
def class6 (k : CoreIx) (op : Nat) (f : RForm) : Option Instr :=
  match op with
  | 0 => some (.mma k f)
  | 1 => some (.mmt k f)
  | 2 => some (.azero k f)
  | 3 => some (.ast k f)
  | 4 => some (.ald k f)
  | _ => none

/-- Class 7h, quantise. -/
def class7 (k : CoreIx) (op : Nat) (f : RForm) : Option Instr :=
  match op with
  | 0 => some (.qgrp k f)
  | 1 => some (.qfp4 k f)
  | _ => none

/-- Class 8h, reduction. -/
def class8 (k : CoreIx) (op : Nat) (f : RForm) : Option Instr :=
  match op with
  | 0 => some (.rsum k f)
  | 1 => some (.rsumsq k f)
  | 2 => some (.rmv k f)
  | 3 => some (.rabs k f)
  | 4 => some (.rclr k f)
  | 5 => some (.rmerge k f)
  | 6 => some (.rget k f)
  | 7 => some (.rput k f)
  | _ => none

/-- Class 9h, message. -/
def class9 (k : CoreIx) (op : Nat) (f : RForm) : Option Instr :=
  match op with
  | 0 => some (.send k f)
  | 1 => some (.sendnb k f)
  | 2 => some (.recv k f)
  | 3 => some (.recvnb k f)
  | 4 => some (.mfree k f)
  | 5 => some (.chcfg k f)
  | _ => none

/-- Class Ah, DMA. -/
def classA (k : CoreIx) (op : Nat) (f : RForm) : Option Instr :=
  match op with
  | 0 => some (.dmaq k f)
  | 1 => some (.dwait k f)
  | 2 => some (.dcnt k f)
  | _ => none

/-- Class Bh, array call. -/
def classB (k : CoreIx) (op : Nat) (f : RForm) : Option Instr :=
  match op with
  | 0 => some (.acall k f)
  | 1 => some (.await k f)
  | 2 => some (.atest k f)
  | _ => none

/-- Class Ch, predicate. -/
def classC (k : CoreIx) (op : Nat) (f : RForm) : Option Instr :=
  match op with
  | 0 => some (.pand k f)
  | 1 => some (.por k f)
  | 2 => some (.pxor k f)
  | 3 => some (.pnot k f)
  | 4 => some (.pset k f)
  | 5 => some (.pget k f)
  | _ => none

/-- Class Dh, system. -/
def classD (k : CoreIx) (op : Nat) (f : RForm) : Option Instr :=
  match op with
  | 0 => some (.nop k f)
  | 1 => some (.fence k f)
  | 2 => some (.halt k f)
  | 3 => some (.trap k f)
  | 4 => some (.rdcyc k f)
  | _ => none

/-- Class 1h and inner class 1h, scalar immediate. -/
def class1 (k : CoreIx) (op : Nat) (f : ImmForm) : Option Instr :=
  match op with
  | 0 => some (.addi k f)
  | 1 => some (.subi k f)
  | 2 => some (.muli k f)
  | 3 => some (.mulhui k f)
  | 4 => some (.andi k f)
  | 5 => some (.ori k f)
  | 6 => some (.xori k f)
  | 7 => some (.shli k f)
  | 8 => some (.shri k f)
  | 9 => some (.srai k f)
  | 10 => some (.slti k f)
  | 11 => some (.sltui k f)
  | 12 => some (.mini k f)
  | 13 => some (.maxi k f)
  | _ => none

/-- Class 2h and inner class 2h, scalar memory. -/
def class2 (k : CoreIx) (op : Nat) (f : ImmForm) : Option Instr :=
  match op with
  | 0 => some (.ld8u k f)
  | 1 => some (.ld16u k f)
  | 2 => some (.ld32u k f)
  | 3 => some (.ld64 k f)
  | 8 => some (.st8 k f)
  | 9 => some (.st16 k f)
  | 10 => some (.st32 k f)
  | 11 => some (.st64 k f)
  | 16 => some (.csrr k f)
  | 17 => some (.csrw k f)
  | _ => none

/-- Class 3h, branch. -/
def class3 (k : CoreIx) (op : Nat) (f : BForm) : Option Instr :=
  match op with
  | 0 => some (.beq k f)
  | 1 => some (.bne k f)
  | 2 => some (.blt k f)
  | 3 => some (.bge k f)
  | 4 => some (.bltu k f)
  | 5 => some (.bgeu k f)
  | 6 => some (.bp k f)
  | 7 => some (.jr k f)
  | _ => none

/-- Class 5h, vector memory. -/
def class5 (k : CoreIx) (op : Nat) (f : IForm) : Option Instr :=
  match op with
  | 0 => some (.vld k f)
  | 1 => some (.vst k f)
  | _ => none

/-- The instruction of a word, with the word after it for a long form; none where op, class or inner class is reserved. -/
def coreDecode (k : CoreIx) (w v : Nat) : Option Instr :=
  let op := bits w 22 6
  match bits w 28 4 with
  | 0 => class0 k op (wordR w)
  | 1 => class1 k op (.short (wordI w))
  | 2 => class2 k op (.short (wordI w))
  | 3 => class3 k op (wordB w)
  | 4 => class4 k op (wordR w)
  | 5 => class5 k op (wordI w)
  | 6 => class6 k op (wordR w)
  | 7 => class7 k op (wordR w)
  | 8 => class8 k op (wordR w)
  | 9 => class9 k op (wordR w)
  | 10 => classA k op (wordR w)
  | 11 => classB k op (wordR w)
  | 12 => classC k op (wordR w)
  | 13 => classD k op (wordR w)
  | 15 => match bits w 24 4 with
    | 1 => class1 k (bits w 18 6) (.long (wordL w v))
    | 2 => class2 k (bits w 18 6) (.long (wordL w v))
    | 3 => if bits w 18 6 = 8 then some (.jal k (wordL w v)) else none
    | _ => none
  | _ => none

/-- The words of an instruction of classes 1h and 2h. -/
def ofImm (cls op : Nat) (f : ImmForm) : Nat × Nat :=
  match f with
  | .short g => (ofI cls op g, 0)
  | .long g => (ofL cls op g, g.imm.toNat)

/-- The words of a core instruction, the second 0 but for a long form; none for a command that is no core instruction. -/
def coreEncode (i : Instr) : Option (Nat × Nat) :=
  match i with
  | .add _ f => some (ofR 0 0 f, 0)
  | .sub _ f => some (ofR 0 1 f, 0)
  | .mul _ f => some (ofR 0 2 f, 0)
  | .mulhu _ f => some (ofR 0 3 f, 0)
  | .andr _ f => some (ofR 0 4 f, 0)
  | .orr _ f => some (ofR 0 5 f, 0)
  | .xorr _ f => some (ofR 0 6 f, 0)
  | .shl _ f => some (ofR 0 7 f, 0)
  | .shr _ f => some (ofR 0 8 f, 0)
  | .sra _ f => some (ofR 0 9 f, 0)
  | .slt _ f => some (ofR 0 10 f, 0)
  | .sltu _ f => some (ofR 0 11 f, 0)
  | .minr _ f => some (ofR 0 12 f, 0)
  | .maxr _ f => some (ofR 0 13 f, 0)
  | .vadd _ f => some (ofR 4 0 f, 0)
  | .vsub _ f => some (ofR 4 1 f, 0)
  | .vmul _ f => some (ofR 4 2 f, 0)
  | .vfma _ f => some (ofR 4 3 f, 0)
  | .vmax _ f => some (ofR 4 4 f, 0)
  | .vmin _ f => some (ofR 4 5 f, 0)
  | .vclt _ f => some (ofR 4 6 f, 0)
  | .vceq _ f => some (ofR 4 7 f, 0)
  | .vcvt _ f => some (ofR 4 8 f, 0)
  | .vexp _ f => some (ofR 4 9 f, 0)
  | .vrsqrt _ f => some (ofR 4 10 f, 0)
  | .vbcast _ f => some (ofR 4 11 f, 0)
  | .vsel _ f => some (ofR 4 12 f, 0)
  | .vperm _ f => some (ofR 4 13 f, 0)
  | .mma _ f => some (ofR 6 0 f, 0)
  | .mmt _ f => some (ofR 6 1 f, 0)
  | .azero _ f => some (ofR 6 2 f, 0)
  | .ast _ f => some (ofR 6 3 f, 0)
  | .ald _ f => some (ofR 6 4 f, 0)
  | .qgrp _ f => some (ofR 7 0 f, 0)
  | .qfp4 _ f => some (ofR 7 1 f, 0)
  | .rsum _ f => some (ofR 8 0 f, 0)
  | .rsumsq _ f => some (ofR 8 1 f, 0)
  | .rmv _ f => some (ofR 8 2 f, 0)
  | .rabs _ f => some (ofR 8 3 f, 0)
  | .rclr _ f => some (ofR 8 4 f, 0)
  | .rmerge _ f => some (ofR 8 5 f, 0)
  | .rget _ f => some (ofR 8 6 f, 0)
  | .rput _ f => some (ofR 8 7 f, 0)
  | .send _ f => some (ofR 9 0 f, 0)
  | .sendnb _ f => some (ofR 9 1 f, 0)
  | .recv _ f => some (ofR 9 2 f, 0)
  | .recvnb _ f => some (ofR 9 3 f, 0)
  | .mfree _ f => some (ofR 9 4 f, 0)
  | .chcfg _ f => some (ofR 9 5 f, 0)
  | .dmaq _ f => some (ofR 10 0 f, 0)
  | .dwait _ f => some (ofR 10 1 f, 0)
  | .dcnt _ f => some (ofR 10 2 f, 0)
  | .acall _ f => some (ofR 11 0 f, 0)
  | .await _ f => some (ofR 11 1 f, 0)
  | .atest _ f => some (ofR 11 2 f, 0)
  | .pand _ f => some (ofR 12 0 f, 0)
  | .por _ f => some (ofR 12 1 f, 0)
  | .pxor _ f => some (ofR 12 2 f, 0)
  | .pnot _ f => some (ofR 12 3 f, 0)
  | .pset _ f => some (ofR 12 4 f, 0)
  | .pget _ f => some (ofR 12 5 f, 0)
  | .nop _ f => some (ofR 13 0 f, 0)
  | .fence _ f => some (ofR 13 1 f, 0)
  | .halt _ f => some (ofR 13 2 f, 0)
  | .trap _ f => some (ofR 13 3 f, 0)
  | .rdcyc _ f => some (ofR 13 4 f, 0)
  | .addi _ f => some (ofImm 1 0 f)
  | .subi _ f => some (ofImm 1 1 f)
  | .muli _ f => some (ofImm 1 2 f)
  | .mulhui _ f => some (ofImm 1 3 f)
  | .andi _ f => some (ofImm 1 4 f)
  | .ori _ f => some (ofImm 1 5 f)
  | .xori _ f => some (ofImm 1 6 f)
  | .shli _ f => some (ofImm 1 7 f)
  | .shri _ f => some (ofImm 1 8 f)
  | .srai _ f => some (ofImm 1 9 f)
  | .slti _ f => some (ofImm 1 10 f)
  | .sltui _ f => some (ofImm 1 11 f)
  | .mini _ f => some (ofImm 1 12 f)
  | .maxi _ f => some (ofImm 1 13 f)
  | .ld8u _ f => some (ofImm 2 0 f)
  | .ld16u _ f => some (ofImm 2 1 f)
  | .ld32u _ f => some (ofImm 2 2 f)
  | .ld64 _ f => some (ofImm 2 3 f)
  | .st8 _ f => some (ofImm 2 8 f)
  | .st16 _ f => some (ofImm 2 9 f)
  | .st32 _ f => some (ofImm 2 10 f)
  | .st64 _ f => some (ofImm 2 11 f)
  | .csrr _ f => some (ofImm 2 16 f)
  | .csrw _ f => some (ofImm 2 17 f)
  | .beq _ f => some (ofB 3 0 f, 0)
  | .bne _ f => some (ofB 3 1 f, 0)
  | .blt _ f => some (ofB 3 2 f, 0)
  | .bge _ f => some (ofB 3 3 f, 0)
  | .bltu _ f => some (ofB 3 4 f, 0)
  | .bgeu _ f => some (ofB 3 5 f, 0)
  | .bp _ f => some (ofB 3 6 f, 0)
  | .jr _ f => some (ofB 3 7 f, 0)
  | .vld _ f => some (ofI 5 0 f, 0)
  | .vst _ f => some (ofI 5 1 f, 0)
  | .jal _ f => some (ofL 3 8 f, f.imm.toNat)
  | _ => none

/-- The core an instruction runs on. -/
def coreOf (i : Instr) : Option CoreIx :=
  match i with
  | .add k _ => some k
  | .sub k _ => some k
  | .mul k _ => some k
  | .mulhu k _ => some k
  | .andr k _ => some k
  | .orr k _ => some k
  | .xorr k _ => some k
  | .shl k _ => some k
  | .shr k _ => some k
  | .sra k _ => some k
  | .slt k _ => some k
  | .sltu k _ => some k
  | .minr k _ => some k
  | .maxr k _ => some k
  | .vadd k _ => some k
  | .vsub k _ => some k
  | .vmul k _ => some k
  | .vfma k _ => some k
  | .vmax k _ => some k
  | .vmin k _ => some k
  | .vclt k _ => some k
  | .vceq k _ => some k
  | .vcvt k _ => some k
  | .vexp k _ => some k
  | .vrsqrt k _ => some k
  | .vbcast k _ => some k
  | .vsel k _ => some k
  | .vperm k _ => some k
  | .mma k _ => some k
  | .mmt k _ => some k
  | .azero k _ => some k
  | .ast k _ => some k
  | .ald k _ => some k
  | .qgrp k _ => some k
  | .qfp4 k _ => some k
  | .rsum k _ => some k
  | .rsumsq k _ => some k
  | .rmv k _ => some k
  | .rabs k _ => some k
  | .rclr k _ => some k
  | .rmerge k _ => some k
  | .rget k _ => some k
  | .rput k _ => some k
  | .send k _ => some k
  | .sendnb k _ => some k
  | .recv k _ => some k
  | .recvnb k _ => some k
  | .mfree k _ => some k
  | .chcfg k _ => some k
  | .dmaq k _ => some k
  | .dwait k _ => some k
  | .dcnt k _ => some k
  | .acall k _ => some k
  | .await k _ => some k
  | .atest k _ => some k
  | .pand k _ => some k
  | .por k _ => some k
  | .pxor k _ => some k
  | .pnot k _ => some k
  | .pset k _ => some k
  | .pget k _ => some k
  | .nop k _ => some k
  | .fence k _ => some k
  | .halt k _ => some k
  | .trap k _ => some k
  | .rdcyc k _ => some k
  | .addi k _ => some k
  | .subi k _ => some k
  | .muli k _ => some k
  | .mulhui k _ => some k
  | .andi k _ => some k
  | .ori k _ => some k
  | .xori k _ => some k
  | .shli k _ => some k
  | .shri k _ => some k
  | .srai k _ => some k
  | .slti k _ => some k
  | .sltui k _ => some k
  | .mini k _ => some k
  | .maxi k _ => some k
  | .ld8u k _ => some k
  | .ld16u k _ => some k
  | .ld32u k _ => some k
  | .ld64 k _ => some k
  | .st8 k _ => some k
  | .st16 k _ => some k
  | .st32 k _ => some k
  | .st64 k _ => some k
  | .csrr k _ => some k
  | .csrw k _ => some k
  | .beq k _ => some k
  | .bne k _ => some k
  | .blt k _ => some k
  | .bge k _ => some k
  | .bltu k _ => some k
  | .bgeu k _ => some k
  | .bp k _ => some k
  | .jr k _ => some k
  | .vld k _ => some k
  | .vst k _ => some k
  | .jal k _ => some k
  | _ => none

/-- Run a core instruction; any other command does nothing here. -/
def runCore (i : Instr) (s : State) : Out :=
  match i with
  | .add k f => execAdd k f s
  | .sub k f => execSub k f s
  | .mul k f => execMul k f s
  | .mulhu k f => execMulhu k f s
  | .andr k f => execAndr k f s
  | .orr k f => execOrr k f s
  | .xorr k f => execXorr k f s
  | .shl k f => execShl k f s
  | .shr k f => execShr k f s
  | .sra k f => execSra k f s
  | .slt k f => execSlt k f s
  | .sltu k f => execSltu k f s
  | .minr k f => execMinr k f s
  | .maxr k f => execMaxr k f s
  | .vadd k f => execVadd k f s
  | .vsub k f => execVsub k f s
  | .vmul k f => execVmul k f s
  | .vfma k f => execVfma k f s
  | .vmax k f => execVmax k f s
  | .vmin k f => execVmin k f s
  | .vclt k f => execVclt k f s
  | .vceq k f => execVceq k f s
  | .vcvt k f => execVcvt k f s
  | .vexp k f => execVexp k f s
  | .vrsqrt k f => execVrsqrt k f s
  | .vbcast k f => execVbcast k f s
  | .vsel k f => execVsel k f s
  | .vperm k f => execVperm k f s
  | .mma k f => execMma k f s
  | .mmt k f => execMmt k f s
  | .azero k f => execAzero k f s
  | .ast k f => execAst k f s
  | .ald k f => execAld k f s
  | .qgrp k f => execQgrp k f s
  | .qfp4 k f => execQfp4 k f s
  | .rsum k f => execRsum k f s
  | .rsumsq k f => execRsumsq k f s
  | .rmv k f => execRmv k f s
  | .rabs k f => execRabs k f s
  | .rclr k f => execRclr k f s
  | .rmerge k f => execRmerge k f s
  | .rget k f => execRget k f s
  | .rput k f => execRput k f s
  | .send k f => execSend k f s
  | .sendnb k f => execSendnb k f s
  | .recv k f => execRecv k f s
  | .recvnb k f => execRecvnb k f s
  | .mfree k f => execMfree k f s
  | .chcfg k f => execChcfg k f s
  | .dmaq k f => execDmaq k f s
  | .dwait k f => execDwait k f s
  | .dcnt k f => execDcnt k f s
  | .acall k f => execAcall k f s
  | .await k f => execAwait k f s
  | .atest k f => execAtest k f s
  | .pand k f => execPand k f s
  | .por k f => execPor k f s
  | .pxor k f => execPxor k f s
  | .pnot k f => execPnot k f s
  | .pset k f => execPset k f s
  | .pget k f => execPget k f s
  | .nop k f => execNop k f s
  | .fence k f => execFence k f s
  | .halt k f => execHalt k f s
  | .trap k f => execTrap k f s
  | .rdcyc k f => execRdcyc k f s
  | .addi k f => execAddi k f s
  | .subi k f => execSubi k f s
  | .muli k f => execMuli k f s
  | .mulhui k f => execMulhui k f s
  | .andi k f => execAndi k f s
  | .ori k f => execOri k f s
  | .xori k f => execXori k f s
  | .shli k f => execShli k f s
  | .shri k f => execShri k f s
  | .srai k f => execSrai k f s
  | .slti k f => execSlti k f s
  | .sltui k f => execSltui k f s
  | .mini k f => execMini k f s
  | .maxi k f => execMaxi k f s
  | .ld8u k f => execLd8u k f s
  | .ld16u k f => execLd16u k f s
  | .ld32u k f => execLd32u k f s
  | .ld64 k f => execLd64 k f s
  | .st8 k f => execSt8 k f s
  | .st16 k f => execSt16 k f s
  | .st32 k f => execSt32 k f s
  | .st64 k f => execSt64 k f s
  | .csrr k f => execCsrr k f s
  | .csrw k f => execCsrw k f s
  | .beq k f => execBeq k f s
  | .bne k f => execBne k f s
  | .blt k f => execBlt k f s
  | .bge k f => execBge k f s
  | .bltu k f => execBltu k f s
  | .bgeu k f => execBgeu k f s
  | .bp k f => execBp k f s
  | .jr k f => execJr k f s
  | .vld k f => execVld k f s
  | .vst k f => execVst k f s
  | .jal k f => execJal k f s
  | _ => .next s

/-- Run the instruction at a core's program counter; a reserved encoding is fault 01h. -/
def runAtPc (k : CoreIx) (s : State) : Out :=
  let c := getCore s.dev k
  let a := c.pc.toNat
  match coreDecode k (localNat c a 4) (localNat c (a + 4) 4) with
  | some i => runCore i s
  | none => run (coreRun k 4 false (fun _ => true) fun _ d => .done d) s

end Sys2Proof.Machine
end

