-- ==== Sys2Proof/Machine/MgmtOps.lean ====
section
/-! DEFINITION. What every management command passes before it acts (R359, R361, R363, R364, R431). -/

namespace Sys2Proof.Machine

/-- What has to have started before a command runs: the Lantern and the Lamplighter (VSTBY), the hub, or serving. -/
inductive Need where
  | lantern
  | hub
  | serving
  deriving DecidableEq, Repr

def needMet (d : Dev) (n : Need) : Bool :=
  match n with
  | .lantern => decide (1 ≤ d.pwr.mode)
  | .hub => decide (d.pwr.mode = 3 ∨ (d.pwr.mode = 2 ∧ 3 < d.nor.at_))
  | .serving => decide (d.pwr.mode = 3)

/-- A CFG or UPD event. -/
def cfgEv (code : W16) (sev : W8) (fs : List (Nat × Nat × Nat)) (d : Dev) : Dev := raise code sev 0 uDevice (pay fs) d

def done : W16 := 0x0000
def accepted : W16 := 0x0001
def notAllowed : W16 := 0xF001
def badArgs : W16 := 0xF003
def busy : W16 := 0xF004
def refusedNow : W16 := 0xF005
def memberGone : W16 := 0xF006

/-- The member a relayed session addresses (R331). -/
def relayTo (d : Dev) (n : Nat) : Option Nat :=
  match getSess d n with
  | some x => x.target
  | none => none

/-- A record of a relayed session travels unchanged in a type 20h frame. -/
def relayRecord (n m : Nat) (seq : W64) (d : Dev) : Dev :=
  match getSess d n with
  | none => d
  | some x => sendMsg 0x20 1 0 m [] (Config.sealRec x.hello seq.toNat []) (setSess n { x with lastUs := d.time.stampUs } d)

/-- Lowest role allowed: 0 administrator, 1 maintenance, 2 observer (R361). -/
def mgmtGate (mc : MgmtCmd) (code role : Nat) (need : Need) (argsOk : Bool) (act : Option Nat → Dev → Dev) (d : Dev) : Dev :=
  match mc.sid with
  | none =>
    if d.sec.lifecycle ≠ 0 ∨ code < 0x50 ∨ 0x52 < code then d
    else if !mc.clean || !argsOk then reply none code mc.id badArgs true [] d
    else act none d
  | some n => match relayTo d n with
    | some m =>
      if inView d m then relayRecord n m mc.seq d else reply (some n) code mc.id memberGone true [] d
    | none => match recordIn n mc.seq mc.tagOk d with
    | (none, d1) => d1
    | (some x, d1) =>
      let no : W16 → Dev → Dev := fun st y => reply (some n) code mc.id st true [] y
      if x.cmds.length ≥ 16 then no busy d1
      else if x.role > role then no notAllowed (secEv 0x7003 2 0 [(16, 1, 3), (24, 8, x.conn)] d1)
      else if d.pwr.mode = 4 ∧ (code < 0x30 ∨ 0x34 < code) then no refusedNow d1
      else if !needMet d need then no busy (cfgEv 0x1009 2 [(16, 1, 3)] d1)
      else if !mc.clean || !argsOk then no badArgs d1
      else act (some n) d1

/-- A command stays outstanding in its session. -/
def addPend (sid : Option Nat) (c : PendCmd) (d : Dev) : Dev :=
  match sid with
  | none => d
  | some n => match getSess d n with
    | none => d
    | some x => setSess n { x with cmds := x.cmds ++ [c] } d

/-- Result data over as many responses as it takes, 16,368 bytes each. -/
def replyLong (sid : Option Nat) (code : Nat) (id : W32) (data : Bytes) (d : Dev) : Dev :=
  let n := max 1 (ceilDiv data.length 16368)
  (List.range n).foldl (fun x i => reply sid code id done (i + 1 = n) ((data.drop (16368 * i)).take 16368) x) d

end Sys2Proof.Machine
end

