-- ==== Sys2Proof/Machine/Debug.lean ====
section
/-! DEFINITION. Operator debug: sessions (R370, R371, R373), halting cores (R178), the debug access registers (R374), plane readback
(R374), quantiser reseeding (R56). -/

namespace Sys2Proof.Machine

/-! Debug sessions. -/

/-- A debug session of level 3 needs the lifecycle table's consent and, outside Blank, an authorisation (R371). -/
def level3Ok (auth : Bytes) (d : Dev) : Bool × Dev :=
  match d.sec.lifecycle with
  | 0 => (true, d)
  | 2 => (false, d)
  | _ => if auth.length = 64 then authOk 1 auth d else (false, d)

/-- Open a session: the scope's domains wake and are held at Idle or above from level 2 on; debug_attached is 1 before any
action. -/
def dbgOpen (sid : Option Nat) (id : W32) (level : Nat) (scope : List W32) (d : Dev) : Dev :=
  let sc := if scope.isEmpty then [uDevice] else scope
  let x : DbgSt := { num := d.sec.nextDbg, sid := sid, level := level, scope := sc }
  let idx := match sid with
    | some n => ((getSess d n).map (·.idx)).getD 0xFF
    | none => 0xFF
  let d1 := { d with
    sec.debugs := d.sec.debugs ++ [x], sec.nextDbg := d.sec.nextDbg + 1, sec.attached := true
    sec.opened := sSet d.sec.opened level (sGet 0 d.sec.opened level + 1) }
  let d2 := dbgSettle d1
  let d3 := if level < 2 then d2 else if d.pwr.mode = 1 then deviceWake 6 d2
    else (scopeDoms x).foldl (fun y n => if (getDom y n).state ≥ 2 ∨ (getDom y n).entry.isSome then domWake n (wakeRecord 6 n y) else y) d2
  let d4 := secEv 0x7006 2 0 [(16, 1, level), (17, 1, idx), (20, 4, (sc.headD uDevice).toNat)]
    (auditPut sid 0x01 level (sc.headD uDevice) 0 0 d3)
  reply sid 0x50 id done true (toLe 4 x.num.toNat) (auditCheck d4)

/-- DEBUG_OPEN (R370, R373): refused while fewer than 64 audit records are free, with four sessions open, and where the lifecycle
does not allow it. -/
def debugOpen (id : W32) (level : Nat) (scope : List W32) (auth : Bytes) (sid : Option Nat) (d : Dev) : Dev :=
  let no := fun (y : Dev) => reply sid 0x50 id refusedNow true [] y
  if auditShort 64 d then no (auditRefuse 0x01 d)
  else if d.sec.debugs.length ≥ 4 then no d
  else
    let r := if level = 3 then level3Ok auth d else (true, d)
    if r.1 then dbgOpen sid id level scope r.2 else no r.2

def execDebugOpen (mc : MgmtCmd) (level : Nat) (scope : List W32) (auth : Bytes) (s : State) : Out :=
  run (mgmtGate mc 0x50 (if level = 3 then 0 else 1) .lantern
    (decide (1 ≤ level ∧ level ≤ 3 ∧ scope.length ≤ 16) && scope.all unitOk) (debugOpen mc.id level scope auth)) s

/-- DEBUG_CLOSE. -/
def execDebugClose (mc : MgmtCmd) (dbg : W32) (s : State) : Out :=
  run (mgmtGate mc 0x51 1 .lantern true fun sid d =>
    match d.sec.debugs.find? fun x => x.num = dbg with
    | none => reply sid 0x51 mc.id badArgs true [] d
    | some x => reply sid 0x51 mc.id done true [] (auditCheck (dbgClose x d))) s

/-- DEBUG_ATTACHED_CLEAR (R374): no sooner than 1 s after the last open session closed. -/
def attachedClear (d : Dev) : Dev :=
  if d.sec.debugs.isEmpty && decide ((d.time.stampUs - d.sec.closedUs).toNat ≥ 1000000) then { d with sec.attached := false } else d

def execDebugAttachedClear (s : State) : Out := run attachedClear s

/-! Cores under debug. -/

/-- Halt at the next instruction boundary, within a session of level 2 that covers the core. -/
def dbgHalt (k : Nat) (d : Dev) : Dev :=
  match dbgFor d 2 (uCore k) with
  | none => d
  | some x =>
    let c := getCore d k
    if c.state = 2 then d else
      let d1 := coreHalt k d
      let y := { x with halted := if x.halted.contains k then x.halted else x.halted ++ [k] }
      dbgUse y 0x03 (uCore k) c.tenant.toNat (setDbg y d1)

def execDebugHalt (k : CoreIx) (s : State) : Out := run (dbgHalt k) s

/-- Resume a halted core. -/
def dbgResume (k : Nat) (d : Dev) : Dev :=
  match dbgFor d 2 (uCore k) with
  | none => d
  | some x => if (getCore d k).state = 2 then dbgUse x 0x03 (uCore k) (getCore d k).tenant.toNat (coreResume k d) else d

def execDebugResume (k : CoreIx) (s : State) : Out := run (dbgResume k) s

/-- Step a halted core: it leaves the halt for one instruction, or one long form. -/
def dbgStep (k : Nat) (d : Dev) : Dev :=
  match dbgFor d 2 (uCore k) with
  | none => d
  | some x =>
    if (getCore d k).state ≠ 2 then d else
      dbgUse x 0x03 (uCore k) (getCore d k).tenant.toNat (modCore k (fun c => { c with stepping := true }) (coreResume k d))

/-- DEBUG_STEP: the instruction at the program counter runs, and the core halts again; in the runtime area, whose contents are the
firmware's, the next instruction the core is given is the one stepped (log entry 36). -/
def execDebugStep (k : CoreIx) (s : State) : Out :=
  let t : State := { s with dev := dbgStep k s.dev }
  let c := getCore t.dev k
  if c.stepping && (getCore s.dev k).state = 2 && decide (sramLo ≤ c.pc.toNat) then runAtPc k t else .next t

/-- The 64 bits COR_DBG_SEL selects: 0 scalar, 1 vector, 2 predicate, 3 accumulator, 4 context, 5 program counter, 6 kernel
SRAM; 0 outside a register file. -/
def dbgRead (c : CoreSt) : W64 :=
  let kind := bits c.dbgSel.toNat 0 4
  let i := bits c.dbgSel.toNat 8 24
  match kind with
  | 0 => if i < 32 then rs c i else 0
  | 1 => if i / 16 < 16 then BitVec.ofNat 64 ((rv c (i / 16)).toNat >>> (64 * (i % 16))) else 0
  | 2 => if i < 8 then (rp c i).zeroExtend 64 else 0
  | 3 => if i / 512 < 4 then
      let k := i / 512 * 1024 + i % 512 * 2
      BitVec.ofNat 64 ((ra c k).toNat + (ra c (k + 1)).toNat * 2 ^ 32) else 0
  | 4 => if i / 2 < 4 then
      let x := rc c (i / 2)
      if i % 2 = 0 then x.n else BitVec.ofNat 64 (x.a.toNat + x.b.toNat * 2 ^ 32) else 0
  | 5 => c.pc.zeroExtend 64
  | 6 => BitVec.ofNat 64 (localNat c (i / 8 * 8) 8)
  | _ => 0

/-- Write the selected 64 bits; a write to the runtime area or to s0 is dropped and the selector reads kind 15. -/
def dbgWrite (v : W64) (c : CoreSt) : CoreSt :=
  let kind := bits c.dbgSel.toNat 0 4
  let i := bits c.dbgSel.toNat 8 24
  let refuse : CoreSt := { c with dbgSel := c.dbgSel ||| 15 }
  match kind with
  | 0 => if i = 0 then refuse else if i < 32 then ws i v c else c
  | 1 => if i / 16 < 16 then
      let sh := 64 * (i % 16)
      let old := (rv c (i / 16)).toNat
      wv (i / 16) (BitVec.ofNat 1024 (old - bits old sh 64 * 2 ^ sh + v.toNat * 2 ^ sh)) c else c
  | 2 => if i < 8 then wp i (v.truncate 32) c else c
  | 3 => if i / 512 < 4 then
      let k := i / 512 * 1024 + i % 512 * 2
      wa (k + 1) (BitVec.ofNat 32 (v.toNat / 2 ^ 32)) (wa k (v.truncate 32) c) else c
  | 4 => if i / 2 < 4 then
      let x := rc c (i / 2)
      wc (i / 2) (if i % 2 = 0 then { x with n := v } else { x with a := v.truncate 32, b := BitVec.ofNat 32 (v.toNat / 2 ^ 32) }) c
      else c
  | 5 => { c with pc := v.truncate 22 }
  | 6 =>
    let a := i / 8 * 8
    if inSram a 8 then putLocal a (toLe 8 v.toNat) c else if a < sramLo then refuse else c
  | _ => c

/-- Read or write the selected 64 bits (R374): in a halted core only, within a session of level 2; outside a scope reads return 0
and writes are dropped. -/
def dbgPeek (k : Nat) (d : Dev) : W64 × Dev :=
  let c := getCore d k
  match dbgFor d 2 (uCore k) with
  | none => (0, d)
  | some x =>
    if c.state ≠ 2 then (0, d)
    else
      let d1 := dbgUse x 0x05 (uCore k) c.tenant.toNat d
      (dbgRead (getCore d1 k), d1)

def dbgPoke (k : Nat) (v : W64) (d : Dev) : Dev :=
  let c := getCore d k
  match dbgFor d 2 (uCore k) with
  | none => d
  | some x => if c.state ≠ 2 then d else modCore k (dbgWrite v) (dbgUse x 0x04 (uCore k) c.tenant.toNat d)

/-- DBG_DATA_ACCESS (R374). -/
def dbgData (k : Nat) (wr : Bool) (v : W64) (d : Dev) : Dev :=
  if wr then dbgPoke k v d else
    let r := dbgPeek k d
    emit (.readData r.1) r.2

def execDbgDataAccess (k : CoreIx) (wr : Bool) (v : W64) (s : State) : Out := run (dbgData k wr v) s

/-! Plane readback. -/

/-- The debug session a readback names covers the plane, or its die. -/
def readbackFor (d : Dev) (dbg : W32) (u : W32) : Option DbgSt :=
  d.sec.debugs.find? fun x => x.num = dbg && decide (2 ≤ x.level) && (inScope x u || inScope x (uDie (bits u.toNat 24 4)))

/-- PLANE_READBACK (R374): the cells of one position with the pilot pairs; one audit record for each plane. -/
def planeReadback (id : W32) (dbg u : W32) (pos : Nat) (cells : Bytes) (sid : Option Nat) (d : Dev) : Dev :=
  match readbackFor d dbg u with
  | none => reply sid 0x52 id refusedNow true [] d
  | some x =>
    let pid := u.toNat % 2 ^ 28
    if (getDom d (349 + pkDie pid)).state ≥ 2 then reply sid 0x52 id busy true [] d
    else
      let owner := match sFind (getPlane d pid).segs pos with
        | some g => g.tenant
        | none => 0
      let d1 := auditCheck (auditPut x.sid 0x08 x.level u owner 0 (setDbg { x with actions := x.actions + 1 } d))
      replyLong sid 0x52 id (padTo 33280 cells) (secEv 0x700E 2 0 [(16, 4, u.toNat), (20, 1, pos), (21, 1, owner)] d1)

def execPlaneReadback (mc : MgmtCmd) (dbg unit : W32) (pos : Nat) (cells : Bytes) (s : State) : Out :=
  run (mgmtGate mc 0x52 1 .hub (unitOk unit && decide (bits unit.toNat 28 4 = 1 ∧ pos < 4)) (planeReadback mc.id dbg unit pos cells)) s

/-! Quantiser generators (R56). -/

/-- RNG_RESEED: the Lantern's DRBG gives a generator a new seed; its draws from here on are others. -/
def rngReseed (u : RngUnit) (d : Dev) : Dev :=
  rngSeed (match u with
    | .core k => k.val
    | .pipe p => 272 + p.val) d

def execRngReseed (u : RngUnit) (s : State) : Out := run (rngReseed u) s

end Sys2Proof.Machine
end

