-- ==== Sys2Proof/Machine/Ferries.lean ====
section
/-! DEFINITION. Token ferries on the home's side (R323–R325, R327). -/

namespace Sys2Proof.Machine

/-- Key of an expert: layer key × 65,536 + expert. -/
def ferryKey (k : LayerKey) (e : W16) : Nat := expertKey k.model k.gen k.layer e

/-- Members that hold copies of an expert under the plan in force, ascending (R318). -/
def expertMembers (d : Dev) (key : Nat) : List Nat := sGet [] d.fab.copies key
/-- This module holds a copy, one that the plan is removing included (R319). -/
def ownCopy (d : Dev) (key : Nat) : Bool := (expertMembers d key).contains (selfMember d) || d.fab.leaving.contains key

/-- Body of a ferry (R323). -/
def ferryBody (n format status dim id : Nat) (slots : List Nat) (vectors : Bytes) : Bytes :=
  toLe 2 n ++ toLe 1 format ++ toLe 1 status ++ toLe 4 dim ++ toLe 4 id ++ List.replicate 20 0
    ++ slots.flatMap (fun s => toLe 2 s ++ [0, 0]) ++ vectors

def ferrySpec (k : LayerKey) (e : W16) (budget : Nat) : Bytes :=
  toLe 2 k.model.toNat ++ toLe 2 k.gen.toNat ++ toLe 2 k.layer.toNat ++ toLe 2 e.toNat ++ toLe 4 budget

/-- Requests whose work needed a member that was lost, or an expert that faulted, end at the sailing end under cause 2. -/
def endWork (status : W16) (ctxs : List Nat) (d : Dev) : Dev :=
  ctxs.foldl (fun x i => modCtx i (endsWith status) x) d

/-- 8007h: how 1 the ferry was sent again, 2 its requests end. -/
def ferryEvent (f : FerrySt) (status how : Nat) (d : Dev) : Dev :=
  raise 0x8007 2 0 uDevice (pay [(16, 1, f.dst), (17, 1, status), (18, 1, how), (20, 2, f.key.model.toNat), (22, 2, f.key.layer.toNat),
    (24, 2, f.expert.toNat), (26, 4, f.tokens.length)]) d

/-- Send a ferry; budget_us, which the spec derives from estimates it does not state, is free (R325, log entry 35). -/
def sendFerry (f : FerrySt) (d : Dev) : Dev :=
  let b := fresh 32 d
  sendMsg 0x30 2 f.tenant f.dst (ferrySpec f.key f.expert b.1.toNat) f.body
    { b.2 with fab.ferries := b.2.fab.ferries ++ [f], fab.sent := BitVec.ofNat 32 (satAdd 32 b.2.fab.sent.toNat 1) }

/-- The copy a failed ferry goes to: the own copy, else the fewest hops, then the lowest index. -/
def ferryOther (d : Dev) (f : FerrySt) : Option Nat :=
  let key := ferryKey f.key f.expert
  if ownCopy d key then some (selfMember d) else
    ((expertMembers d key).filter fun m => m ≠ f.dst).foldl (fun (b : Option Nat) m => match b with
      | none => some m
      | some x => if hopsTo d m < hopsTo d x then some m else b) none

/-- A ferry fails: status 1–5 of its return, 6 timeout, 7 lost. It is sent once more to another copy, or its requests end. -/
def ferryFailN : Nat → FerrySt → Nat → Dev → Dev
  | 0, _, _, d => d
  | fuel + 1, f, status, d =>
    let d0 := { d with fab.ferries := d.fab.ferries.filter fun x => x.id ≠ f.id }
    let past := f.failures ++ [status]
    match if past.length ≥ 2 then none else ferryOther d0 f with
    | none =>
      let st : W16 := if past = [5, 5] then 0x4001 else 0x4003
      endWork st (f.tokens.map (·.1)).eraseDups
        (ferryEvent f status 2 { d0 with fab.failed := BitVec.ofNat 16 (satAdd 16 d0.fab.failed.toNat 1) })
    | some m =>
      let d1 := ferryEvent f status 1 { d0 with fab.resent := BitVec.ofNat 16 (satAdd 16 d0.fab.resent.toNat 1) }
      if m = selfMember d then d1
      else
        let id := d1.fab.nextFerry
        let g := { f with id := id.toNat, dst := m, failures := past, body := f.body.take 8 ++ toLe 4 id.toNat ++ f.body.drop 12 }
        let d2 := { d1 with fab.nextFerry := id + 1 }
        if inView d2 m && reachable d2 false m then sendFerry g d2 else ferryFailN fuel g 7 d2

def ferryFail (f : FerrySt) (status : Nat) (d : Dev) : Dev := ferryFailN 3 f status d

/-- Tokens in runs of at most 4,096. -/
def runsOf {α : Type} (n : Nat) (l : List α) : List (List α) := (List.range (ceilDiv l.length n)).map fun i => (l.drop (n * i)).take n

/-- The ferries of one expert: each token goes to the copy its index names, one ferry a copy and tenant (R324). -/
def startFerries (r : FerryReq) (d : Dev) : Dev :=
  let key := ferryKey r.key r.expert
  let ms := expertMembers d key
  if standalone d || ownCopy d key || ms.isEmpty then d else
    let tenantOf : Nat → Nat := fun i => ((getCtx d i).map (·.tenant)).getD 0
    ms.foldl (fun x m =>
      let mine := r.tokens.filter fun t => ms.getD (t.2.1 % ms.length) 0 = m
      ((mine.map fun t => tenantOf t.1).eraseDups).foldl (fun y tn =>
        (runsOf 4096 (mine.filter fun t => tenantOf t.1 = tn)).foldl (fun z part =>
          let id := z.fab.nextFerry
          let f : FerrySt := {
            id := id.toNat, dst := m, key := r.key, expert := r.expert, tenant := tn, tokens := part.map fun t => (t.1, t.2.1)
            body := ferryBody part.length r.format 0 r.d id.toNat (part.map fun t => t.2.1) (part.flatMap fun t => t.2.2) }
          let z1 := { z with fab.nextFerry := id + 1 }
          if inView z1 m && reachable z1 false m then sendFerry f z1 else ferryFail f 7 z1) y) x) d

end Sys2Proof.Machine
end

