-- ==== Sys2Proof/Machine/MigrOps.lean ====
section
/-! DEFINITION. What a migration adds to other events of a request (R330): failure, the member that serves it, contexts served for
another member. -/

namespace Sys2Proof.Machine

/-- The request a context belongs to. -/
def leadOf (d : Dev) (i : Nat) : Nat := match getCtx d i with
  | some c => (c.beamLead <|> c.draftOf).getD i
  | none => i

/-- The context is served here for another member. -/
def isGuest (d : Dev) (i : Nat) : Bool := (sFind d.fab.guests (leadOf d i)).isSome

/-- The home's view of a request that another member serves. -/
def servedAway (d : Dev) (i : Nat) : Bool := d.fab.migrs.any fun m => m.ctx = i && m.admitted

/-- The operator's migrate command has failed: 800Ah, and its final response. Reasons: 1 refused, 2 transfer failed, 3 member
lost. -/
def migrFail (g : MigrSt) (reason : Nat) (d : Dev) : Dev :=
  let d1 := raise 0x800A 2 0 uDevice (pay [(16, 4, g.ctx), (20, 1, g.target), (21, 1, reason)])
    { d with fab.migrs := d.fab.migrs.filter fun x => x.ctx ≠ g.ctx }
  match g.origin with
  | some (.mgmt sid id) => reply (some sid) 0x14 id (if reason = 3 then 0xF006 else 0xF005) true [] d1
  | _ => d1

/-- Tenant tag of a context's frames; none carries the tag of a tenant that is being scrubbed (R378). -/
def tagOf (d : Dev) (i : Nat) : Nat :=
  let t := ((getCtx d i).map (·.tenant)).getD 0
  if sGet 0 d.sec.slots t = 2 then 0 else t

/-- A request ends here: the member that serves it is told, and a transfer that has not been admitted fails. -/
def migrEnd (i : Nat) (d : Dev) : Dev :=
  match d.fab.migrs.find? fun m => m.ctx = i with
  | none => d
  | some m =>
    if m.admitted then
      (sendMsg 0x21 1 (tagOf d i) m.target [] (toLe 1 5 ++ toLe 4 i)
        { d with fab.migrs := d.fab.migrs.filter fun x => x.ctx ≠ i })
    else migrFail m 2 d

/-- A context served for another member goes. -/
def dropGuest (i : Nat) (d : Dev) : Dev :=
  let y := freeCtx i d
  { y with fab.guests := sDel y.fab.guests i }

end Sys2Proof.Machine
end

