-- ==== Sys2Proof/Machine/FabricLink.lean ====
section
/-! DEFINITION. Fabric ports: their states (R313), spares, what a lost link or member costs (R316, R322, R327, R328, R330), fences
(R315), acknowledgements, naks and resends (R310, R311), live changes of the flotilla's fields. -/

namespace Sys2Proof.Machine

/-- A FAB event of a port (R333). -/
def portEv (code : W16) (sev : W8) (p : Nat) (fs : List (Nat × Nat × Nat)) (d : Dev) : Dev := raise code sev 0 (uPort p) (pay ((16, 1, p) :: fs)) d

/-! Link-state announcements and the view (R316). -/

/-- State and peer of each port (log entry 23). -/
def lsaBody (d : Dev) : Bytes := (List.range 8).flatMap fun p => toLe 1 (getPort d p).state ++ toLe 1 (getPort d p).peer
def lsaSend (d : Dev) : Dev := if standalone d then d else flood 0x11 [] (lsaBody d) d

/-- A Ready generation of a broadcast load that has failed elsewhere goes (R230). -/
def dropReady (m g : W16) (status : W16) (d : Dev) : Dev :=
  match getGen d m g with
  | none => d
  | some x =>
    if x.state ≠ 2 then d else
      let d1 := loadEv 0x9003 3 x.owner m g [(20, 2, status.toNat), (24, 4, 0xFFFFFFFF)] d
      let d2 := genDropHandles x.handles false (genFreePlanes x.handles (genTo m g 0 7 d1))
      modelSettle m { d2 with plc.gens := sDel d2.plc.gens (genKey m g) }

/-- Broadcast loads that a lost member fails: the root reports them to the others (R328). -/
def lostLoads (m : Nat) (d : Dev) : Dev :=
  let hit := d.plc.loads.filter fun l => recFlag' l.record 2 && (!fromPeer l.origin || decide (rootOf d l = m))
  let d1 := hit.foldl (fun x l => loadFail l 0x4003 0xFFFFFFFF x) d
  let gens := d1.plc.gens.filter fun g => g.2.root && decide (g.2.state = 2) && !g.2.switchSeen
    && (m :: viewMembers d1).any fun n => !g.2.readyFrom.contains n
  gens.foldl (fun x g =>
    let model : W16 := BitVec.ofNat 16 (g.1 / 65536)
    let gen : W16 := BitVec.ofNat 16 (g.1 % 65536)
    flood 0x15 [] (toLe 2 model.toNat ++ toLe 2 gen.toNat ++ toLe 2 0x4003 ++ toLe 2 0 ++ toLe 4 0xFFFFFFFF) (dropReady model gen 0x4003 x)) d1

/-- Requests served at a lost member end with PEER_LOST; transfers to it fail; contexts served for it are freed. -/
def lostMigrs (m : Nat) (d : Dev) : Dev :=
  let d1 := (d.fab.migrs.filter fun g => g.target = m).foldl (fun x g => if g.admitted then endWork 0x4003 [g.ctx] x else migrFail g 3 x) d
  (d1.fab.guests.filter fun g => g.2 / 2 ^ 32 = m).foldl (fun x g => dropGuest g.1 x) d1

/-- A member leaves the view: 8005h, and everything that waited for it. -/
def memberLost (m : Nat) (d : Dev) : Dev :=
  let fs := d.fab.ferries.filter fun f => f.dst = m
  let fenced := (List.range 8).any fun p => (getPort d p).state = 4 && decide ((getPort d p).peer = m)
  let d1 := raise 0x8005 3 0 uDevice (pay [(16, 1, m), (17, 1, if fenced then 2 else 1), (20, 4, fs.length)])
    { d with fab.inbound := d.fab.inbound.filter fun x => x.src ≠ m }
  let d2 := lostMigrs m (lostLoads m (fs.foldl (fun x f => ferryFail f 7 x) d1))
  drainAll { d2 with plc.remote := d2.plc.remote.filter fun e => e.1 / 2 ^ 32 ≠ m }

/-- Members reached now; none while standalone. -/
def viewNow (d : Dev) : W64 := if standalone d then 0 else BitVec.ofNat 64 ((reachSet d).foldl (fun a m => a + 2 ^ m) 0)

/-- Members of the view that no route of a class reaches any more: their ferries fail (R327), broadcast loads they take part in
fail (R328). -/
def unreached (d : Dev) : Dev :=
  let d1 := (d.fab.ferries.filter fun f => inView d f.dst && !reachable d false f.dst).foldl (fun x f => ferryFail f 7 x) d
  ((viewMembers d1).filter fun m => decide (m ≠ selfMember d1) && !reachable d1 true m).foldl (fun x m => lostLoads m x) d1

/-- Take the view anew: 8006h for each member that enters, 8005h for each that leaves. -/
def viewUpdate (d : Dev) : Dev :=
  let old := d.fab.view
  let new_ := viewNow d
  let d1 := { d with fab.view := new_ }
  unreached <| (List.range 64).foldl (fun x m =>
    if !old.getLsbD m && new_.getLsbD m then (if m = selfMember x then x else raise 0x8006 1 0 uDevice (pay [(16, 1, m)]) x)
    else if old.getLsbD m && !new_.getLsbD m then (if m = selfMember x then x else memberLost m x) else x) d1

/-! States. -/

/-- A port changes state: 8001h, an announcement, the view. -/
def portTo (p new_ cause : Nat) (d : Dev) : Dev :=
  let old := (getPort d p).state
  if old = new_ then d
  else
    viewUpdate (lsaSend (portEv 0x8001 1 p [(17, 1, old), (18, 1, new_), (19, 1, cause)] (modPort p (fun x => { x with state := new_ }) d)))

/-- A cause byte that the table of 8001h does not list is free. -/
def portToFree (p new_ : Nat) (d : Dev) : Dev :=
  let r := fresh 8 d
  portTo p new_ r.1.toNat r.2

/-- This frame has not moved yet in the dimension of its next hop. -/
def startsHere (d : Dev) (f : Frame) : Bool := match firstHop d (fType f ≠ 0x30 && fType f ≠ 0x31) (fDst f) with
  | some h => decide (coord d (fSrc f) h.1 = coord d (selfMember d) h.1)
  | none => true

/-- Frames of VL1–VL6 go another way as new frames, or are discarded where no route exists (R322). -/
def reroute (fs : List Frame) (d : Dev) : Dev :=
  (fs.filter fun f => decide (1 ≤ fVl f ∧ fVl f ≤ 6)).foldl (fun x f => routeFrame (startsHere x f) f x) d

/-- A Standby spare takes over the traffic of the port it backs: 8009h. -/
def takeOver (p : Nat) (d : Dev) : Dev :=
  match (sparesOf d p).find? fun s => (getPort d s).state = 6 with
  | none => d
  | some s => portEv 0x8009 1 s [(17, 1, p), (18, 1, 1)] (portToFree s 3 (modPort s (fun x => { x with carrying := true }) d))

/-- Link state of a port that begins anew. -/
def linkReset (x : PortSt) : PortSt :=
  { x with
    carrying := false, transits := [], txSeq := 0, txQ := [], resends := 0, waitQ := [], turn := 0, rxNext := 0, nakUs := none, unacked := 0
    granted := [], used := [], given := [], hbSent := 0, hbSeen := none, accepted := false, peerReady := false, genTold := false, fence := 0 }

/-- A port goes Down: a spare of it, or a second spare of the port it carried for, takes over; its frames go another way (R313,
R322). -/
def portDown (p cause : Nat) (d : Dev) : Dev :=
  let x := getPort d p
  if !stateCarries x.state 0x02 then d else
    let d1 := portTo p 5 cause (setPort p (linkReset x) d)
    let d2 := if x.state ≠ 3 then d1 else match backed d1 p with
      | some q => if (getPort d1 q).state = 5 && (carrier d1 q).isNone then takeOver q d1 else d1
      | none => takeOver p d1
    reroute (x.txQ ++ x.waitQ) d2

/-- A record fails a check: 8002h; what the state does not carry is discarded. -/
def portFence (p reason member : Nat) (serial : W64) (d : Dev) : Dev :=
  let d1 := modPort p (fun x => { x with fence := reason, accepted := false, waitQ := x.waitQ.filter fun f => stateCarries 4 (fType f) }) d
  if (getPort d p).state = 4 then d1
  else portTo p 4 6 (portEv 0x8002 2 p [(17, 1, reason), (18, 1, member), (24, 8, serial.toNat)] d1)

/-- A record is accepted: a spare waits in Standby, and carries where the port it backs is Down; another port is Up. -/
def portUp (p : Nat) (d : Dev) : Dev :=
  let d0 := unitReturn 0x8001 (uPort p) d
  match backed d0 p with
  | some q =>
    if (getPort d0 p).state = 3 then d0
    else
      let d1 := portTo p 6 5 d0
      if (getPort d1 q).state = 5 && (carrier d1 q).isNone then takeOver q d1 else d1
  | none =>
    let alone := !((sparesOf d0 p).any fun s => (getPort d0 s).carrying)
    portTo p 3 5 (modPort p (fun x => { x with carrying := x.carrying || alone }) d0)

/-- SPARE_RETURN: the spare returns to Standby (R313). -/
def spareReturn (p : Nat) (d : Dev) : Dev :=
  match (sparesOf d p).find? fun s => (getPort d s).carrying with
  | none => d
  | some s =>
    if (getPort d p).state ≠ 3 then d else
      let fs := (getPort d s).waitQ
      let d1 := modPort p (fun x => { x with carrying := true }) (modPort s (fun x => { x with carrying := false, waitQ := [] }) d)
      reroute fs (portEv 0x8009 1 s [(17, 1, p), (18, 1, 2)] (portToFree s 6 d1))

/-- The roles of the ports after a live change of the flotilla's fields: a port without a role is Off, one that gains a role
trains. -/
def portsConfigured (d : Dev) : Dev :=
  (List.range 8).foldl (fun x p =>
    let off := standalone x || portRole x p = 7
    let st := (getPort x p).state
    if off ∧ st ≠ 0 then
      (let fs := (getPort x p).txQ ++ (getPort x p).waitQ
       reroute fs (portTo p 0 7 (setPort p (linkReset (getPort x p)) x)))
    else if !off ∧ st = 0 then portTo p 1 7 x
    else x) d

/-- A live change of a flotilla-relevant field or of the member index: new records on every port (R315). -/
def fabReconfigured (d : Dev) : Dev := joinRefresh (viewUpdate (portsConfigured d))

/-! Acknowledgement and credit (R310, R311). -/

/-- Cumulative grants of VL0–VL6. -/
def grantBytes (x : PortSt) : Bytes := (List.range 7).flatMap fun v => toLe 4 (sGet 0 x.given v).toNat
def sendAck (p : Nat) (d : Dev) : Dev := sendLink p 0x01 (grantBytes (getPort d p)) d

/-- Frames acknowledged by a next sequence expected leave the queue. -/
def ackTake (ack : W16) (x : PortSt) : PortSt :=
  let left := x.txQ.dropWhile fun f => decide (0 < (ack - fSeq f).toNat ∧ (ack - fSeq f).toNat ≤ 32768)
  if left.length = x.txQ.length then x else { x with txQ := left, resends := 0 }
def ackProcess (p : Nat) (ack : W16) (d : Dev) : Dev := drainPort p (modPort p (ackTake ack) d)

/-- After a discard one nak goes out, and no further one for 10 µs or until the frame arrives. -/
def nakStep (p : Nat) (d : Dev) : Dev :=
  let x := getPort d p
  let quiet := match x.nakUs with
    | some t => decide (d.time.stampUs.toNat < t + 10)
    | none => false
  if quiet then d
  else sendLink p 0x03 (toLe 2 x.rxNext.toNat) (setPort p { x with nakUs := some d.time.stampUs.toNat } d)

/-- Resend every unacknowledged frame; after sixteen resends without progress the link goes Down. -/
def resendAll (p : Nat) (d : Dev) : Dev :=
  let x := getPort d p
  if x.txQ.isEmpty then d
  else if x.resends ≥ 16 then portDown p 3 d
  else
    let q := x.txQ.map fun f => withCrc (hdrSeq f.hdr (fSeq f) x.rxNext) f.payload
    q.foldl (fun y f => putOut p f y)
      (setPort p { x with txQ := q, resends := x.resends + 1, unacked := 0, resendCnt := BitVec.ofNat 16 (satAdd 16 x.resendCnt.toNat 1) } d)

end Sys2Proof.Machine
end

