-- ==== Sys2Proof/Machine/Wick.lean ====
section
/-! DEFINITION. The Wick interface and the power stages (R382–R386). -/

namespace Sys2Proof.Machine

/-- CRC-8 over bits [31:8] of a frame, most significant bit first. -/
def wickCrc (x : Nat) : Nat :=
  crcByte 8 7 (crcByte 8 7 (crcByte 8 7 0 (BitVec.ofNat 8 (x / 2 ^ 24))) (BitVec.ofNat 8 (x / 2 ^ 16))) (BitVec.ofNat 8 (x / 2 ^ 8))

/-- A response frame: stage, status, data, CRC. -/
def wickFrame (st status data : Nat) : Nat :=
  let x := st * 2 ^ 28 + status * 2 ^ 24 + data % 65536 * 2 ^ 8
  x + wickCrc x

/-- A command to a stage has failed (R385): it is sent again, and the third failure marks the stage faulty. -/
def wickFail (st cmd cause : Nat) (d : Dev) : Dev :=
  let s := getStage d st
  if s.faulty then d
  else if s.fails < 2 then
    raise 0x5001 1 0 (uStage st) (pay [(16, 1, st), (17, 1, cmd), (18, 1, s.fails + 2), (19, 1, cause)])
      (setStage st { s with fails := s.fails + 1 } d)
  else
    raise 0x5002 3 0 (uStage st) (pay [(16, 1, st), (17, 1, 1), (20, 2, s.target)])
      (setStage st { s with faulty := true, pings := 0, fails := 0 } d)

/-- Send a command: a faulty stage takes only PING; a running ramp answers NAK busy, a failure; ACK clears the failures. -/
def wickSend (st cmd : Nat) (act : StageSt → Dev → Nat × Nat × Dev) (d : Dev) : Dev :=
  let s := getStage d st
  if s.faulty ∧ cmd ≠ 0 then d
  else if ramping d st then wickFail st cmd 3 (emit (.wick st cmd (wickFrame st 2 0)) d)
  else
    let (status, data, d1) := act s d
    let d2 := emit (.wick st cmd (wickFrame st status data)) d1
    if status = 0 then modStage st (fun x => { x with fails := 0 }) d2 else d2

/-- PING: stage index in data bits [3:0], firmware revision in the rest (log entry 31). -/
def execPing (st : StageIx) (s : State) : Out :=
  run (wickSend st 0 (fun _ d => let f := fresh 12 d; (0, st.val + f.1.toNat * 16, f.2))) s

/-- SET_V: within the rail's range and 50 mV of the target in force, else NAK range (R384). The stage ramps at 5 mV/µs and answers
when the rail has reached the target. -/
def execSetV (st : StageIx) (mv : W16) (s : State) : Out :=
  run (wickSend st 1 (fun x d =>
    let r := railOf st
    if r.lo ≤ mv.toNat ∧ mv.toNat ≤ r.hi ∧ mv.toNat ≤ x.target + 50 ∧ x.target ≤ mv.toNat + 50 then
      let up := d.time.stampUs + BitVec.ofNat 64 (ceilDiv (mv.toNat - x.target + (x.target - mv.toNat)) 5)
      (0, mv.toNat, setStage st { x with target := mv.toNat, rampEnd := up } d)
    else (1, mv.toNat, d))) s

/-- The rail before this one in the order of R383 is good; VARR_PUMP needs both VARR_LOGIC rails. -/
def railMayRise (d : Dev) (n : Nat) : Bool :=
  let before := railOrder.takeWhile (· ≠ n)
  (match before.getLast? with
    | some p => railGood d p
    | none => true) && (decide (n ≠ 8) || (railGood d 6 && railGood d 7))

/-- ENABLE: soft-start at 5 mV/µs; the power processor sends it when the rail before is good (R383). -/
def execEnable (st : StageIx) (mv : W16) (s : State) : Out :=
  run (fun d => if !railMayRise d st then d else
    wickSend st 2 (fun x d =>
      let r := railOf st
      if r.lo ≤ mv.toNat ∧ mv.toNat ≤ r.hi then
        let up := d.time.stampUs + BitVec.ofNat 64 (ceilDiv mv.toNat 5)
        (0, mv.toNat, setStage st { x with enabled := true, target := mv.toNat, rampEnd := up, goodFrom := up } d)
      else (1, mv.toNat, d)) d) s

/-- Domains that a rail feeds and that lose what they hold with it. -/
def railDomains (n : Nat) : List Nat := (List.range 375).filter fun k => decide (n ≠ 8) && (domStages k).contains n

/-- A rail goes down: its domains are Off. -/
def railDown (n : Nat) (d : Dev) : Dev :=
  (railDomains n).foldl (fun x k => if (getDom x k).state = 4 then x else domOff k (setDom k {} x)) d

/-- Switch a stage off, with the ramp of its output. -/
def stageDisable (st : Nat) (d : Dev) : Dev :=
  let x := getStage d st
  let down := d.time.stampUs + BitVec.ofNat 64 (ceilDiv x.target 5)
  railDown st (setStage st { x with enabled := false, rampEnd := down } d)

/-- DISABLE: rails go down in the reverse order; VARR_PUMP goes first when a VARR_LOGIC rail does (R383). -/
def execDisable (st : StageIx) (s : State) : Out :=
  run (fun d =>
    let after := (railOrder.dropWhile (· ≠ st.val)).drop 1
    let wait := after.any fun n => (getStage d n).enabled && !(decide (n = 8) && (decide (st.val = 6) || decide (st.val = 7)))
    if wait then d else
      let d1 := if (st.val = 6 ∨ st.val = 7) ∧ (getStage d 8).enabled then stageDisable 8 d else d
      wickSend st 3 (fun _ y => (0, 0, stageDisable st y)) d1) s

/-- READ of a measurement or status item; items 7–15 are reserved: NAK range. -/
def execWickRead (st : StageIx) (item : W16) (s : State) : Out :=
  run (wickSend st 4 (fun x d =>
    match item.toNat % 16 with
    | 0 => (0, x.power, d)
    | 1 => (0, x.vin, d)
    | 2 => (0, x.iin, d)
    | 3 => (0, x.vout, d)
    | 4 => (0, x.iout, d)
    | 5 => (0, (healthyPhases d st).foldl (fun a i => a + 2 ^ i) 0, d)
    | 6 => (0, (x.status.toNat / 2 * 2) + b2n (railGood d st), d)
    | _ => (1, item.toNat, d))) s

/-- SET_ILIM: at most the rated current. -/
def execSetIlim (st : StageIx) (lim : W16) (s : State) : Out :=
  run (wickSend st 5 (fun x d =>
    if lim.toNat ≤ (railOf st).rated then (0, lim.toNat, setStage st { x with ilim := lim.toNat } d)
    else (1, lim.toNat, d))) s

/-- CLEAR_FAULT. -/
def execClearFault (st : StageIx) (s : State) : Out :=
  run (wickSend st 6 (fun x d => (0, 0, setStage st { x with status := 0 } d))) s

/-- WICK_TIMEOUT: no answer, a failed CRC, or a NAK (R385). -/
def execWickTimeout (st : StageIx) (cmd : Nat) (cause : Nat) (s : State) : Out := run (wickFail st cmd cause) s

/-- FAULTY_STAGE_PING: three successes in a row clear the mark. -/
def execFaultyStagePing (st : StageIx) (ok : Bool) (s : State) : Out :=
  run (fun d =>
    let x := getStage d st
    if !x.faulty then d
    else if !ok then setStage st { x with pings := 0 } d
    else if x.pings ≥ 2 then
      raise 0x5002 3 0 (uStage st) (pay [(16, 1, st), (17, 1, 3), (20, 2, x.target)])
        (setStage st { x with faulty := false, pings := 0, fails := 0 } d)
    else setStage st { x with pings := x.pings + 1 } d) s

/-- STAGE_ALERT: the status of every stage is read, and each fault reported with 5009h (R386). -/
def execStageAlert (status : List W16) (s : State) : Out :=
  run (fun d => (List.range 12).foldl (fun x n =>
    let v := status.getD n 0
    let x1 := modStage n (fun y => { y with status := v }) x
    if bits v.toNat 1 4 = 0 then x1
    else raise 0x5009 2 0 (uStage n) (pay [(16, 1, n), (17, 1, v.toNat)]) x1) d) s

/-! Phases (R382). -/

/-- A stage without a healthy phase has lost its rail. -/
def railLost (n : Nat) (d : Dev) : Dev :=
  let x := getStage d n
  let d1 := setStage n { x with lost := true } d
  let ev : Nat → Dev → Dev := fun sev y =>
    raise 0x5002 (BitVec.ofNat 8 sev) 0 (uStage n) (pay [(16, 1, n), (17, 1, 2), (20, 2, x.target)]) y
  if n < 4 then
    let d2 := ev 3 d1
    let d3 := (List.range 68).foldl (fun y i => retire 0 0x5002 (uCore (68 * n + i)) y) d2
    (List.range 17).foldl (fun y i => retire 0 0x5002 (uPipe (17 * n + i)) y) d3
  else if n = 8 then applyPrograms (ev 3 d1)
  else
    let d2 := standby 4 (ev 4 d1)
    { d2 with pwr.faultN := true }

/-- PHASE_FAILURE: the stage is charged and 5003h raised; too few phases derate it, none loses its rail. -/
def phaseFailure (n phase : Nat) (d : Dev) : Dev :=
  let x := getStage d n
  if phase ≥ (railOf n).phases || x.failed.getLsbD phase then d else
    let d1 := setStage n { x with failed := x.failed ||| (1 <<< phase) } d
    let h := (healthyPhases d1 n).length
    let d2 := raise 0x5003 2 0 (uStage n) (pay [(16, 1, n), (17, 1, h), (20, 4, ratingOf d1 n)]) d1
    let d3 := charge 0x5003 true (uStage n) d2
    let d4 := if h < (railOf n).needed ∧ !x.derated then
        throttleBegins (ratingOf d3 n) (modStage n (fun y => { y with derated := true }) d3)
      else d3
    if h = 0 then railLost n d4 else d4

def execPhaseFailure (st : StageIx) (phase : Fin 8) (s : State) : Out := run (phaseFailure st phase) s

end Sys2Proof.Machine
end

