-- ==== Sys2Proof/Machine/Power.lean ====
section
/-! DEFINITION. The power processor and the clocks: windows (R388, R389), the thermal limit (R398), input voltage (R381), domains
(R391–R394), clock islands (R28, R29), wakes and trips (R395, R400, R401), capacity (R376), the correlation sample (R31). -/

namespace Sys2Proof.Machine

/-! Windows. -/

/-- Take what the stages measured. -/
def takeStages (m : WindowMeas) (d : Dev) : Dev :=
  ((List.range 12).zip m.stages).foldl (fun x e =>
    modStage e.1 (fun y => { y with
      power := e.2.power, vin := e.2.vin, iin := e.2.iin, vout := e.2.vout, iout := e.2.iout }) x) d

/-- Rail current of a derated stage at or above 90 % of its rating: a VCORE quadrant lowers its ceilings by a step, another
rail moves the ladder down (R382). -/
def derateStep (n : Nat) (d : Dev) : Dev :=
  let s := getStage d n
  if !s.derated || decide (10 * s.iout < 90 * ratingOf d n) then d
  else if n < 4 then { d with pwr.quad := sSet d.pwr.quad n (min 12 (sGet 0 d.pwr.quad n + 1)) }
  else { d with pwr.k := min (d.pwr.k + 1) 36 }

/-- The second of HIF_DEV_POWER: its mean, rounded to 5 W, is shown at its end; during a scrub it
holds its value (R378). -/
def devPowerStep (p : Nat) (d : Dev) : Dev :=
  let sum := d.pwr.secSum + p
  let n := d.pwr.secN + 1
  if n < 10000 then { d with pwr.secSum := sum, pwr.secN := n }
  else { d with
    pwr.secSum := 0, pwr.secN := 0
    hif.devPower := if !d.sec.marks.isEmpty then d.hif.devPower else BitVec.ofNat 10 (5 * roundNear ((sum : Rat) / (n * 500))).toNat }

/-- window_end() of R388 with the sailing hold of R389. Power in 10 mW; a new envelope applies from here. -/
def windowEnd (m : WindowMeas) (d0 : Dev) : Dev :=
  let d1 := takeStages m d0
  let newE := decide (d1.pwr.envW ≠ d1.pwr.e)
  let d2 := if newE then throttleEnds { d1 with pwr.e := d1.pwr.envW, pwr.l := (d1.pwr.envW : Rat) } else d1
  let d := { d2 with pwr.bfull := d2.pwr.envB }
  let p : Nat := (m.stages.take 12).foldl (fun (a : Nat) x => a + x.power) 0
  let pw : Rat := (p : Rat) / 100
  let t : Rat := min (d.pwr.e : Rat) d.pwr.l
  let k0 := d.pwr.k
  let low := decide (pw < t - 12)
  let lows := if low then d.pwr.lows + 1 else 0
  let k := if pw > t then min (k0 + 4) 36 else if pw > t - 2 then min (k0 + 1) 36 else if lows ≥ 11 then k0 - 1 else k0
  let above := if k0 = 36 ∧ pw > t then d.pwr.above + 1 else 0
  let s0 := getStage d 0
  let d3 := { d with
    pwr.k := k, pwr.lows := lows, pwr.above := above, pwr.last := (p :: d.pwr.last).take 10
    pwr.vin := s0.vin, pwr.iin := (m.stages.take 12).foldl (fun (a : Nat) x => a + x.iin) 0 }
  let d4 := (List.range 12).foldl (fun x n => derateStep n x) d3
  let d5 := applyRung (devPowerStep p d4)
  let d6 := if pw > t then
      raise 0x5006 2 0 uDevice (pay [(16, 2, (roundStep d5.freeCtr 0 pw).toNat), (18, 2, (roundStep d5.freeCtr 1 t).toNat),
        (20, 1, d5.pwr.k)]) { d5 with freeCtr := d5.freeCtr + 1 }
    else d5
  if above ≥ 10 ∧ !d6.pwr.hold then
    raise 0x5005 1 0 uDevice (pay [(16, 1, 1)]) { d6 with pwr.hold := true, pwr.holdUs := d6.time.stampUs }
  else if d6.pwr.hold ∧ pw ≤ t then
    raise 0x5005 1 0 uDevice (pay [(16, 1, 2), (20, 4, (d6.time.stampUs - d6.pwr.holdUs).toNat)]) { d6 with pwr.hold := false }
  else d6

/-- WINDOW_END (R388). -/
def execWindowEnd (m : WindowMeas) (s : State) : Out := run (windowEnd m) s

/-- THERMAL_LIMIT_EVAL (R398): every 20 ms a region above its throttle point lowers L; every 200 ms all regions at least 3 °C
below theirs raise it. -/
def execThermalLimitEval (fast : Bool) (s : State) : Out :=
  run (fun d =>
    let hot := (List.range 25).any (regionAbove d)
    let cool := (List.range 25).all fun r => decide ((getRegion d r).temp + 12 ≤ 4 * (throttlePoint d r : Int))
    if fast then (if hot then limDown d else d) else if cool then limUp d else d) s

/-! Input voltage (R381). -/

def vinEvent (kind : Nat) (v : W16) (d : Dev) : Dev := raise 0x5004 2 0 uDevice (pay [(16, 1, kind), (20, 2, v.toNat)]) d

/-- VIN_BELOW_38V: no new erase starts on any die, and flash and golden-store writes are deferred. -/
def execVinBelow38v (v : W16) (s : State) : Out :=
  run (fun d => vinEvent 1 v (applyPrograms { d with pwr.vinLow := true })) s

/-- VIN_HIGH: stages regulate normally between 60 V and 62 V. -/
def execVinHigh (v : W16) (s : State) : Out := run (fun d => vinEvent 2 v { d with pwr.vinHigh := true }) s

/-- VIN_UVLO: below 36 V or above 62 V the stages stop, and every rail except VSTBY is lost. -/
def execVinUvlo (v : W16) (s : State) : Out :=
  run (fun d =>
    let d1 := powerLoss d
    { d1 with
      pwr.mode := if d.pwr.mode = 0 then 0 else 1, pwr.tripStart := false, pwr.vin := v.toNat
      pwr.vinLow := decide (v.toNat < 3800), pwr.vinHigh := decide (v.toNat > 6000) }) s

/-- Deferred ledger records are written. -/
def flushDeferred (d : Dev) : Dev :=
  d.rel.deferred.foldl (fun x r => ledgerWrite r x) { d with rel.deferred := [] }

/-- VIN_RECOVER: deferred writes and paused program steps go on; stages that had stopped make a power-on start. -/
def execVinRecover (v : W16) (s : State) : Out :=
  run (fun d =>
    let out := d.pwr.vinLow || d.pwr.vinHigh
    let d1 := storeResume (applyPrograms (flushDeferred { d with pwr.vinLow := false, pwr.vinHigh := false }))
    let d2 := if out then vinEvent 3 v d1 else d1
    if d.pwr.mode = 1 ∧ out ∧ !d.pwr.tripped then startBegin 1 { d2 with nor.at_ := 1 } else d2) s

/-! Domains. -/

/-- DOMAIN_IDLE_TIMEOUT (R391): an entry begins unless a hold forbids it; one asked for during a wake waits. -/
def domainDown (n tgt : Nat) (d : Dev) : Dev :=
  let x := getDom d n
  if tgt < 2 ∨ tgt > 4 ∨ tgt ≤ x.state ∨ x.entry.isSome ∨ domHeld d n tgt then d
  else if x.wake ≠ 0 then setDom n { x with downAsked := some tgt } d
  else setDom n { x with entry := some tgt, step := 0, wakeAsked := false } d

def execDomainIdleTimeout (dom : DomIx) (tgt : Nat) (s : State) : Out := run (domainDown dom tgt) s

/-- Memory has gone to retention or is switched off: what the target state does not keep is lost. -/
def domLoses (n tgt : Nat) (d : Dev) : Dev := if tgt = 4 then domOff n d else coreSleeps n d

/-- DOMAIN_ENTRY_STEP_COMPLETE (R392, R394): records are copied before a die goes deep (R96); at step 3 memory goes; at step 5
the state is reached. A wake stops the entry at a step, and so does work or a hold that the domain has got meanwhile: memory goes only
when no hold forbids it (R158, R391). -/
def domainEntryStep (n : Nat) (d : Dev) : Dev :=
  let x := getDom d n
  match x.entry with
  | none => d
  | some tgt =>
    let st := x.step + 1
    let held := domHeld d n tgt
    let d0 := if st = 1 ∧ tgt ≥ 3 ∧ 349 ≤ n ∧ n < 365 then copyRecords (n - 349) d else d
    let d1 := if st = 3 && !held then domLoses n tgt d0 else d0
    let reached := if st > 3 || (decide (st = 3) && !held) then tgt else x.state
    if x.wakeAsked || held then setDom n { x with entry := none, step := 0, wakeAsked := false, state := reached, wake := 1, rerun := false } d1
    else if st ≥ 5 then setDom n { x with entry := none, step := 0, state := tgt } d1
    else setDom n { x with step := st } d1

def execDomainEntryStepComplete (dom : DomIx) (s : State) : Out := run (domainEntryStep dom) s

/-- DOMAIN_WAKE (R393, R394): the source and domain go to PWR_WAKE. -/
def execDomainWake (dom : DomIx) (source : Nat) (s : State) : Out :=
  run (fun d => domWake dom (wakeRecord source dom d)) s

/-- PWR_DOMAIN_QUERY. -/
def execPwrDomainQuery (v : W32) (s : State) : Out :=
  run (fun d => { d with pwr.query := v.truncate 9, pwr.queryValid := true }) s

/-! Clock islands (R28, R29). -/

/-- The island's domain is in Run. -/
def islandRuns (d : Dev) (i : Island) : Bool := match islandDom i with
  | some n => decide ((getDom d n).state = 0)
  | none => decide (d.pwr.mode ≠ 0)

/-- ISLAND_FREQ_CHANGE (R28): between handshakes the island relocks. A core's frequency becomes the lower of what is requested and its
ceiling, as far as its voltage allows (R164, R387), and its stall ends; a pipeline's stays within what its ceiling and voltage allow. -/
def islandFreq (i : Island) (units : Nat) (d : Dev) : Dev :=
  if !islandRuns d i then d else
    match i with
    | .core k =>
      let f := coreTarget d k
      let d1 := modCore k (fun c => addTrace d 7 { c with
        cycBase := coreCycles d c, cycFrom := d.time.stampUs, actual := BitVec.ofNat 7 f, relock := false
        stalled := c.stalled && decide (c.cause ≠ 6), cause := if c.cause = 6 then 0 else c.cause }) d
      modCore k (fun c => { c with changing := decide (min c.req.toNat (coreCeilOf d (k / 68)) ≠ f) }) d1
    | .pipe p => setIsland (272 + p) { getIsland d (272 + p) with freq := min units (pipeTarget d p) } d
    | i => setIsland (islandKey i) { getIsland d (islandKey i) with freq := units } d

def execIslandFreqChange (i : Island) (units : Nat) (s : State) : Out := run (islandFreq i units) s

/-- CLOCK_ISLAND_IDLE (R29): a running island without work stops its clock. -/
def execClockIslandIdle (i : Island) (s : State) : Out :=
  run (fun d => if !islandRuns d i then d else setIsland (islandKey i) { getIsland d (islandKey i) with idle := true } d) s

/-- ISLAND_WAKE_ON_REQUEST (R29): an idle island runs again; a sleeping domain is woken, and the request completes after. -/
def execIslandWakeOnRequest (i : Island) (s : State) : Out :=
  run (fun d =>
    let d1 := setIsland (islandKey i) { getIsland d (islandKey i) with idle := false } d
    match islandDom i with
    | some n => domWake n d1
    | none => d1) s

/-! Wakes and trips. -/

/-- WAKE_N_ASSERT (R450). -/
def execWakeNAssert (s : State) : Out := run (deviceWake 4) s

/-- SMBUS_ADDRESS_MATCH (R395, R396): the configured address wakes the SMBus logic, and the device from standby. -/
def execSmbusAddressMatch (addr : BitVec 7) (s : State) : Out :=
  run (fun d => if d.pwr.mode = 0 ∨ addr.toNat ≠ cfgGet d 0x0405 0 then d
    else deviceWake 5 { d with pins.smbAwake := true }) s

/-- ALERT_RESPONSE_READ (R450): the device answers with its address and releases ALERT_N. -/
def execAlertResponseRead (s : State) : Out :=
  run (fun d => if d.pwr.mode = 0 ∨ d.pins.alertN then d
    else emit (.smbus [BitVec.ofNat 8 (cfgGet d 0x0405 0)]) { d with pins.alertN := true }) s

/-- Trips within the last 24 h. -/
def trips24 (d : Dev) : Nat := (d.pwr.trips.filter fun t => decide ((d.time.stampUs - t).toNat < dayUs)).length

/-- TRIP_RESTART (R401): 30 s after a trip the device starts by itself, three times in 24 h; the fourth stays in standby. -/
def tripRestart (d : Dev) : Dev :=
  if d.pwr.mode ≠ 1 || !d.pwr.restartDue || decide (d.time.stampUs < d.pwr.tripUs + 30000000) then d
  else
    let n := trips24 d
    if n ≤ 3 then
      startBegin 3 (raise 0x5008 1 0 uDevice (pay [(16, 1, 2), (17, 1, 3)])
        (raise 0x6007 2 0 uDevice (pay [(16, 1, 1), (17, 1, n)]) d))
    else raise 0x6007 2 0 uDevice (pay [(16, 1, 2), (17, 1, n)])
      { d with pwr.restartDue := false, pwr.locked := true, pwr.cleared := false }

def execTripRestart (s : State) : Out := run tripRestart s

/-- THM_TRIP_CLEAR (R401). -/
def execThmTripClear (s : State) : Out := run (fun d => { d with pwr.cleared := true }) s

/-! Capacity and time. -/

/-- CAPACITY_EVAL (R376): capacity_reduced follows its causes, and falls after ten evaluations without one. -/
def execCapacityEval (s : State) : Out :=
  run (fun d0 =>
    let d := capacityCauses d0
    if d.rel.causes ≠ 0 then { d with rel.reduced := true, rel.clean := 0 }
    else
      let n := d.rel.clean + 1
      { d with rel.clean := n, rel.reduced := d.rel.reduced && decide (n < 10) }) s

/-- CLKCORR_SAMPLE (R31): ignored while a sample is in progress. -/
def execClkcorrSample (s : State) : Out :=
  run (fun d => if d.time.busy then d else { d with time.busy := true, time.valid := false }) s

/-- CLKCORR_SAMPLE_DONE (R31): the three results change together. -/
def execClkcorrSampleDone (unc : W16) (s : State) : Out :=
  run (fun d => if !d.time.busy then d else
    { d with time.busy := false, time.valid := true, time.corrStamp := d.time.stampUs, time.corrCp := d.time.cpNs
             time.corrUnc := BitVec.ofNat 16 (min 2000 unc.toNat) }) s

end Sys2Proof.Machine
end

