-- ==== Sys2Proof/Machine/Lamp.lean ====
section
/-! DEFINITION. The Lamplighter: notes (R422), the converter, its sequencer, filters and windows (R407–R415, R425), sensors
(R397, R400, R416), coolant speed (R424). -/

namespace Sys2Proof.Machine

/-! Notes. -/

/-- Write a note: the ring holds the last 256. -/
def note (code : W16) (sev : W8) (source : Nat) (value : W32) (d : Dev) : Dev :=
  let l := d.lmp.notes ++ [⟨d.time.stampUs, code, sev, BitVec.ofNat 8 source, value⟩]
  { d with lmp.notes := l.drop (l.length - 256), lmp.noteCnt := d.lmp.noteCnt + 1 }

/-- A WAIT source fires: it counts while the program waits for it; a window transition is latched at any time (R415). -/
def fireSource (b : Nat) (d : Dev) : Dev :=
  let w := d.lmp.watch
  let hit := match w.waiting with
    | some m => m.getLsbD b
    | none => false
  if hit || decide (b = 1) then { d with lmp.watch.latched := w.latched ||| (1 <<< b) } else d

/-! Converter settings. -/

/-- In safe mode, or before the configuration is read, the converter takes channels 16–23 in turn (R405). -/
def adcSafe (d : Dev) : Bool := decide (d.lmp.watch.mode = 0) || !d.adc.configured

/-- ADC_CHCFG; the default samples for 1.0 µs at ×1 from the internal reference with shift 3. -/
def chcfgOf (d : Dev) (n : Nat) : Nat := (sGet 0x3003 d.adc.chcfg n).toNat
def refCode (x : Nat) : Nat := if x = 3 then 0 else x
def shiftOf (d : Dev) (n : Nat) : Nat := min 8 (bits (chcfgOf d n) 12 4)

/-- Loop and list entries in force. -/
def loopEntry (d : Dev) (n : Nat) : Nat := (sGet 0 d.adc.loop n).toNat
def listEntry (d : Dev) (n : Nat) : Nat := (sGet 0 d.adc.list n).toNat

/-- Channel of the sequence's entry. -/
def entryChannel (d : Dev) : Nat :=
  if adcSafe d then 16 + d.adc.entry % 8
  else if d.adc.mode = 0 then bits (listEntry d d.adc.entry) 0 5 else bits (loopEntry d d.adc.entry) 0 5

/-- Default reference of a channel (R408): the supply for 18 and 19. -/
def defaultRef (n : Nat) : Nat := if n = 18 ∨ n = 19 then 2 else 0

/-- Reference and gain that a conversion begins with. -/
def convRef (d : Dev) (c : ConvCur) : Nat :=
  if c.urgent.isNone && adcSafe d then defaultRef c.channel
  else if c.urgent.isNone && decide (d.adc.mode = 0) then refCode (bits (listEntry d d.adc.entry) 15 2)
  else refCode (bits (chcfgOf d c.channel) 10 2)
def convGain (d : Dev) (c : ConvCur) : Nat :=
  if c.urgent.isNone && adcSafe d then 1
  else if c.urgent.isNone && decide (d.adc.mode = 0) then 2 ^ bits (listEntry d d.adc.entry) 13 2
  else 2 ^ bits (chcfgOf d c.channel) 8 2

/-- The internal reference stays on until 1 ms after its last use. -/
def intRefReady (d : Dev) : Bool :=
  d.adc.intReady && (d.adc.intRefOn || decide (d.time.stampUs ≤ d.adc.intUsed + 1000))

/-- Begin a conversion: it waits when its reference is not ready (R409). -/
def convStart (c : ConvCur) (d : Dev) : Dev :=
  let r := convRef d c
  let wait := if r = 0 then !intRefReady d else if r = 1 then !d.adc.extReady else false
  { d with adc.cur := some { c with ref := r, gain := convGain d c }, adc.refWait := wait }

/-- Begin the next conversion when none runs: an urgent one first, then the sequence (R410, R411, R413). -/
def adcNext (d : Dev) : Dev :=
  if d.adc.cur.isSome then d else
    match d.adc.urgent with
    | (ch, by_) :: r =>
      let d1 := { d with adc.urgent := r }
      -- a CONV that waits for a place takes it
      let d2 := match d1.lmp.watch.convWait with
        | some c => { d1 with adc.urgent := r ++ [(c, UrgentBy.program)], lmp.watch.convWait := none }
        | none => d1
      convStart { channel := ch, urgent := some by_ } d2
    | [] =>
      let seq := adcSafe d || (d.adc.run && (decide (d.adc.mode = 1) || d.adc.passActive))
      if seq && !d.adc.delaying then convStart { channel := entryChannel d, urgent := none } d else d

/-! Results (R414, R415). -/

/-- The filter of R414 in 12.4 format. -/
def filterStep (y code s : Nat) : Nat := wrap 16 ((y : Int) + ((code * 16 : Nat) - (y : Int)) / (2 ^ s : Nat))

/-- The window of a channel takes a sample. -/
def windowStep (win : Nat) (v : Nat) (r : ChanRes) : ChanRes :=
  let lo := bits win 0 12
  let hi := bits win 12 12
  let h := bits win 24 8
  let n := bits win 32 4
  if n = 0 then r else
    let up := if v > hi then r.nHi + 1 else 0
    let dn := if v < lo then r.nLo + 1 else 0
    let mid := if lo + h ≤ v ∧ v + h ≤ hi then r.nIn + 1 else 0
    let st := if up ≥ n then 2 else if dn ≥ n then 1 else if mid ≥ n then 0 else r.win
    { r with nHi := min 15 up, nLo := min 15 dn, nIn := min 15 mid, win := st }

/-- A channel takes the result of a conversion: a faulted one leaves filter and window alone. -/
def takeResult (ch code : Nat) (fault : Bool) (d : Dev) : Dev :=
  if ch ≥ 24 then d else
    let r := sGet {} d.adc.res ch
    let r1 := { r with
      raw := BitVec.ofNat 16 code, sat := decide (code = 4095), refFault := fault, valid := true
      stamp := d.time.stampUs.truncate 32 }
    if fault then { d with adc.res := sPut {} d.adc.res ch r1 } else
      let y := if r.primed then filterStep r.filt.toNat code (shiftOf d ch) else code * 16
      let r2 := { r1 with filt := BitVec.ofNat 16 y, primed := true }
      let win := (sGet 0 d.adc.win ch).toNat
      let r3 := windowStep win (if bitAt (chcfgOf d ch) 16 then code else y / 16) r2
      let d1 := { d with adc.res := sPut {} d.adc.res ch r3 }
      if r3.win ≠ r2.win ∧ bitAt win 36 then fireSource 1 d1 else d1

/-- The sequence moves on after its own conversion. -/
def seqAdvance (d : Dev) : Dev :=
  let a := d.adc
  let wrapPass : Dev → Dev := fun x => fireSource 3 { x with adc.passes := x.adc.passes + 1, adc.entry := 0 }
  if adcSafe d then
    (if a.entry ≥ 7 then wrapPass { d with adc.delaying := true } else { d with adc.entry := a.entry + 1 })
  else if a.mode = 0 then
    (if a.entry ≥ a.listLast then wrapPass { d with adc.passActive := a.passPending, adc.passPending := false }
     else { d with adc.entry := a.entry + 1 })
  else
    let e := loopEntry d a.entry
    if a.reps < bits e 5 8 then { d with adc.reps := a.reps + 1 }
    else
      let d1 := { d with adc.reps := 0, adc.delaying := decide (bits e 13 16 > 0) }
      if a.entry ≥ a.loopLast then wrapPass d1 else { d1 with adc.entry := a.entry + 1 }

/-- Start afresh at entry 0 (R412). -/
def seqRestart (d : Dev) : Dev :=
  { d with adc.restart := false, adc.entry := 0, adc.reps := 0, adc.delaying := false, adc.passActive := false, adc.passPending := false }

/-- Z and N of the watch processor from a result, C cleared. -/
def watchFlags (v : W16) (c : Bool) (w : WatchSt) : WatchSt := { w with z := decide (v = 0), n := v.getLsbD 15, c := c }

/-- The conversion in progress ends with a code. -/
def convEnd (code : Nat) (fault : Bool) (d : Dev) : Dev :=
  match d.adc.cur with
  | none => d
  | some c =>
    let d1 := takeResult c.channel code fault { d with adc.cur := none, adc.refWait := false }
    let d2 := match c.urgent with
      | none => seqAdvance d1
      | some .register =>
        { d1 with adc.resCode := BitVec.ofNat 16 code, adc.resSat := decide (code = 4095), adc.resFault := fault, adc.resValid := true }
      | some .gone => d1
      | some .program => match d1.lmp.watch.conv with
        | none => d1
        | some r =>
          let v := BitVec.ofNat 16 code
          let w := watchFlags v false { d1.lmp.watch with w := sPut 0 d1.lmp.watch.w r v, conv := none, pc := d1.lmp.watch.pc + 1 }
          { d1 with lmp.watch := w }
    adcNext (if d2.adc.restart then seqRestart d2 else d2)

/-- The code of R407. -/
def convCode (vin : Int) (gain vref : Nat) : Nat :=
  if vref = 0 then (if vin > 0 then 4095 else 0)
  else (clampInt 0 4095 ((vin : Rat) * gain / vref * 4096 + 1 / 2).floor).toNat

/-- External reference not ready: note 0003h, once until it is ready again. -/
def extNote (ch : Nat) (d : Dev) : Dev :=
  if d.adc.extTold then d else note 0x0003 2 0 (BitVec.ofNat 32 ch) { d with adc.extTold := true }

/-- CONVERSION_COMPLETE (R407, R414): a conversion that waits for its reference does not complete; one whose external reference
left its range carries ref_fault. -/
def conversion (m : ConvMeas) (d : Dev) : Dev :=
  match d.adc.cur with
  | none => d
  | some c =>
    if d.adc.refWait then d else
      let fault := decide (c.ref = 1) && !m.extOk
      let code := convCode (if c.channel ≥ 24 then 0 else m.vin) c.gain m.vref
      let d1 := if c.ref = 0 then { d with adc.intUsed := d.time.stampUs } else d
      convEnd code fault (if fault then { d1 with adc.extReady := false } else d1)

def execConversionComplete (m : ConvMeas) (s : State) : Out := run (conversion m) s

/-- EXT_REF_TIMEOUT (R409): code 0 with ref_fault after 1 ms of waiting. -/
def execExtRefTimeout (s : State) : Out :=
  run (fun d => match d.adc.cur with
    | some c => if d.adc.refWait && decide (c.ref = 1) then convEnd 0 true (extNote c.channel d) else d
    | none => d) s

/-- REFERENCE_READY (R409): a conversion that waits for it proceeds. -/
def execReferenceReady (ext : Bool) (s : State) : Out :=
  run (fun d =>
    let d1 := if ext then { d with adc.extReady := true, adc.extTold := false }
      else { d with adc.intReady := true, adc.intUsed := d.time.stampUs }
    match d1.adc.cur with
    | some c => if decide (c.ref = 1) == ext && decide (c.ref ≠ 2) then { d1 with adc.refWait := false } else d1
    | none => d1) s

/-! Triggers and changes. -/

/-- A list pass is triggered; during a pass one more becomes pending (R410). -/
def listTrigger (d : Dev) : Dev :=
  if d.adc.mode ≠ 0 ∨ !d.adc.run ∨ adcSafe d then d
  else if d.adc.passActive then { d with adc.passPending := true }
  else adcNext { d with adc.passActive := true, adc.entry := 0 }

/-- ADC_LIST_TRIGGER (R410). -/
def execAdcListTrigger (s : State) : Out := run listTrigger s

/-- LIST_PERIOD (R410): never with list_period = 0. -/
def execListPeriod (s : State) : Out := run (fun d => if d.adc.listPeriod = 0 then d else listTrigger d) s

/-- LOOP_DELAY_EXPIRE (R411). -/
def execLoopDelayExpire (s : State) : Out :=
  run (fun d => if d.adc.delaying then adcNext { d with adc.delaying := false } else d) s

/-- The sequencer starts afresh at the end of the conversion in progress, at once when none runs. -/
def seqChange (d : Dev) : Dev :=
  if d.adc.cur.isSome then { d with adc.restart := true } else adcNext (seqRestart d)

/-- The sequence of safe mode gives way to the configured one, or the reverse: it starts afresh (R405, R412). -/
def adcFollow (was d : Dev) : Dev := if adcSafe was = adcSafe d then d else seqChange d

/-- ADC_CONFIG_CHANGE (R412): a changed shift resets its channel's filter. -/
def adcConfig (reg : AdcReg) (v : W64) (d : Dev) : Dev :=
  let x := v.toNat
  match reg with
  | .ctl =>
    let a := d.adc
    let a1 := { a with
      intReady := intRefReady d
      mode := bits x 0 1, run := bitAt x 1, intRefOn := bitAt x 2, listLast := bits x 3 4, loopLast := bits x 7 6
      listPeriod := min 100000 (bits x 13 19) }
    let d1 := { d with adc := a1 }
    if a1.mode ≠ a.mode ∨ a1.run ≠ a.run ∨ a1.listLast ≠ a.listLast ∨ a1.loopLast ≠ a.loopLast then seqChange d1 else d1
  | .chcfg n =>
    let was := shiftOf d n
    let d1 := { d with adc.chcfg := sPut 0x3003 d.adc.chcfg n (BitVec.ofNat 32 (bits x 0 17)) }
    if shiftOf d1 n = was then d1 else
      { d1 with adc.res := sPut {} d1.adc.res n { sGet {} d1.adc.res n with primed := false } }
  | .win n => { d with adc.win := sPut 0 d.adc.win n (BitVec.ofNat 64 (bits x 0 37)) }
  | .list n => seqChange { d with adc.list := sPut 0 d.adc.list n (BitVec.ofNat 32 (bits x 0 17)) }
  | .loop n => seqChange { d with adc.loop := sPut 0 d.adc.loop n (BitVec.ofNat 32 (bits x 0 29)) }

def execAdcConfigChange (reg : AdcReg) (v : W64) (s : State) : Out := run (adcConfig reg v) s

/-- ADC_URGENT (R413): the queue holds four; a fifth is refused with note 0005h. -/
def adcUrgent (ch : Nat) (d : Dev) : Dev :=
  if d.adc.urgent.length ≥ 4 then note 0x0005 1 0 (BitVec.ofNat 32 ch) { d with adc.urgentFull := true }
  else adcNext { d with adc.urgent := d.adc.urgent ++ [(ch, UrgentBy.register)], adc.resValid := false }

def execAdcUrgent (v : W32) (s : State) : Out := run (adcUrgent (v.toNat % 32)) s

/-- Limits of the self-check of R425 on inputs 22, 23 and 16. -/
def selfLimits : List (Nat × Nat × Nat) := [(22, 0, 4), (23, 2040, 2056), (16, 2036, 2060)]

/-- ADC_SELF_CHECK (R425): codes of the three conversions, then of their repeats; the second failure of an input sets
selfcheck_fail, raises note 0004h and charges the channel. It runs when the urgent queue is empty. -/
def execAdcSelfCheck (codes : List W16) (s : State) : Out :=
  run (fun d => if !d.adc.urgent.isEmpty then d else
    ((List.range 3).zip selfLimits).foldl (fun x e =>
      let (ch, lo, hi) := e.2
      let c := min 4095 (codes.getD e.1 0).toNat
      let c2 := min 4095 (codes.getD (e.1 + 3) 0).toNat
      let bad : Nat → Bool := fun v => decide (v < lo ∨ hi < v)
      let x1 := takeResult ch c false x
      if !bad c then x1 else
        let x2 := takeResult ch c2 false x1
        if !bad c2 then x2 else
          charge 0x0004 true (uAdc ch) (note 0x0004 3 0 (BitVec.ofNat 32 (ch + c2 * 65536)) { x2 with adc.selfFail := true })) d) s

/-! Sensors (R397, R400, R416). -/

/-- Temperature of a count through the two-point trim, in 0.25 °C (log entry 17 for ties). -/
def sensorTemp (f f25 f95 : Nat) : Int :=
  if f95 = f25 then 100 else roundNear (100 + 280 * ((f : Rat) - f25) / ((f95 : Rat) - f25))

def sensorRetired (d : Dev) (i : Nat) : Bool := unitRetired d (uSensor i)
def sensorHealthy (d : Dev) (i : Nat) : Bool := !(sGet {} d.lmp.sensors i).replaced && !sensorRetired d i

/-- Median of readings; the mean of the middle two of an even number. -/
def median (l : List Int) : Option Rat :=
  let s := sortBy (fun a b => decide (a < b)) l
  let n := s.length
  if n = 0 then none
  else if n % 2 = 1 then some (((s.getD (n / 2) 0 : Int) : Rat))
  else some ((((s.getD (n / 2 - 1) 0 + s.getD (n / 2) 0 : Int)) : Rat) / 2)

/-- One sensor of a sweep, checked against the median of its neighbours that were healthy before it. The median is used from the read
after the one that replaces the sensor (coinciding events of power and thermal control). -/
def sensorStep (healthy : Nat → Bool) (t : Nat → Int) (i : Nat) (d : Dev) : Dev :=
  let x := sGet {} d.lmp.sensors i
  let put : SensorSt → Dev → Dev := fun y e => { e with lmp.sensors := sPut {} e.lmp.sensors i y }
  let raw := t i
  match median ((sensorNeighbours i).filter healthy |>.map t) with
  | none => put { x with raw := raw, used := raw, run := 0 } d
  | some md =>
    let dev := ratAbs ((raw : Rat) - md)
    let m := roundStep d.freeCtr i md
    if sensorRetired d i then put { x with raw := raw, used := m } d
    else if x.replaced then
      let n := if dev ≤ 12 then x.run + 1 else 0
      if n ≥ 1000 then
        raise 0x6004 1 0 (uSensor i) (pay [(16, 4, (d.time.stampUs - x.sinceUs).toNat / 1000)])
          (put { x with raw := raw, used := raw, replaced := false, run := 0 } d)
      else put { x with raw := raw, used := m, run := n } d
    else
      let n := if dev > 24 then x.run + 1 else 0
      if n ≥ 3 then
        let d1 := put { x with raw := raw, used := raw, replaced := true, run := 0, sinceUs := d.time.stampUs } d
        let d2 := raise 0x6003 2 0 (uSensor i) (pay [(16, 2, wrap 16 raw), (18, 2, wrap 16 m)]) d1
        charge 0x6003 true (uSensor i) d2
      else put { x with raw := raw, used := raw, run := n } d

/-- Hottest value of a list and the index that has it, lowest first. -/
def hottestOf (l : List (Nat × Int)) : Option (Nat × Int) :=
  l.foldl (fun b e => match b with
    | none => some e
    | some y => if e.2 > y.2 then some e else some y) none

/-- One region of a sweep: its temperature, blindness (6005h), and the reads in a row that meet the trip condition. -/
def regionStep (m : SweepMeas) (r : Nat) (d : Dev) : Dev :=
  let x := getRegion d r
  let hbm := decide (20 ≤ r ∧ r < 24)
  let ss := regionSensors r
  let blind := if hbm then ((m.hbm.getD (r - 20) none).isNone) else !(ss.any (sensorHealthy d))
  let hot := hottestOf (ss.map fun i => (i, (sGet {} d.lmp.sensors i).used))
  let temp : Int := if blind then 4 * (throttlePoint d r + 1 : Nat)
    else if hbm then (m.hbm.getD (r - 20) none).getD 0 else (hot.map (·.2)).getD 0
  let near := hbm || match hot with
    | some h => (sensorNeighbours h.1).any fun j => decide ((sGet {} d.lmp.sensors j).used ≥ 4 * (tripPoint r : Int) - 40)
    | none => false
  let n := if temp ≥ 4 * (tripPoint r : Int) && near then x.hot + 1 else 0
  let d1 := { d with lmp.regions := sPut {} d.lmp.regions r ⟨temp, blind, n⟩ }
  if blind && !x.blind then raise 0x6005 3 0 uDevice (pay [(16, 1, r)]) d1 else d1

/-- The first region whose trip condition held on two reads; trips are judged while rails are on. -/
def tripRegion (d : Dev) : Option Nat :=
  if d.pwr.mode ≠ 2 ∧ d.pwr.mode ≠ 3 then none
  else (List.range 25).find? fun r => decide ((getRegion d r).hot ≥ 2)

/-- A sweep: sensors, regions, the dies' temperatures with their program pauses (R118), the trip, the WAIT source. -/
def sensorSweep (m : SweepMeas) (d : Dev) : Dev :=
  let t : Nat → Int := fun i => let c := m.counts.getD i (0, 0, 0); sensorTemp c.1 c.2.1 c.2.2
  let healthy := sensorHealthy d
  let d1 := (List.range 360).foldl (fun x i => sensorStep healthy t i x) { d with freeCtr := d.freeCtr + 1 }
  let d2 := (List.range 25).foldl (fun x r => regionStep m r x) d1
  let d3 := (List.range 16).foldl (fun x n =>
    let x1 := programPause n (modDie n (fun y => { y with temp := (getRegion x (4 + n)).temp }) x)
    -- the die has been 5 °C or more below its throttle point in this epoch (R238)
    if (getRegion x (4 + n)).temp + 20 ≤ 4 * (throttlePoint x (4 + n) : Int) then { x1 with plc.cooled := x1.plc.cooled ||| 1#16 <<< n } else x1) d2
  let d4 := fireSource 2 d3
  match tripRegion d4 with
  | none => d4
  | some r =>
    let h := hottestOf ((regionSensors r).map fun i => (i, (sGet {} d4.lmp.sensors i).used))
    trip r ((h.map (·.1)).getD 0xFF) (wrap 16 (getRegion d4 r).temp) d4

/-- SENSOR_SWEEP (R397, R400, R416). -/
def execSensorSweep (m : SweepMeas) (s : State) : Out := run (sensorSweep m) s

/-- THM_SENSOR_QUERY (R397). -/
def execThmSensorQuery (v : W32) (s : State) : Out :=
  run (fun d => { d with lmp.query := v.truncate 9, lmp.queryValid := true }) s

/-! Coolant (R423, R424). -/

/-- Duty of an output: the failsafe duty until a program sets it. -/
def dutyOf (d : Dev) (n : Nat) : Nat := (sFind d.lmp.duty n).getD (cfgGet d 0x0609 0)

/-- TACH_UPDATE (R424): the speed of the last second; stale after two without a pulse, noted once. -/
def execTachUpdate (pulses : Nat) (s : State) : Out :=
  run (fun d =>
    let rpm := min 65535 (pulses * 60 / max 1 (cfgGet d 0x060A 0))
    let quiet := if pulses = 0 then d.lmp.quiet + 1 else 0
    let stale := decide (quiet ≥ 2)
    let told := stale && d.lmp.staleTold
    let d1 := { d with lmp.rpm := BitVec.ofNat 16 rpm, lmp.quiet := quiet, lmp.stale := stale, lmp.staleTold := stale }
    fireSource 5 (if stale && !told then note 0x0006 2 0 (BitVec.ofNat 32 (dutyOf d 0)) d1 else d1)) s

/-- MGT_PHY_RESET_RELEASE (R450). -/
def execMgtPhyResetRelease (s : State) : Out :=
  run (fun d => if d.pwr.mode = 0 then d else { d with pins.phyRstN := true }) s

end Sys2Proof.Machine
end

