-- ==== Sys2Proof/Machine/Configure.lean ====
section
/-! DEFINITION. The configuration block: fields (R434), parsing and cross-field rules (R432–R434), the report (R436), the values
in force, reconfigure. -/

namespace Sys2Proof.Machine

/-! Fields. -/

/-- How a field's value is read: a clamped number; an enumerated number; bytes each clamped; bytes each from the port codes; raw
bytes; a list of 4-byte entries. -/
inductive FieldKind where
  | num
  | enum
  | bytesNum
  | ports
  | raw
  | entries
  deriving DecidableEq, Repr

/-- A row of the field table: bytes of the value without its instance byte, limits, instances, applied live. -/
structure CfgField where
  kind : FieldKind
  width : Nat
  lo : Nat
  hi : Nat
  insts : Option (Nat × Nat)
  live : Bool

def cfgField (tag : Nat) : Option CfgField :=
  match tag with
  | 0x0101 => some ⟨.num, 2, 150, 450, none, true⟩
  | 0x0102 => some ⟨.num, 2, 1, 65535, none, true⟩
  | 0x0103 => some ⟨.num, 4, 100, 1000000, none, true⟩
  | 0x0104 => some ⟨.num, 4, 10, 60000, none, true⟩
  | 0x0105 => some ⟨.num, 4, 1, 3600, none, true⟩
  | 0x0106 => some ⟨.num, 1, 85, 103, none, true⟩
  | 0x0107 => some ⟨.num, 1, 70, 84, none, true⟩
  | 0x0108 => some ⟨.num, 1, 80, 93, none, true⟩
  | 0x0109 => some ⟨.num, 1, 95, 115, none, true⟩
  | 0x0110 => some ⟨.num, 1, 24, 72, none, true⟩
  | 0x0201 => some ⟨.num, 2, 2000, 20000, none, true⟩
  | 0x0202 => some ⟨.num, 1, 0, 100, none, true⟩
  | 0x0203 => some ⟨.num, 2, 1, 1023, none, true⟩
  | 0x0204 => some ⟨.num, 4, 4096, 262143, none, true⟩
  | 0x0205 => some ⟨.num, 2, 1, 600, none, true⟩
  | 0x0206 => some ⟨.num, 2, 0, 10000, none, true⟩
  | 0x0207 => some ⟨.num, 4, 0, 4294967295, none, true⟩
  | 0x0208 => some ⟨.num, 1, 0, 20, none, false⟩
  | 0x0301 => some ⟨.num, 4, 0, 1048576, some (0, 63), true⟩
  | 0x0302 => some ⟨.num, 1, 0, 168, some (1, 63), false⟩
  | 0x0303 => some ⟨.num, 1, 0, 90, some (0, 63), false⟩
  | 0x0304 => some ⟨.num, 4, 0, 38146973, some (0, 63), true⟩
  | 0x0305 => some ⟨.num, 1, 0, 50, some (1, 63), true⟩
  | 0x0306 => some ⟨.num, 1, 0, 50, some (1, 63), true⟩
  | 0x0401 => some ⟨.num, 8, 0, 2 ^ 64 - 1, none, false⟩
  | 0x0402 => some ⟨.num, 8, 0, 4000000000000, none, false⟩
  | 0x0403 => some ⟨.raw, 12, 0, 0, none, false⟩
  | 0x0404 => some ⟨.num, 2, 1, 65535, none, false⟩
  | 0x0405 => some ⟨.num, 1, 0x08, 0x77, none, false⟩
  | 0x0406 => some ⟨.raw, 81, 0, 0, some (0, 7), false⟩
  | 0x0501 => some ⟨.num, 8, 0, 2 ^ 64 - 1, none, true⟩
  | 0x0502 => some ⟨.num, 1, 0, 63, none, true⟩
  | 0x0503 => some ⟨.bytesNum, 3, 1, 8, none, true⟩
  | 0x0504 => some ⟨.ports, 2, 0, 0, none, false⟩
  | 0x0601 => some ⟨.enum, 1, 0, 1, none, true⟩
  | 0x0602 => some ⟨.num, 1, 0, 1, none, true⟩
  | 0x0603 => some ⟨.entries, 4, 1, 16, none, true⟩
  | 0x0604 => some ⟨.num, 4, 0, 100000, none, true⟩
  | 0x0605 => some ⟨.entries, 4, 1, 64, none, true⟩
  | 0x0606 => some ⟨.raw, 4, 0, 0, some (0, 23), true⟩
  | 0x0607 => some ⟨.raw, 8, 0, 0, some (0, 23), true⟩
  | 0x0608 => some ⟨.num, 1, 1, 50, none, true⟩
  | 0x0609 => some ⟨.num, 2, 0, 1024, none, true⟩
  | 0x060A => some ⟨.num, 1, 1, 4, none, true⟩
  | _ => none

/-- The tags in the order of the field table. -/
def cfgTags : List Nat :=
  [0x0101, 0x0102, 0x0103, 0x0104, 0x0105, 0x0106, 0x0107, 0x0108, 0x0109, 0x0110, 0x0201, 0x0202, 0x0203, 0x0204, 0x0205,
    0x0206, 0x0207, 0x0208, 0x0301, 0x0302, 0x0303, 0x0304, 0x0305, 0x0306, 0x0401, 0x0402, 0x0403, 0x0404, 0x0405, 0x0406]
  ++ [0x0501, 0x0502, 0x0503, 0x0504, 0x0601, 0x0602, 0x0603, 0x0604, 0x0605, 0x0606, 0x0607, 0x0608, 0x0609, 0x060A]

/-- A field kept as bytes; the others are little-endian numbers. -/
def cfgIsBytes (tag : Nat) : Bool :=
  decide (tag = 0x0403 ∨ tag = 0x0406 ∨ tag = 0x0603 ∨ tag = 0x0605 ∨ tag = 0x0606 ∨ tag = 0x0607)

def ck (tag inst : Nat) : Nat := tag * 256 + inst

/-- The default of a field as its bytes; none for the initial operator keys. -/
def cfgDefaultBytes (tag inst : Nat) : Bytes :=
  match tag with
  | 0x0403 => List.replicate 12 0
  | 0x0406 => []
  | 0x0603 => toLe 4 (16 + 3 * 32)
  | 0x0605 => (List.range 8).flatMap fun i => toLe 4 (16 + i + (if i = 7 then 986 * 2 ^ 13 else 0))
  | 0x0606 => toLe 4 0x3003
  | 0x0607 => toLe 8 0
  | _ => toLe (((cfgField tag).map (·.width)).getD 0) (cfgDefault tag inst)

/-! Parsing (R432, R433). -/

/-- A block as parsed: the header's digest and what it finds, values and outcomes by tag × 256 + instance, skipped fields. -/
structure Parsed where
  half : Nat := 0
  digest : Bytes := []
  usable : Bool := false
  dok : Bool := false
  tail : Bool := false
  vals : Store Bytes := []
  outc : Store Nat := []
  skip : List (Nat × Nat × Bytes) := []

/-- The usable header of R432. -/
def cfgUsable (b : Bytes) : Bool := decide (48 ≤ b.length ∧ fld b 0 4 = 0x42474643 ∧ fld b 4 1 = 1)
def cfgSeq (b : Bytes) : Nat := fld b 8 4
def cfgLen (b : Bytes) : Nat := fld b 12 4

/-- The value in force under a parsed block. -/
def parsedVal (p : Parsed) (tag inst : Nat) : Bytes := (sFind p.vals (ck tag inst)).getD (cfgDefaultBytes tag inst)
def parsedNum (p : Parsed) (tag inst : Nat) : Nat := ofLe (parsedVal p tag inst)

/-- Value and outcome of a field of the right length: 1 as given, 2 clamped, 0 default for a code outside the enumeration. -/
def fieldValue (f : CfgField) (tag inst : Nat) (v : Bytes) : Bytes × Nat :=
  match f.kind with
  | .num =>
    let x := ofLe v
    let x1 := if tag = 0x0401 then x / 4096 * 4096 else x
    let x2 := clampNat f.lo f.hi x1
    let x3 := if tag = 0x0402 then x2 / 4096 * 4096 else x2
    (toLe f.width x3, if x3 = x then 1 else 2)
  | .enum => if f.lo ≤ ofLe v ∧ ofLe v ≤ f.hi then (v, 1) else (cfgDefaultBytes tag inst, 0)
  | .bytesNum =>
    let w := v.map fun b => BitVec.ofNat 8 (clampNat f.lo f.hi b.toNat)
    (w, if w = v then 1 else 2)
  | .ports =>
    let w := v.map fun b => if b.toNat ≤ 5 then b else 7
    (w, if w = v then 1 else 0)
  | .raw | .entries => (v, 1)

/-- A field's length matches the table. -/
def fieldLenOk (f : CfgField) (n : Nat) : Bool :=
  match f.kind with
  | .entries => decide (n % 4 = 0 ∧ f.lo ≤ n / 4 ∧ n / 4 ≤ f.hi)
  | _ => decide (n = f.width)

/-- Take one field (R433): unknown 1005h, wrong length 1006h, range 1004h, duplicate 1007h. -/
def parseField (tag : Nat) (v : Bytes) (p : Parsed) (d : Dev) : Parsed × Dev :=
  let skip := fun (inst : Nat) (w : Bytes) =>
    ({ p with skip := p.skip ++ [(tag, inst, w)] }, cfgEv 0x1005 1 [(16, 2, tag), (18, 2, v.length), (20, 1, inst)] d)
  match cfgField tag with
  | none => skip 0 v
  | some f =>
    let inst := if f.insts.isSome then fld v 0 1 else 0
    let w := if f.insts.isSome then v.drop 1 else v
    let out := match f.insts with
      | some (lo, hi) => !v.isEmpty && (decide (inst < lo) || decide (hi < inst))
      | none => false
    let key := ck tag inst
    if out then skip inst w
    else if v.isEmpty || !fieldLenOk f w.length then
      ({ p with vals := sDel p.vals key, outc := sSet p.outc key 3 }, cfgEv 0x1006 2 [(16, 2, tag), (18, 2, v.length)] d)
    else
      let r := fieldValue f tag inst w
      let d1 := if r.2 = 1 then d
        else cfgEv 0x1004 1 [(16, 2, tag), (18, 1, inst), (19, 1, r.2), (24, 8, ofLe (w.take 8))] d
      let d2 := if (sFind p.vals key).isSome then cfgEv 0x1007 1 [(16, 2, tag), (18, 1, inst)] d1 else d1
      ({ p with vals := sSet p.vals key r.1, outc := sSet p.outc key r.2 }, d2)

/-- Tags no field has been taken for yet. -/
def tagsLeft (p : Parsed) : Nat := cfgTags.countP fun t => !p.vals.any fun e => decide (e.1 / 256 = t)

/-- A malformed tail ends parsing: 1003h. -/
def parseTail (off : Nat) (p : Parsed) (d : Dev) : Parsed × Dev :=
  ({ p with tail := true }, cfgEv 0x1003 2 [(16, 4, 48 + off), (20, 4, tagsLeft p)] d)

/-- Take the fields of a body from an offset on; a length beyond the body is a malformed tail. -/
def parseFields : Nat → Bytes → Nat → Nat → Parsed → Dev → Parsed × Dev
  | 0, _, off, _, p, d => parseTail off p d
  | n + 1, body, off, len, p, d =>
    if off ≥ len then (p, d)
    else
      let tag := fld body 0 2
      let l := fld body 2 2
      if off + 4 > min len 524240 ∨ off + 4 + l > min len 524240 ∨ body.length < 4 + l then parseTail off p d
      else
        let step := 4 + (l + 3) / 4 * 4
        let r := if tag = 0 then (p, d) else parseField tag ((body.drop 4).take l) p d
        parseFields n (body.drop step) (off + step) len r.1 r.2

/-- Parse a usable block; a digest mismatch raises 1002h and parsing continues. -/
def parseBlock (half : Nat) (b : Bytes) (d : Dev) : Parsed × Dev :=
  let len := cfgLen b
  let body := b.drop 48
  let digest := (b.drop 16).take 32
  let dok := decide (sm3 (body.take len) = digest)
  let p : Parsed := { half := half, digest := digest, usable := true, dok := dok }
  parseFields (len / 4 + 1) body 0 len p (if dok then d else cfgEv 0x1002 2 [(16, 1, half)] d)

/-! Cross-field rules (R434), in the order of the field table. -/

/-- A rule changes a value: outcome 6, 1004h with the value given. -/
def adjust (tag inst : Nat) (v : Bytes) (r : Parsed × Dev) : Parsed × Dev :=
  let p := r.1
  let given := ofLe ((parsedVal p tag inst).take 8)
  ({ p with vals := sSet p.vals (ck tag inst) v, outc := sSet p.outc (ck tag inst) 6 },
    cfgEv 0x1004 1 [(16, 2, tag), (18, 1, inst), (19, 1, 6), (24, 8, given)] r.2)

/-- Region sizes are lowered in descending tenant order to 168 GiB. -/
def ruleRegions (r : Parsed × Dev) : Parsed × Dev :=
  let total := (List.range 63).foldl (fun (a : Nat) i => a + parsedNum r.1 0x0302 (i + 1)) 0
  ((List.range 63).foldl (fun (acc : (Parsed × Dev) × Nat) i =>
    let t := 63 - i
    let v := parsedNum acc.1.1 0x0302 t
    let cut := min v acc.2
    if cut = 0 then acc else (adjust 0x0302 t (toLe 1 (v - cut)) acc.1, acc.2 - cut)) (r, total - 168)).1

/-- Reservations of a tag are taken in ascending tenant order up to 75 %. -/
def ruleShares (tag : Nat) (r : Parsed × Dev) : Parsed × Dev :=
  ((List.range 63).foldl (fun (acc : (Parsed × Dev) × Nat) i =>
    let t := i + 1
    let v := parsedNum acc.1.1 tag t
    if acc.2 + v ≤ 75 then (acc.1, acc.2 + v) else (adjust tag t (toLe 1 (75 - acc.2)) acc.1, 75)) (r, 0)).1

/-- The product of the shape. -/
def shapeSize (v : Bytes) : Nat := fld v 0 1 * fld v 1 1 * fld v 2 1

/-- A flotilla ID needs a shape of 2–64 members and a member index below it; otherwise the module is standalone. -/
def ruleFlotilla (r : Parsed × Dev) : Parsed × Dev :=
  let n := shapeSize (parsedVal r.1 0x0503 0)
  if parsedNum r.1 0x0501 0 = 0 ∨ (2 ≤ n ∧ n ≤ 64 ∧ parsedNum r.1 0x0502 0 < n) then r
  else adjust 0x0501 0 (toLe 8 0) r

/-- A spare role naming a port that is Off becomes unused (R307): every port of a standalone module, and those of a dimension
of size 1. -/
def ruleSpares (r : Parsed × Dev) : Parsed × Dev :=
  let fid := parsedNum r.1 0x0501 0
  let shape := parsedVal r.1 0x0503 0
  let v := parsedVal r.1 0x0504 0
  let w := v.map fun b => if b.toNat ≤ 5 ∧ (fid = 0 ∨ fld shape (b.toNat / 2) 1 = 1) then 7 else b
  if w = v then r else adjust 0x0504 0 w r

def crossRules (r : Parsed × Dev) : Parsed × Dev :=
  ruleSpares (ruleFlotilla (ruleShares 0x0306 (ruleShares 0x0305 (ruleRegions r))))

/-! Values in force. -/

/-- The value in force of a field, as its bytes. -/
def cfgBytes (d : Dev) (tag inst : Nat) : Bytes :=
  if cfgIsBytes tag then (sFind d.nor.strings (ck tag inst)).getD (cfgDefaultBytes tag inst)
  else toLe (((cfgField tag).map (·.width)).getD 0) (cfgGet d tag inst)

/-- Put a value in force. -/
def cfgSet (tag inst : Nat) (v : Bytes) (d : Dev) : Dev :=
  let k := ck tag inst
  if cfgIsBytes tag then
    { d with nor.strings := if v = cfgDefaultBytes tag inst then sDel d.nor.strings k else sSet d.nor.strings k v }
  else { d with cfg := if ofLe v = cfgDefault tag inst then sDel d.cfg k else sSet d.cfg k (ofLe v) }

/-- Entries of a field table row, in instance order. -/
def cfgInsts (f : CfgField) : List Nat :=
  match f.insts with
  | some (lo, hi) => (List.range (hi + 1 - lo)).map (lo + ·)
  | none => [0]

def entriesStore (v : Bytes) : Store W32 :=
  (List.range (v.length / 4)).foldl (fun m i => sPut 0 m i (BitVec.ofNat 32 (fld v (4 * i) 4))) []

/-- A field reaches its register. -/
def cfgApply (tag inst : Nat) (d : Dev) : Dev :=
  let x := cfgGet d tag inst
  match tag with
  | 0x0101 => { d with pwr.envW := x }
  | 0x0102 => { d with pwr.envB := x }
  | 0x0110 => clocksFollow ((List.range 272).foldl (fun y k => modCore k (fun c => { c with req := BitVec.ofNat 7 x }) y) d)
  | 0x0201 => { d with srv.target := BitVec.ofNat 15 x }
  | 0x0202 => { d with srv.share := BitVec.ofNat 7 x }
  | 0x0203 => { d with srv.minChunk := BitVec.ofNat 10 x }
  | 0x0204 => { d with att.itemTarget := BitVec.ofNat 18 x }
  | 0x0205 => { d with plc.seconds := BitVec.ofNat 10 x }
  | 0x0206 => { d with plc.migRate := BitVec.ofNat 14 x }
  | 0x0207 => { d with plc.swapMin := BitVec.ofNat 32 x }
  | 0x0601 => if d.adc.mode = x then d else seqChange { d with adc.mode := x }
  | 0x0602 => if d.adc.run = decide (x = 1) then d else seqChange { d with adc.run := decide (x = 1) }
  | 0x0603 =>
    let v := cfgBytes d tag 0
    seqChange { d with adc.list := entriesStore v, adc.listLast := v.length / 4 - 1 }
  | 0x0604 => { d with adc.listPeriod := x }
  | 0x0605 =>
    let v := cfgBytes d tag 0
    seqChange { d with adc.loop := entriesStore v, adc.loopLast := v.length / 4 - 1 }
  | 0x0606 => if h : inst < 24 then adcConfig (.chcfg ⟨inst, h⟩) (BitVec.ofNat 64 (ofLe (cfgBytes d tag inst))) d else d
  | 0x0607 => if h : inst < 24 then adcConfig (.win ⟨inst, h⟩) (BitVec.ofNat 64 (ofLe (cfgBytes d tag inst))) d else d
  | _ => d

/-! Report (R436). -/

/-- Entries of the report in tag and instance order: fields in force, then the skipped ones of the same place. -/
def reportOf (p : Parsed) (d : Dev) : List ReportEnt :=
  let fields := cfgTags.flatMap fun t => match cfgField t with
    | none => []
    | some f => (cfgInsts f).filterMap fun i =>
      let v := cfgBytes d t i
      let o := (sFind p.outc (ck t i)).getD (if p.tail then 4 else 0)
      if t = 0x0406 ∧ v = [] then none else some (⟨t, i, o, BitVec.ofNat 64 (ofLe (v.take 8))⟩ : ReportEnt)
  let skipped := p.skip.map fun s => (⟨s.1, s.2.1, 7, BitVec.ofNat 64 (ofLe (s.2.2.take 8))⟩ : ReportEnt)
  skipped.foldl (fun l e => (l.takeWhile fun x => decide (ck x.tag x.inst ≤ ck e.tag e.inst)) ++ [e]
    ++ l.dropWhile fun x => decide (ck x.tag x.inst ≤ ck e.tag e.inst)) fields

/-- Status and report of a parsed block. -/
def reportPut (p : Parsed) (d : Dev) : Dev :=
  let es := reportOf p d
  { d with nor := { d.nor with
    half := p.half, usable := p.usable, digestOk := p.dok, tailBad := p.tail, digest := p.digest, report := es
    pending := es.any fun e => decide (e.outcome = 5) } }

/-- The report as it reads from CFG 1000h. -/
def reportBytes (d : Dev) : Bytes :=
  let n := d.nor
  toLe 4 n.report.length ++ toLe 1 n.half ++ toLe 1 (b2n n.usable + 2 * b2n n.digestOk + 4 * b2n n.tailBad + 8 * b2n n.pending)
    ++ toLe 2 0 ++ padTo 32 n.digest ++ List.replicate 24 0
    ++ n.report.flatMap fun e => toLe 2 e.tag ++ toLe 1 e.inst ++ toLe 1 e.outcome ++ toLe 4 0 ++ toLe 8 e.value.toNat

/-! Step 4 of a start (R428, R361). -/

/-- A half of the partition. -/
def norHalf (d : Dev) (n : Nat) : Bytes := if n = 0 then d.nor.half0 else d.nor.half1

/-- The half a start reads: the usable one with the higher seq. -/
def bestHalf (d : Dev) : Option Nat :=
  match cfgUsable d.nor.half0, cfgUsable d.nor.half1 with
  | true, true => if cfgSeq d.nor.half0 < cfgSeq d.nor.half1 then some 1 else some 0
  | true, false => some 0
  | false, true => some 1
  | false, false => none

/-- Take the initial operator keys in when the table is empty: 7005h for each. -/
def enrolInitial (d : Dev) : Dev :=
  if !d.sec.enrol.isEmpty then d else
    (List.range 8).foldl (fun x i =>
      let v := cfgBytes x 0x0406 i
      if v.length ≠ 81 then x else
        secEv 0x7005 1 0 [(16, 1, i), (17, 1, 1)]
          { x with sec.enrol := sSet x.sec.enrol i ⟨v.take 64, min 2 (fld v 64 1), (v.drop 65).take 16⟩ }) d

/-- Every field of a parsed block comes into force, and every register takes its field. -/
def cfgTakeAll (p : Parsed) (d : Dev) : Dev :=
  let d1 := p.vals.foldl (fun x e => cfgSet (e.1 / 256) (e.1 % 256) e.2 x) { d with cfg := [], nor.strings := [] }
  cfgTags.foldl (fun x t => match cfgField t with
    | some f => (cfgInsts f).foldl (fun y i => cfgApply t i y) x
    | none => x) d1

/-- Read, parse and apply the block; the sequencer is configured and initial keys are enrolled. -/
def configStart (readable : Bool) (d : Dev) : Dev :=
  let none1 := fun (reason : Nat) => (({} : Parsed), cfgEv 0x1001 3 [(16, 1, reason)] d)
  let r := if !readable then none1 2 else match bestHalf d with
    | none => none1 1
    | some h => parseBlock h (norHalf d h) d
  let s := crossRules r
  let d1 := reportPut s.1 (cfgTakeAll s.1 s.2)
  enrolInitial (adcFollow d1 { d1 with adc.configured := true })

/-! Reconfigure (R436). -/

/-- Instances of fields whose value a new block changes. -/
def cfgChanges (p : Parsed) (d : Dev) : List (Nat × Nat × Bool) :=
  cfgTags.flatMap fun t => match cfgField t with
    | none => []
    | some f => ((cfgInsts f).filter fun i => decide (parsedVal p t i ≠ cfgBytes d t i)).map fun i => (t, i, f.live)

/-- A firmware trial runs. -/
def trialRuns (d : Dev) : Bool := decide (d.nor.fwState = 3 ∨ d.nor.fwState = 4 ∨ d.nor.fwState = 5)

/-- A block with its sequence replaced. -/
def withSeq (b : Bytes) (seq : Nat) : Bytes := b.take 8 ++ toLe 4 seq ++ b.drop 12

/-- Apply a whole block: the answer is the management status. -/
def reconfigure (block : Bytes) (writeOk : Bool) (d : Dev) : W16 × Dev :=
  if trialRuns d then (refusedNow, cfgEv 0x1009 2 [(16, 1, 2)] d)
  else if !cfgUsable block then (refusedNow, cfgEv 0x1009 2 [(16, 1, 1)] d)
  else
    let other := if d.nor.usable then 1 - d.nor.half else 0
    let s := crossRules (parseBlock other block d)
    if !writeOk then (refusedNow, cfgEv 0x1009 2 [(16, 1, 4)] s.2)
    else
      let seq := if d.nor.usable then cfgSeq (norHalf d d.nor.half) + 1 else cfgSeq block
      let b := withSeq block seq
      let d1 := if other = 0 then { s.2 with nor.half0 := b } else { s.2 with nor.half1 := b }
      let ch := cfgChanges s.1 d
      let live := ch.filter fun c => c.2.2
      let wait := ch.filter fun c => !c.2.2
      let d2 := live.foldl (fun x c => cfgSet c.1 c.2.1 (parsedVal s.1 c.1 c.2.1) x) d1
      let d3a := live.foldl (fun x c => cfgApply c.1 c.2.1 x) d2
      let d3 := if live.any fun c => [0x0205, 0x0206, 0x0207, 0x0501, 0x0502, 0x0503].contains c.1 then fabReconfigured d3a else d3a
      let p := { s.1 with outc := wait.foldl (fun m c => sSet m (ck c.1 c.2.1) 5) s.1.outc }
      (done, cfgEv 0x1008 1 [(16, 4, live.length), (20, 4, wait.length)] (reportPut p d3))

end Sys2Proof.Machine
end

