-- ==== Sys2Proof/Machine/Host.lean ====
section
/-! DEFINITION. The host interface: doorbells and rings (R283, R284, R297), the event window (R299), resets and power states
(R300), the link and configuration space (R276–R278, R452), published counters (R375). -/

namespace Sys2Proof.Machine

/-- A function answers the host: the link carries configuration, and VFs exist while VF Enable is set (R276, R452). -/
def fnPresent (d : Dev) (fn : Nat) : Bool := d.hif.cfgFrom.isSome && (fn = 0 || d.hif.vfEnable)

/-- An effect of the host on a function's registers. -/
def onFn (fn : Nat) (f : Dev → Dev) (d : Dev) : Dev := if fnPresent d fn then f d else d

/-- Requests of this module that satisfy p end without entries. -/
def endRequests (p : CtxSt → Bool) (d : Dev) : Dev :=
  ((d.srv.ctxs.filter fun c => p c.2 && !isGuest d c.1).map (·.1)).foldl (fun x i => freeCtx i (migrEnd i x)) d

/-- Model commands of a function's rings lose their entries (R290). -/
def dropCmds (fn : Nat) (p : RingIx → Bool) (d : Dev) : Dev :=
  { d with plc.cmds := d.plc.cmds.filter fun c => match c.origin with
      | .host f n _ => !(f.val = fn && p n)
      | _ => true }

/-! Rings (R283, R284). -/

/-- The work of a CQ that stops or is disabled ends with CANCELLED and no entry; held entries are discarded. -/
def cqEnd (fn n : Nat) (d : Dev) : Dev :=
  endRequests (fun c => decide (c.fn = fn ∧ c.ring = n))
    (dropCmds fn (fun r => decide (cqOf d fn r.val = n)) (setCq fn n { getCq d fn n with held := [], holdTold := false }
      (lateDrop (fun f r => f = fn && r = n) (dropHeld (getCq d fn n).held d))))

/-- A write of an SQ's control register. -/
def sqCtl (fn n : Nat) (v : Nat) (d : Dev) : Dev :=
  let q := getSq d fn n
  let en := bitAt v 16
  if q.enable && en then d
  else if q.enable then
    dropCmds fn (fun r => decide (r.val = n)) (setSq fn n { q with enable := false, active := false } d)
  else
    let size := BitVec.ofNat 5 v
    let cq := BitVec.ofNat 4 (bits v 8 4)
    if !en then setSq fn n { q with sizeLog2 := size, cq := cq } d
    else
      let ok := decide (1 ≤ size.toNat ∧ size.toNat ≤ 16) && (getCq d fn cq.toNat).enable
      setSq fn n { q with sizeLog2 := size, cq := cq, enable := true, head := 0, tail := 0, active := ok, error := !ok,
                          cause := if ok then 0 else 3 } d

/-- A write of a CQ's control register: vector, interrupt enable and aggregation take every write, and what they call for of the
entries already written is signalled. -/
def cqCtl (fn n : Nat) (v : Nat) (d : Dev) : Dev :=
  let q0 := getCq d fn n
  let q := { q0 with vector := BitVec.ofNat 6 (bits v 8 6), intEn := bitAt v 14, aggCount := BitVec.ofNat 4 (bits v 20 4),
                     aggUs := BitVec.ofNat 8 (bits v 24 8) }
  let en := bitAt v 16
  if q0.enable && en then (if q.unsignalled > 0 then cqMaybeSignal fn n (setCq fn n q d) else setCq fn n q d)
  else if q0.enable then setCq fn n { getCq (cqEnd fn n d) fn n with
    vector := q.vector, intEn := q.intEn, aggCount := q.aggCount, aggUs := q.aggUs, enable := false, active := false } (cqEnd fn n d)
  else
    let size := BitVec.ofNat 5 v
    if !en then setCq fn n { q with sizeLog2 := size } d
    else
      let ok := decide (1 ≤ size.toNat ∧ size.toNat ≤ 16)
      setCq fn n { q with sizeLog2 := size, enable := true, head := 0, tail := 0, phase := true, active := ok, error := !ok,
                          cause := if ok then 0 else 3, held := [], holdTold := false, unsignalled := 0 } d

/-- SQ_ENABLE: a control write with enable = 1. -/
def execSqEnable (fn : FnIx) (n : RingIx) (v : W32) (s : State) : Out := run (onFn fn (sqCtl fn n (v ||| 0x10000).toNat)) s
/-- SQ_DISABLE: a control write with enable = 0. -/
def execSqDisable (fn : FnIx) (n : RingIx) (v : W32) (s : State) : Out := run (onFn fn (sqCtl fn n (v &&& ~~~0x10000).toNat)) s
/-- CQ_ENABLE. -/
def execCqEnable (fn : FnIx) (n : RingIx) (v : W32) (s : State) : Out := run (onFn fn (cqCtl fn n (v ||| 0x10000).toNat)) s
/-- CQ_DISABLE. -/
def execCqDisable (fn : FnIx) (n : RingIx) (v : W32) (s : State) : Out := run (onFn fn (cqCtl fn n (v &&& ~~~0x10000).toNat)) s

/-- A new SQ tail; one at or above the ring size stops the ring with cause 1. -/
def sqTail (fn n v : Nat) (d : Dev) : Dev :=
  let q := getSq d fn n
  if !q.active then d
  else if v ≥ ringSize q.sizeLog2 then ringStop fn n false 1 v d
  else
    let d1 := setSq fn n { q with tail := BitVec.ofNat 16 v } d
    if d.pwr.mode = 3 then wakeServing 1 d1 else d1

/-- SQ_TAIL_DOORBELL. -/
def execSqTailDoorbell (fn : FnIx) (n : RingIx) (v : W32) (s : State) : Out := run (onFn fn (sqTail fn n v.toNat)) s

/-- A new CQ head from the current head to the tail; any other stops the ring with cause 1. -/
def cqHead (fn n v : Nat) (d : Dev) : Dev :=
  let q := getCq d fn n
  let size := ringSize q.sizeLog2
  if !q.active then d
  else if v ≥ size ∨ (v + size - q.head.toNat) % size > (q.tail.toNat + size - q.head.toNat) % size then
    cqEnd fn n (ringStop fn n true 1 v d)
  else
    let d1 := cqDrain fn n (setCq fn n { q with head := BitVec.ofNat 16 v } d)
    if d.pwr.mode = 3 then wakeServing 1 d1 else d1

/-- CQ_HEAD_DOORBELL. -/
def execCqHeadDoorbell (fn : FnIx) (n : RingIx) (v : W32) (s : State) : Out := run (onFn fn (cqHead fn n v.toNat)) s

/-- CQ_AGG_TIMEOUT (R297): agg_us after the first unsignalled entry. -/
def cqAgg (fn n : Nat) (d : Dev) : Dev :=
  let q := getCq d fn n
  if q.intEn && decide (q.unsignalled > 0) then cqSignal fn n d else d

def execCqAggTimeout (fn : FnIx) (n : RingIx) (s : State) : Out := run (cqAgg fn n) s

/-- MSIX_VECTOR_UNMASK (R297): a pending vector is delivered. -/
def msixUnmask (fn vec : Nat) (d : Dev) : Dev :=
  let f := getFn d fn
  let e := sGet {} f.msix vec
  let d1 := setFn fn { f with msix := sPut {} f.msix vec { e with masked := false }, pba := f.pba &&& ~~~((1 : W64) <<< vec) } d
  if f.pba.getLsbD vec then emit (.msix fn vec) d1 else d1

def execMsixVectorUnmask (fn : FnIx) (vec : Fin 64) (s : State) : Out := run (onFn fn (msixUnmask fn vec)) s

/-! Event window (R299). -/

/-- A write of HIF_EVT_CTL: clearing enable sets both counts to 0 and discards the contents. -/
def evtCtl (fn v : Nat) (d : Dev) : Dev :=
  let f := getFn d fn
  let g := { f with evtEnable := bitAt v 0, evtIntEn := bitAt v 1, evtVector := BitVec.ofNat 6 (bits v 2 6),
                    evtMinSev := BitVec.ofNat 3 (bits v 8 3) }
  setFn fn (if bitAt v 0 then g else { g with evtWcnt := 0, evtRcnt := 0, evtRecs := [] }) d

/-- EVT_WINDOW_ENABLE. -/
def execEvtWindowEnable (fn : FnIx) (v : W32) (s : State) : Out := run (onFn fn (evtCtl fn v.toNat)) s

/-- EVT_DOORBELL: a count between those read and placed, or C008h once a second at most. -/
def evtDoorbell (fn : Nat) (v : W32) (d : Dev) : Dev :=
  let f := getFn d fn
  if (v - f.evtRcnt).toNat ≤ (f.evtWcnt - f.evtRcnt).toNat then setFn fn { f with evtRcnt := v } d
  else if secondSince f.c008At d then
    raise 0xC008 2 fn (uFn fn) (pay [(16, 1, fn), (20, 4, v.toNat), (24, 4, f.evtRcnt.toNat), (28, 4, f.evtWcnt.toNat)])
      (setFn fn { f with c008At := d.time.stampUs.toNat + 1 } d)
  else d

def execEvtDoorbell (fn : FnIx) (v : W32) (s : State) : Out := run (onFn fn (evtDoorbell fn v)) s

/-! Resets and power states (R300). -/

/-- Live requests of a function. -/
def liveOf (d : Dev) (fn : Nat) : Nat := d.srv.ctxs.countP fun c => decide (c.2.fn = fn ∧ 1 ≤ c.2.state ∧ c.2.state ≤ 6)

/-- A function is reset: rings, registers, holds and window; its requests end without entries; C004h. -/
def fnReset (kind fn : Nat) (d : Dev) : Dev :=
  let n := liveOf d fn
  let d1 := lateDrop (fun f _ => f = fn) (dropCmds fn (fun _ => true) (endRequests (fun c => decide (c.fn = fn)) d))
  raise 0xC004 1 fn (uFn fn) (pay [(16, 1, fn), (17, 1, kind), (20, 4, n)]) (setFn fn { ready := (getFn d fn).ready } d1)

/-- FLR_VF. -/
def execFlrVf (fn : FnIx) (s : State) : Out := run (fun d => if fn.val = 0 then d else onFn fn (fnReset 1 fn) d) s

/-- Every VF that exists, and VF Enable clears. -/
def vfsReset (kind : Nat) (d : Dev) : Dev :=
  if !d.hif.vfEnable then d else
    (List.range 63).foldl (fun x i => fnReset kind (i + 1) x) { d with hif.vfEnable := false }

/-- FLR_PF. -/
def execFlrPf (s : State) : Out := run (onFn 0 fun d => vfsReset 2 (fnReset 2 0 d)) s

/-- A link change is reported (C005h). -/
def linkSet (rate width : Nat) (flit up : Bool) (d : Dev) : Dev :=
  let h := d.hif
  let d1 := { d with hif.rate := BitVec.ofNat 3 rate, hif.width := BitVec.ofNat 3 width, hif.flit := flit, hif.up := up, hif.pm := 0 }
  if h.rate = BitVec.ofNat 3 rate ∧ h.width = BitVec.ofNat 3 width then d1
  else raise 0xC005 1 0 uDevice (pay [(16, 1, h.rate.toNat), (17, 1, rate), (18, 1, h.width.toNat), (19, 1, width), (20, 1, b2n flit)]) d1

/-- PERST_N_ASSERT: every function is reset as by FLR, and the link is down. -/
def execPerstNAssert (s : State) : Out :=
  run (fun d =>
    let d1 := if d.hif.cfgFrom.isSome then vfsReset 3 (fnReset 3 0 d) else d
    linkSet 0 0 false false { d1 with pins.perstN := false, hif.cfgFrom := none }) s

/-- The link begins to train once PERST_N is high and step 5 has begun; configuration is answered 100 ms later (R452). -/
def linkTrain (d : Dev) : Dev :=
  if d.hif.trained && d.pins.perstN then { d with hif.cfgFrom := some (d.time.stampUs + 100000) } else d

/-- PERST_N_DEASSERT (R452). -/
def execPerstNDeassert (s : State) : Out := run (fun d => linkTrain { d with pins.perstN := true }) s

/-- D3HOT_ENTER: fetching stops and every CQ holds its entries. -/
def execD3hotEnter (fn : FnIx) (s : State) : Out := run (onFn fn fun d => setFn fn { getFn d fn with d3hot := true } d) s

/-- D3HOT_EXIT: fetching and writing resume. -/
def execD3hotExit (fn : FnIx) (s : State) : Out :=
  run (onFn fn fun d => (List.range 16).foldl (fun x n => cqDrain fn n x) (setFn fn { getFn d fn with d3hot := false } d)) s

/-- LINK_RETRAIN (R277): the link trains to a rate and width both ends support; FLIT mode at 64 and 128 GT/s always. -/
def execLinkRetrain (rate width : Nat) (flit : Bool) (s : State) : Out :=
  run (fun d =>
    if !(d.hif.trained && d.pins.perstN) || decide (rate < 1 ∨ 7 < rate) || !([1, 2, 4].contains width) then d
    else linkSet rate width (flit || decide (rate ≥ 6)) true d) s

/-- AER_ERROR_LOGGED (R305). -/
def execAerErrorLogged (uncorr : Bool) (status hdr : W32) (s : State) : Out :=
  run (fun d =>
    if !uncorr then { d with hif.aerCorr := BitVec.ofNat 16 (satAdd 16 d.hif.aerCorr.toNat 1) }
    else raise 0xC006 2 0 uDevice (pay [(16, 4, status.toNat), (20, 4, hdr.toNat)])
      { d with hif.aerUncorr := BitVec.ofNat 16 (satAdd 16 d.hif.aerUncorr.toNat 1) }) s

/-! Configuration space (R276, R278). -/

/-- Bits of a BAR dword that software may write: BAR0 64 KiB, BAR2 16 MiB, 64-bit non-prefetchable. -/
def barMask (fn off : Nat) : Nat :=
  if off = 0x10 then 0xFFFF0000 else if off = 0x14 then 0xFFFFFFFF
  else if fn = 0 ∧ off = 0x18 then 0xFF000000 else if fn = 0 ∧ off = 0x1C then 0xFFFFFFFF else 0

/-- A dword of configuration space; one the spec does not lay out is free. VFs carry no BARs of their own. -/
def cfgRead (fn off : Nat) (d : Dev) : Dev :=
  let f := getFn d fn
  let say := fun (v : Nat) => emit (.cfgData (BitVec.ofNat 32 v)) d
  if off = 0 then say (if fn = 0 then Config.vendorId.toNat + 0x45050000 else 0xFFFFFFFF)
  else if off = 8 then
    let r := fresh 8 d
    emit (.cfgData (BitVec.ofNat 32 (0x12000000 + r.1.toNat))) r.2
  else if 0x10 ≤ off ∧ off < 0x28 then
    let m := if fn = 0 then barMask 0 off else 0
    say (((sGet 0 f.cfgSpace off).toNat &&& m) + (if fn = 0 ∧ (off = 0x10 ∨ off = 0x18) then 4 else 0))
  else if off = 4 then
    let r := fresh 32 d
    emit (.cfgData ((r.1 &&& 0xFFFFFFFB) ||| (if f.bme then 4 else 0))) r.2
  else
    let r := fresh 32 d
    emit (.cfgData r.1) r.2

/-- A write of configuration space: Bus Master Enable, BARs, VF Enable; clearing VF Enable resets every VF. -/
def cfgWrite (fn off : Nat) (v : W32) (d : Dev) : Dev :=
  let f := getFn d fn
  if off = 4 then setFn fn { f with bme := v.getLsbD 2, cfgSpace := sPut 0 f.cfgSpace off v } d
  else
    let d1 := setFn fn { f with cfgSpace := sPut 0 f.cfgSpace off v } d
    if fn = 0 ∧ off = Config.sriovCap + 8 then (if v.getLsbD 0 then { d1 with hif.vfEnable := true } else vfsReset 1 d1) else d1

/-- CONFIG_REQUEST (R452): before readiness Request Retry Status, then the answer; a function that does not exist is an Unsupported
Request. -/
def configRequest (fn : Nat) (wr : Bool) (off : Nat) (v : W32) (d : Dev) : Dev :=
  if !d.pins.perstN || !d.hif.trained then d
  else
    let ready := match d.hif.cfgFrom with
      | some t => decide (t ≤ d.time.stampUs)
      | none => false
    if !ready then emit .cfgRetry d
    else if fn ≠ 0 && !d.hif.vfEnable then emit .cfgUr d
    else
      let o := off % 4096 / 4 * 4
      if wr then cfgWrite fn o v d else cfgRead fn o d

def execConfigRequest (fn : FnIx) (wr : Bool) (off : Nat) (v : W32) (s : State) : Out := run (configRequest fn wr off v) s

/-! Published counters (R375). -/

/-- A value with every bit below position max(0, b − 8) cleared, b its bit length. -/
def blurred (v : Nat) : Nat := let b := if v = 0 then 0 else v.log2 + 1; v / 2 ^ (b - 8) * 2 ^ (b - 8)

/-- Contexts of a tenant in states 1–6. -/
def tenantCtx (d : Dev) (t : Nat) : Nat := d.srv.ctxs.countP fun c => decide (c.2.tenant = t ∧ 1 ≤ c.2.state ∧ c.2.state ≤ 6)

/-- COUNTER_PUBLISH: every tenant-facing counter takes its value, but holds while another tenant is being scrubbed (R378). -/
def counterPublish (d : Dev) : Dev :=
  let d1 := (List.range 64).foldl (fun x fn =>
    if d.sec.marks.any fun t => decide (t ≠ fn) then x
    else setFn fn { getFn x fn with
      pubCtx := BitVec.ofNat 21 (blurred (tenantCtx d fn)), pubTokens := BitVec.ofNat 32 (blurred (sGet 0 d.srv.tok100 fn)) } x) d
  { d1 with srv.tok100 := [] }

def execCounterPublish (s : State) : Out := run counterPublish s

end Sys2Proof.Machine
end

