-- ==== Sys2Proof/Machine/Domains.lean ====
section
/-! DEFINITION. A domain that wakes (R393): its steps, and what its units do when it runs again (R14, R29, R90). -/

namespace Sys2Proof.Machine

/-- Planes found in Programming or Verifying are treated as empty and programmed again (R119). -/
def reprogram (p : Nat → Bool) (d : Dev) : Dev :=
  (d.arr.planes.filter fun e => p e.1 && (planeState d e.1 = 1 || planeState d e.1 = 2)).foldl (fun x e =>
    startProgram e.2.why e.1 (stopProgram e.1 x)) d

/-- HBM has lost its content: what the model image and the golden records give is written again (R110, R124). -/
def hbmRewrite (d : Dev) : Dev := writeBlocks (permRestore d)

/-- A die runs: its converters lock, the pilot self-check begins, and its programs go on (R90, R119, R393). -/
def dieUp (n : Nat) (d : Dev) : Dev :=
  reprogram (fun k => pkDie k = n) (applyPrograms (checkBegin n (modDie n (fun x => { x with lock := true, held := false }) d)))

/-- The control processors run anew: fields that come from the configuration block are set, and the rung in force gives the budget
(R14). -/
def cpsUp (d : Dev) : Dev :=
  applyRung ([0x0201, 0x0202, 0x0203, 0x0204, 0x0205, 0x0206, 0x0207].foldl (fun x t => cfgApply t 0 x) { d with time.cpNs := 0 })

/-- What a unit does when its domain has left Off, beside what it does on every wake: quantisers are seeded (R56). -/
def domainAnew (n : Nat) (d : Dev) : Dev :=
  if n < 272 then rngSeed n (modCore n (fun c => { c with req := BitVec.ofNat 7 (cfgGet d 0x0110 0) }) d)
  else if n < 340 then rngSeed n d
  else if n = 344 then cpsUp d
  else if 345 ≤ n ∧ n < 349 then hbmRewrite d
  else if 349 ≤ n ∧ n < 365 then dieUp (n - 349) d
  else if n = 365 then (if d.hif.trained then d else linkTrain { d with hif.trained := true })
  else if 366 ≤ n ∧ n < 374 then (if standalone d || portRole d (n - 366) = 7 then d else portToFree (n - 366) 1 d)
  else d

/-- A domain in Run again: its oscillator runs, the processors' time starts anew after Off, and requests held for it go on (R29). -/
def domainUp (n was : Nat) (d0 : Dev) : Dev :=
  let d := if was = 4 then domainAnew n d0 else d0
  let d1 := setIsland n { getIsland d n with idle := false } d
  if n < 272 then
    dispatchHeld n (modCore n (fun c => { c with actual := BitVec.ofNat 7 (coreTarget d1 n), cycFrom := d1.time.stampUs,
                                                 cycBase := if was = 4 then 0 else coreCycles d1 c }) d1)
  else if n < 340 then setIsland n { freq := pipeTarget d1 (n - 272), idle := false } d1
  else if 349 ≤ n ∧ n < 365 then feedAll d1
  else d1

/-- A step's ready is seen (R393): the next step begins, and after the fourth the domain is in Run. The ready of another step than the
one in progress starts nothing. -/
def wakeStep (n ready : Nat) (d : Dev) : Dev :=
  let x := getDom d n
  if x.wake ≠ ready + 1 then d
  else if x.wake < 4 then setDom n { x with wake := x.wake + 1, rerun := false } d
  else
    let d1 := domainUp n x.state (setDom n { x with state := 0, wake := 0, rerun := false, downAsked := none } d)
    match x.downAsked with
    | some t => domainDown n t d1
    | none => d1

/-- WAKE_STEP_COMPLETE: steps 1–4 as 0–3. -/
def execWakeStepComplete (dom : DomIx) (ready : Fin 4) (s : State) : Out := run (wakeStep dom ready) s

/-- WAKE_STEP_TIMEOUT (R393): the step runs once more; a second failure leaves the domain Off and charges it. -/
def wakeStepLate (n : Nat) (d : Dev) : Dev :=
  let x := getDom d n
  if x.wake = 0 then d
  else if !x.rerun then setDom n { x with rerun := true } d
  else
    let u := (domUnit n).getD uDevice
    let d1 := raise 0x5007 3 0 u (pay [(16, 2, n), (18, 1, x.wake)]) (domOff n (setDom n {} d))
    match domUnit n with
    | some v => charge 0x5007 false v d1
    | none => d1

def execWakeStepTimeout (dom : DomIx) (s : State) : Out := run (wakeStepLate dom) s

end Sys2Proof.Machine
end

