-- ==== Sys2Proof/Machine/Sessions.lean ====
section
/-! DEFINITION. Management sessions: handshakes (R359–R362), records (R362, R363), policy programs (R137, R138, R273). -/

namespace Sys2Proof.Machine

/-! Handshakes. -/

/-- A handshake fails: 7003h; five within 60 s lock out new ones (R360). -/
def hsFail (reason conn : Nat) (d : Dev) : Dev :=
  let d1 := secEv 0x7003 2 0 [(16, 1, reason), (24, 8, conn)] d
  let f := (d.sec.hsFails.filter fun t => decide ((d.time.stampUs - t).toNat ≤ 60000000)) ++ [d.time.stampUs]
  if f.length ≥ 5 then
    secEv 0x7004 3 0 [(16, 4, f.length)] { d1 with sec.hsFails := [], sec.lockUntil := some (d.time.stampUs + 60000000) }
  else { d1 with sec.hsFails := f }

/-- The Lantern answers from the end of start step 2, and in every state while VSTBY is present (R431). -/
def lanternUp (d : Dev) : Bool := decide (1 ≤ d.pwr.mode) && !(decide (d.pwr.mode = 2) && decide (d.nor.at_ ≤ 2))

/-- A session can open while the Lantern answers and has its keys and its enrolment table (R429). -/
def sessionsOpen (d : Dev) : Bool := lanternUp d && !d.nor.dataGone

/-- A handshake record to the connection, or to the member that holds it. -/
def sendHello (conn : Nat) (via_ : Option Nat) (bytes : Bytes) (d : Dev) : Dev :=
  match via_ with
  | none => emit (.hello conn bytes) d
  | some m => sendMsg 0x20 1 0 m [] bytes d

/-- Header of a record sent in clear (R362). -/
def recordHdr (type seq len : Nat) : Bytes := toLe 4 len ++ toLe 1 type ++ toLe 3 0 ++ toLe 8 seq

/-- Answer a client hello: ephemeral point, random, confirmation, certificate chain. -/
def deviceHello (conn : Nat) (via_ : Option Nat) (e : EnrolEnt) (p : Bytes) (d : Dev) : Dev :=
  let r := drbg 96 d
  let sb := padTo 32 (Config.kexOut 1 e.key p r.1 d.sec.seed 0)
  let chain := Config.certDer 0 d.sec.cert d.sec.seed (runDigest d 1)
  let bytes := r.1 ++ sb ++ toLe 2 chain.length ++ chain
  let n := r.2.sec.nextSess.toNat
  let x : SessSt := { conn := conn, idx := fld p 0 1, key := e.key, role := e.role, via_ := via_, hello := p, answer := r.1,
                      lastUs := d.time.stampUs, keyUs := d.time.stampUs, rx := 1, tx := 1 }
  sendHello conn via_ (recordHdr 0x11 0 bytes.length ++ bytes)
    (deviceWake 6 { setSess n x r.2 with sec.nextSess := r.2.sec.nextSess + 1 })

/-- A client hello that names another member: this module relays the session (R331), which counts in the limit of R359. -/
def relayHello (conn m : Nat) (p : Bytes) (d : Dev) : Dev :=
  if !inView d m then d
  else if d.sec.sessions.length ≥ 8 then secEv 0x7003 2 0 [(16, 1, 4), (24, 8, conn)] d
  else
    let n := d.sec.nextSess.toNat
    let x : SessSt := { conn := conn, idx := fld p 0 1, key := [], role := 2, target := some m, hello := p, lastUs := d.time.stampUs }
    sendMsg 0x20 1 0 m [] (recordHdr 0x10 0 p.length ++ p) { setSess n x d with sec.nextSess := d.sec.nextSess + 1 }

/-- CLIENT_HELLO (R360, R362). -/
def clientHello (conn : Nat) (via_ : Option Nat) (p : Bytes) (d : Dev) : Dev :=
  let m := fld p 1 1
  if !sessionsOpen d || d.sec.lockUntil.isSome then d
  else if via_.isNone && !standalone d && decide (m ≠ 0xFF ∧ m ≠ selfMember d) then relayHello conn m p d
  else match sFind d.sec.enrol (fld p 0 1) with
    | none => hsFail 1 conn d
    | some e =>
      if d.sec.sessions.length ≥ 8 then secEv 0x7003 2 0 [(16, 1, 4), (24, 8, conn)] d
      else if p.length ≠ 100 || !zeros p 2 2 || !Config.pointOk ((p.drop 4).take 64) then hsFail 2 conn d
      else deviceHello conn via_ e p d

def execClientHello (conn : Nat) (via : Option (Fin 64)) (payload : Bytes) (s : State) : Out :=
  run (clientHello conn (via.map (·.val)) payload) s

/-- CLIENT_FINISH (R359): the confirmation opens the session. -/
def clientFinish (n : Nat) (p : Bytes) (d : Dev) : Dev :=
  match getSess d n with
  | none => d
  | some x =>
    match x.target with
    | some m => sendMsg 0x20 1 0 m [] (recordHdr 0x12 1 p.length ++ p) d
    | none =>
      if x.established then sessClose n 3 d
      else
        let known := match sFind d.sec.enrol x.idx with
          | some e => decide (e.key = x.key)
          | none => false
        let drop := { d with sec.sessions := sDel d.sec.sessions n }
        if !known then hsFail 1 x.conn drop
        else if p ≠ padTo 32 (Config.kexOut 0 x.key x.hello x.answer d.sec.seed 0) then hsFail 2 x.conn drop
        else
          let y := { x with established := true, rx := 2, keys := Config.kexOut 2 x.key x.hello x.answer d.sec.seed 0,
                            lastUs := d.time.stampUs, keyUs := d.time.stampUs }
          secEv 0x7001 1 0 [(16, 1, x.idx), (17, 1, x.role), (18, 1, if x.via_.isSome then 2 else 1), (20, 4, n)] (setSess n y d)

def execClientFinish (sid : Nat) (payload : Bytes) (s : State) : Out := run (clientFinish sid payload) s

/-! Policy programs. -/

/-- Load a policy program: 1 recipe, 2 admission. It runs again even where the old one was disabled (R137). -/
def policyLoad (kind : Nat) (prog : Bytes) (d : Dev) : Dev :=
  if kind = 1 then
    { d with num.policy := { d.num.policy with
        prog := prog, loaded := true, disabled := false, queue := [], running := none, asked := [], abortNs := [] } }
  else
    admitAll { d with srv.adm := { d.srv.adm with
        prog := prog, loaded := true, disabled := false, queue := [], running := none, abortNs := [] } }

/-- Unload it: the default policy runs, every request is admitted (R138, R273). -/
def policyUnload (kind : Nat) (d : Dev) : Dev :=
  if kind = 1 then { d with num.policy := { d.num.policy with prog := [], loaded := false, queue := [], running := none, asked := [] } }
  else admitAll { d with srv.adm := { d.srv.adm with prog := [], loaded := false, queue := [], running := none } }

/-- A command whose bulk arguments have all arrived takes effect (R363). -/
def bulkDone (sid : Option Nat) (c : PendCmd) (d : Dev) : Dev :=
  if c.code = 0x15 then reply sid c.code c.id done true [] (policyLoad c.arg c.got d)
  else
    let r := reconfigure c.got c.flag d
    reply sid c.code c.id r.1 true [] r.2

/-- A command with bulk arguments waits for its data records; without any it takes effect at once. -/
def bulkStart (sid : Option Nat) (c : PendCmd) (d : Dev) : Dev := if c.len = 0 then bulkDone sid c d else addPend sid c d

/-- LOAD_POLICY_PROGRAM (R137). -/
def execLoadPolicyProgram (mc : MgmtCmd) (kind len : Nat) (s : State) : Out :=
  run (mgmtGate mc 0x15 1 .serving (decide (1 ≤ kind ∧ kind ≤ 2 ∧ 0 < len ∧ len < 2 ^ 32))
    fun sid => bulkStart sid { id := mc.id, code := 0x15, len := len, arg := kind }) s

/-- UNLOAD_POLICY_PROGRAM (R138). -/
def execUnloadPolicyProgram (mc : MgmtCmd) (kind : Nat) (s : State) : Out :=
  run (mgmtGate mc 0x16 1 .serving (decide (1 ≤ kind ∧ kind ≤ 2))
    fun sid d => reply sid 0x16 mc.id done true [] (policyUnload kind d)) s

/-- RECONFIGURE (R436): the block follows in data records. -/
def execReconfigure (mc : MgmtCmd) (len : Nat) (writeOk : Bool) (s : State) : Out :=
  run (mgmtGate mc 0x20 1 .serving (decide (len < 2 ^ 32))
    fun sid => bulkStart sid { id := mc.id, code := 0x20, len := len, flag := writeOk }) s

/-! Records. -/

/-- A data record brings the next bytes of a command's bulk arguments; a gap or bytes beyond the declared length end the command
with F003h (R363). -/
def dataRecord (n : Nat) (id : W32) (off : Nat) (bytes : Bytes) (x : SessSt) (d : Dev) : Dev :=
  match x.cmds.find? fun c => c.id = id && decide (0 < c.len) with
  | none => d
  | some c =>
    let c1 := { c with got := c.got ++ bytes }
    if off ≠ c.got.length ∨ c1.got.length > c.len then reply (some n) c.code id badArgs true [] d
    else if c1.got.length = c.len then bulkDone (some n) c1 d
    else setSess n { x with cmds := x.cmds.map fun y => if y.id = id then c1 else y } d

/-- A record of a session: relayed, or taken in under R359. -/
def sessRecord (n : Nat) (seq : W64) (tagOk : Bool) (f : SessSt → Dev → Dev) (d : Dev) : Dev :=
  match relayTo d n with
  | some m => if inView d m then relayRecord n m seq d else d
  | none => match recordIn n seq tagOk d with
    | (none, d1) => d1
    | (some x, d1) => f x d1

/-- DATA. -/
def execDataRec (sid : Nat) (seq : W64) (tagOk : Bool) (id : W32) (off : W64) (bytes : Bytes) (s : State) : Out :=
  run (sessRecord sid seq tagOk (dataRecord sid id off.toNat bytes)) s

/-- CLOSE: the session ends after that record; a relayed one ends here too. -/
def execCloseRec (sid : Nat) (seq : W64) (tagOk : Bool) (s : State) : Out :=
  run (fun d => sessClose sid 1 (sessRecord sid seq tagOk (fun _ y => y) d)) s

/-- KEEP_ALIVE: the idle time starts again. -/
def execKeepAlive (sid : Nat) (seq : W64) (tagOk : Bool) (s : State) : Out := run (sessRecord sid seq tagOk (fun _ y => y)) s

/-- SESSION_IDLE_TIMEOUT (R359). -/
def execSessionIdleTimeout (sid : Nat) (s : State) : Out := run (sessClose sid 2) s

/-- SESSION_REKEY (R359): new keys and salts in both directions. -/
def sessRekey (n : Nat) (d : Dev) : Dev :=
  match getSess d n with
  | none => d
  | some x =>
    if !x.established then d else
      let k := x.rekeys + 1
      setSess n { x with rekeys := k, keyUs := d.time.stampUs, keys := Config.kexOut 2 x.key x.hello x.answer d.sec.seed k } d

def execSessionRekey (sid : Nat) (s : State) : Out := run (sessRekey sid) s

/-- LOCKOUT_END (R360). -/
def execLockoutEnd (s : State) : Out := run (fun d => { d with sec.lockUntil := none }) s

end Sys2Proof.Machine
end

