-- ==== Sys2Proof/Machine/Fabric.lean ====
section
/-! DEFINITION. The Criley fabric: link frames (R310–R312), frames received and relayed (R308, R309, R320–R322), timers, joins
(R314, R315), announcements (R316), the shared plan (R317, R318), reports (R329), shards (R230, R328), ferries at their destination
(R325–R327). -/

namespace Sys2Proof.Machine

def runP (p : PortIx) (f : Nat → Dev → Dev) (s : State) : Out := run (f p.val) s

/-! Link frames: a bad CRC discards one, and none is sequenced. -/

/-- A link frame of a type acts where the port's state carries it. -/
def linkFrame (p type : Nat) (f : Frame) (act : Dev → Dev) (d : Dev) : Dev :=
  let x := getPort d p
  if !stateCarries x.state type then d
  else if !crcGood f then setPort p { x with crcErr := BitVec.ofNat 16 (satAdd 16 x.crcErr.toNat 1) } d
  else if fType f ≠ type ∨ fVl f ≠ 7 then d
  else act (ackProcess p (fAck f) d)

/-- ACK_AND_CREDIT (R310): cumulative grants, so a lost one is made good by the next. -/
def ackCredit (p : Nat) (f : Frame) (d : Dev) : Dev :=
  linkFrame p 0x01 f (fun y => drainPort p (modPort p (fun x =>
    { x with granted := (List.range 7).foldl (fun m v => sSet m v (BitVec.ofNat 32 (fld f.payload (4 * v) 4))) x.granted }) y)) d
def execAckAndCredit (p : PortIx) (f : Frame) (s : State) : Out := runP p (fun n => ackCredit n f) s

/-- HEARTBEAT (R312): answered with its time and the hold time, which is at most 1 µs and otherwise free. -/
def heartbeat (p : Nat) (f : Frame) (d : Dev) : Dev :=
  linkFrame p 0x02 f (fun y =>
    let c : W32 := BitVec.ofNat 32 (fld f.payload 8 4)
    let r := fresh 32 (modPort p (fun x =>
      let gap := match x.hbSeen with
        | some o => (c - o).toNat - 1
        | none => 0
      { x with hbSeen := some c, hbMissed := BitVec.ofNat 16 (satAdd 16 x.hbMissed.toNat gap) }) y)
    sendLink p 0x04 (toLe 8 (fld f.payload 0 8) ++ toLe 4 (r.1.toNat % 1001)) r.2) d
def execHeartbeat (p : PortIx) (f : Frame) (s : State) : Out := runP p (fun n => heartbeat n f) s

/-- HEARTBEAT_ECHO (R312): one transit sample. -/
def heartbeatEcho (p : Nat) (f : Frame) (now : W64) (d : Dev) : Dev :=
  linkFrame p 0x04 f (modPort p fun x =>
    { x with transits := ((now.toNat - fld f.payload 0 8 - fld f.payload 8 4) / 2 :: x.transits).take 8 }) d
def execHeartbeatEcho (p : PortIx) (f : Frame) (now : W64) (s : State) : Out := runP p (fun n => heartbeatEcho n f now) s

/-- Transit of a link: the smallest of the last 8 samples. -/
def transit (x : PortSt) : Nat := match x.transits with
  | [] => 0
  | t :: r => r.foldl min t

/-- NAK (R311): what it names is expected next; everything from it on is sent again. -/
def nak (p : Nat) (f : Frame) (d : Dev) : Dev :=
  linkFrame p 0x03 f (fun y => resendAll p (ackProcess p (BitVec.ofNat 16 (fld f.payload 0 2)) y)) d
def execNak (p : PortIx) (f : Frame) (s : State) : Out := runP p (fun n => nak n f) s

/-! Frames received. -/

/-- A frame is discarded: 8008h. Reasons: 1 reserved type, 2 VL, 3 hops, 4 scrubbed tenant, 5 fenced peer. -/
def discardFrame (p reason : Nat) (f : Frame) (d : Dev) : Dev := portEv 0x8008 2 p [(17, 1, reason), (18, 1, fType f), (20, 4, 1)] d

/-- A whole message waits for its command; a ferry dispatch takes its place in the queue (R325). Messages but join records and
announcements, which port logic takes, wake the domains that serve (R332, log entry 193). -/
def deposit (p : Nat) (f : Frame) (body : Bytes) (d : Dev) : Dev :=
  let d0 := if d.pwr.mode = 3 ∧ fType f ≠ 0x10 ∧ fType f ≠ 0x11 then wakeServing 2 d else d
  let d1 := { d0 with fab.accepted := d0.fab.accepted ++ [(p, { f with payload := body })] }
  if fType f = 0x30 then { d1 with fab.jobs := d1.fab.jobs ++ [⟨fSpec f 28 4, fSrc f, fMsg f⟩] } else d1

/-- A fragment for this module: duplicates are discarded, the last one to arrive completes the message (R322). -/
def reassemble (p : Nat) (f : Frame) (d : Dev) : Dev :=
  let key := fSrc f * 2 ^ 32 + fMsg f
  let recent := d.fab.finished.filter fun x => decide (d.time.stampUs.toNat < x.2 + 1000000)
  if recent.any fun x => x.1 = key then d
  else
    let mine : MsgIn → Bool := fun m => m.src = fSrc f && m.msg = fMsg f
    let old := (d.fab.inbound.find? mine).getD ⟨fSrc f, fMsg f, fFrags f, []⟩
    let rest := d.fab.inbound.filter fun m => !mine m
    if (sFind old.held (fFrag f)).isSome then d
    else
      let now_ := { old with held := sSet old.held (fFrag f) f.payload }
      if now_.held.length < now_.frags then { d with fab.inbound := rest ++ [now_] }
      else deposit p f (now_.held.flatMap (·.2)) { d with fab.inbound := rest, fab.finished := (key, d.time.stampUs.toNat) :: recent }

/-- A flooded frame: its key is new, it goes once to each other Up neighbour, and it acts here (R309). -/
def floodTake (p : Nat) (f : Frame) (d : Dev) : Dev :=
  let key := seenKey (fFrag f) (fSrc f) (fMsg f)
  if d.fab.seen.contains key then d
  else
    let g := { f with hdr := hdrHops f.hdr (fHops f - 1) }
    let d1 := { d with fab.seen := key :: d.fab.seen }
    let d2 := if fHops f ≤ 1 then d1 else
      (List.range 8).foldl (fun x q => if q ≠ p ∧ (getPort x q).state = 3 then sendOn q g x else x) d1
    reassemble p f d2

/-- The budget a ferry has left after a link: less its transit, rounded up (R325). -/
def budgetAfter (x : PortSt) (f : Frame) : Frame :=
  if fType f = 0x30 then { f with hdr := hdrBudget f.hdr (fSpec f 28 4 - ceilDiv (transit x) 1000) } else f

/-- Forward a routed frame; the holding time that a ferry's budget loses is free. -/
def forward (p : Nat) (f : Frame) (d : Dev) : Dev :=
  if fHops f ≤ 1 then discardFrame p 3 f d
  else
    let g := { f with hdr := hdrHops f.hdr (fHops f - 1) }
    if fType f ≠ 0x30 then routeFrame (startsHere d g) g d
    else
      let r := fresh 16 d
      let h := { g with hdr := hdrBudget g.hdr (fSpec g 28 4 - r.1.toNat) }
      routeFrame (startsHere d h) h r.2

/-- What an accepted frame does, by its type (R308, R309, R315, R378). -/
def frameContent (p : Nat) (f : Frame) (d : Dev) : Dev :=
  let x := getPort d p
  let here := decide (fDst f = selfMember d)
  if (vlsOf (fType f)).isEmpty then discardFrame p 1 f d
  else if !(vlsOf (fType f)).contains (fVl f) then discardFrame p 2 f d
  else if !stateCarries x.state (fType f) then discardFrame p 5 f d
  else if sGet 0 d.sec.slots (fTenant f) = 2 && !(fType f = 0x30 && here) then discardFrame p 4 f d
  else if fType f = 0x10 then deposit p f f.payload d
  else if flooded (fType f) then floodTake p f d
  else
    let g := budgetAfter x f
    if here then reassemble p g d else forward p g d

/-- FRAME_RECEIVE (R309, R311): the frame expected is accepted, its buffer granted again; every other is discarded and nakked, one
that is too long as well (log entry 192). -/
def frameReceive (p : Nat) (f : Frame) (d : Dev) : Dev :=
  let x := getPort d p
  let t := fType f
  if !stateCarries x.state 0x10 then d
  else if !crcGood f then nakStep p (setPort p { x with crcErr := BitVec.ofNat 16 (satAdd 16 x.crcErr.toNat 1) } d)
  else if 1 ≤ t ∧ t ≤ 4 then d
  else if fLen f > 9180 ∨ f.payload.length ≠ fLen f then nakStep p d
  else if (x.state = 2 ∨ x.state = 6) ∧ !stateCarries x.state t then d
  else
    let d1 := ackProcess p (fAck f) d
    if fSeq f ≠ (getPort d1 p).rxNext then nakStep p d1
    else
      let d2 := modPort p (fun y => { y with
        rxNext := y.rxNext + 1, nakUs := none, unacked := y.unacked + 1
        given := sSet y.given (fVl f) (sGet 0 y.given (fVl f) + BitVec.ofNat 32 (creditsOf f)) }) d1
      frameContent p f (if (getPort d2 p).unacked ≥ 16 then sendAck p d2 else d2)
def execFrameReceive (p : PortIx) (f : Frame) (s : State) : Out := runP p (fun n => frameReceive n f) s

/-! Timers and the physical layer. -/

/-- HEARTBEAT_SEND (R312). -/
def heartbeatSend (p : Nat) (now : W64) (d : Dev) : Dev :=
  let x := getPort d p
  if !stateCarries x.state 0x02 then d
  else sendLink p 0x02 (toLe 8 now.toNat ++ toLe 4 x.hbSent.toNat) (setPort p { x with hbSent := x.hbSent + 1 } d)
def execHeartbeatSend (p : PortIx) (now : W64) (s : State) : Out := runP p (fun n => heartbeatSend n now) s

/-- HEARTBEAT_TIMEOUT (R312): eight periods without a heartbeat. -/
def heartbeatTimeout (p : Nat) (d : Dev) : Dev :=
  let x := getPort d p
  if !stateCarries x.state 0x02 then d
  else portDown p 2 (setPort p { x with hbMissed := BitVec.ofNat 16 (satAdd 16 x.hbMissed.toNat 8) } d)
def execHeartbeatTimeout (p : PortIx) (s : State) : Out := runP p heartbeatTimeout s

/-- RESEND_TIMEOUT (R311). -/
def execResendTimeout (p : PortIx) (s : State) : Out := runP p resendAll s

/-- ACK_TIMER (R311). -/
def execAckTimer (p : PortIx) (s : State) : Out := runP p (fun n d => if (getPort d n).unacked > 0 then sendAck n d else d) s

/-- The PCS or the FEC takes a link Down; the port is charged (R313, R345). -/
def physDown (p : Nat) (d : Dev) : Dev :=
  if !stateCarries (getPort d p).state 0x02 then d else charge 0x8001 false (uPort p) (portDown p 4 d)

/-- PCS_LOCK_LOSS (R313). -/
def execPcsLockLoss (p : PortIx) (s : State) : Out := runP p physDown s

/-- FEC_ERROR_RATE (R313). -/
def execFecErrorRate (p : PortIx) (uncorr : Nat) (s : State) : Out :=
  runP p (fun n d => physDown n (modPort n (fun x => { x with fecUncorr := BitVec.ofNat 16 (satAdd 16 x.fecUncorr.toNat uncorr) }) d)) s

/-- PORT_TRAINED (R313): Joining; the buffers are granted. -/
def portTrained (p : Nat) (d : Dev) : Dev :=
  let x := getPort d p
  if x.state ≠ 1 then d else
    let y := { linkReset x with given := (List.range 7).foldl (fun m v => sSet m v (BitVec.ofNat 32 (vlBuffer v))) [] }
    sendAck p (portTo p 2 1 (setPort p y d))
def execPortTrained (p : PortIx) (s : State) : Out := runP p portTrained s

/-- TRAINING_RETRY (R313); a retired port trains no more. -/
def execTrainingRetry (p : PortIx) (s : State) : Out :=
  runP p (fun n d => if (getPort d n).state = 5 ∧ !unitRetired d (uPort n) then portToFree n 1 d else d) s

/-- SPARE_RETURN (R313). -/
def execSpareReturn (p : PortIx) (s : State) : Out := runP p spareReturn s

/-- LSA_SEND (R316). -/
def execLsaSend (s : State) : Out := run lsaSend s

/-! Messages that act: each is taken once. -/

def takeMsg (p type : Nat) (f : Frame) (act : Dev → Dev) (d : Dev) : Dev :=
  if fType f = type ∧ d.fab.accepted.contains (p, f) then act { d with fab.accepted := d.fab.accepted.erase (p, f) } else d

/-- The first disagreement of a record with this module (R315). -/
def joinReason (p : Nat) (r : Bytes) (d : Dev) : Option Nat :=
  let m := fld r 8 1
  if fld r 0 8 ≠ flotillaId d then some 1
  else if (r.drop 32).take 32 ≠ configDigest d then some 2
  else if fld r 12 1 ≠ 1 ∨ fld r 13 1 > 1 then some 3
  else if impliedPeer d p ≠ some m then some 4
  else match sFind d.fab.serials m with
    | some s => if s.toNat = fld r 24 8 then none else some 5
    | none => none

/-- JOIN (R315, R317). -/
def joinTake (p : Nat) (r : Bytes) (d : Dev) : Dev :=
  let m := fld r 8 1
  let serial : W64 := BitVec.ofNat 64 (fld r 24 8)
  if r.length ≠ 112 ∨ !stateCarries (getPort d p).state 0x10 then d
  else match joinReason p r d with
    | some why => portFence p why m serial d
    | none =>
      let x := getPort d p
      let same := decide ((r.drop 64).take 32 = genDigest d)
      let d1 := setPort p { x with
        peer := m, fence := 0, serial := serial, minor := min 0 (fld r 13 1), accepted := true, peerReady := bitAt (fld r 97 1) 0
        genTold := !same, fwDiff := decide (fld r 16 4 ≠ hdrVersion (fwSlot d d.nor.slot).hdr) } d
      let d2 := if !same && !x.genTold then portEv 0x8003 1 p [(17, 1, m)] d1 else d1
      let e := fld r 20 4
      let d3 := { d2 with
        fab.serials := sSet d2.fab.serials m serial
        fab.jump := if e > d2.plc.epoch.toNat ∧ e > ((d2.fab.jump.map (·.toNat)).getD 0) then some (BitVec.ofNat 32 e) else d2.fab.jump }
      let d4 := portUp p d3
      if x.accepted then d4 else sendJoin p d4
def execJoinRec (p : PortIx) (f : Frame) (s : State) : Out := runP p (fun n => takeMsg n 0x10 f (joinTake n f.payload)) s

/-- JOIN_SEND (R314): until both sides have accepted. -/
def execJoinSend (p : PortIx) (s : State) : Out :=
  runP p (fun n d => let x := getPort d n
                     if stateCarries x.state 0x10 && !(x.accepted && x.peerReady) then sendJoin n d else d) s

/-- LINK_STATE_ANNOUNCEMENT (R316). -/
def lsaTake (f : Frame) (d : Dev) : Dev :=
  viewUpdate { d with fab.announced := sSet d.fab.announced (fSrc f) ((List.range 8).map fun p => (fld f.payload (2 * p) 1, fld f.payload (2 * p + 1) 1)) }
def execLinkStateAnnouncement (p : PortIx) (f : Frame) (s : State) : Out := runP p (fun n => takeMsg n 0x11 f (lsaTake f)) s

/-- STATISTICS_GOSSIP (R318): records older than the last closed epoch but one are discarded. -/
def statsTake (f : Frame) (d : Dev) : Dev :=
  let n := fld f.payload 0 4
  if n + 2 < d.plc.epoch.toNat then d else { d with fab.stats := sSet d.fab.stats (fSrc f) (n, f.payload) }
def execStatisticsGossip (p : PortIx) (f : Frame) (s : State) : Out := runP p (fun n => takeMsg n 0x12 f (statsTake f)) s

/-- Hits of an expert in a statistics record. -/
def statsHits (b : Bytes) : List (Nat × Nat) :=
  (List.range ((b.length - 8) / 14)).map fun i => (fld b (8 + 14 * i) 8 * 65536 + fld b (16 + 14 * i) 2, fld b (18 + 14 * i) 4)

/-- The plan from the members' statistics: R240's wanted number of copies of each expert, on members chosen by the algorithm. -/
def planCopies (stats : List (Nat × Bytes)) (d : Dev) : Store (List Nat) :=
  let hits := stats.foldl (fun (m : Store Nat) r => (statsHits r.2).foldl (fun x h => sSet x h.1 (sGet 0 x h.1 + h.2)) m) []
  let own := d.plc.gens.flatMap fun g => if !g.2.flotilla then [] else
    (g.2.tensors.filter fun e => fld e 14 2 ≠ 0xFFFF).map fun e =>
      expertKey (BitVec.ofNat 16 (g.1 / 65536)) (BitVec.ofNat 16 g.1) (BitVec.ofNat 16 (fld e 12 2)) (BitVec.ofNat 16 (fld e 14 2))
  let ms := viewMembers d
  ((hits.map (·.1)) ++ own).eraseDups.foldl (fun (out : Store (List Nat)) k =>
    let lk := k / 65536
    let all := (hits.filter fun h => h.1 / 65536 = lk).foldl (fun a h => a + h.2) 0
    let x := ((getGen d (keyModel lk) (keyGen lk)).map fun g => expertsOf g (keyLayer lk)).getD 0
    let c := if all = 0 then 1 else min 4 (max 1 (ceilDiv (sGet 0 hits k * x) (2 * all)))
    let o := Config.planOffset k stats
    let picked := (List.range (min c ms.length)).map fun i => ms.getD ((o + i) % max 1 ms.length) 0
    sSet out k (ms.filter fun m => picked.contains m)) []

def planBytes (c : Store (List Nat)) : Bytes := c.flatMap fun e => toLe 10 e.1 ++ toLe 1 e.2.length ++ e.2.flatMap fun m => toLe 1 m

/-- PLAN_COMPUTE_START (R318 steps 2 and 3): the plan for the next epoch, and its announcement. -/
def planCompute (d : Dev) : Dev :=
  if standalone d then d else
    let e := d.plc.epoch.toNat
    let held : List (Nat × Bytes) := (viewMembers d).filterMap fun m =>
      if m = selfMember d then some (m, statsBody (e - 1) d)
      else match sFind d.fab.stats m with
        | some r => if r.1 + 1 = e then some (m, r.2) else none
        | none => none
    let copies := planCopies held d
    let digest := sm3 (planBytes copies)
    flood 0x13 [] (toLe 4 (e + 1) ++ toLe 8 d.fab.view.toNat ++ digest)
      { d with fab.ownPlan := some (e + 1, ofLe digest, copies), fab.computing := false }
def execPlanComputeStart (s : State) : Out := run planCompute s

/-- EPOCH_PLAN (R318 step 3). -/
def planTake (f : Frame) (d : Dev) : Dev :=
  { d with fab.plans := sSet d.fab.plans (fSrc f) (fld f.payload 0 4, BitVec.ofNat 64 (fld f.payload 4 8), ofLe ((f.payload.drop 12).take 32)) }
def execEpochPlan (p : PortIx) (f : Frame) (s : State) : Out := runP p (fun n => takeMsg n 0x13 f (planTake f)) s

/-- GENERATION_STATE (R329). -/
def genStateTake (f : Frame) (d : Dev) : Dev :=
  let m : W16 := BitVec.ofNat 16 (fld f.payload 0 2)
  let g : W16 := BitVec.ofNat 16 (fld f.payload 2 2)
  match fld f.payload 4 2 with
  | 1 => modGen m g (fun x => { x with readyFrom := if x.readyFrom.contains (fSrc f) then x.readyFrom else x.readyFrom ++ [fSrc f] }) d
  | 2 => modGen m g (fun x => { x with switchSeen := true }) d
  | 3 => tryDrained m g { d with plc.remote := sSet d.plc.remote (fSrc f * 2 ^ 32 + genKey m g) (fld f.payload 6 4) }
  | _ => d
def execGenerationState (p : PortIx) (f : Frame) (s : State) : Out := runP p (fun n => takeMsg n 0x14 f (genStateTake f)) s

/-- LOAD_STATUS (R230, R328). -/
def loadStatusTake (f : Frame) (d : Dev) : Dev :=
  let m : W16 := BitVec.ofNat 16 (fld f.payload 0 2)
  let g : W16 := BitVec.ofNat 16 (fld f.payload 2 2)
  let st : W16 := BitVec.ofNat 16 (fld f.payload 4 2)
  match loadOf d m with
  | some l => if l.gen = g ∧ recFlag' l.record 2 then loadEnd l st (fld f.payload 8 4) true d else d
  | none => if (getGen d m g).any (·.flotilla) then dropReady m g st d else d
def execLoadStatus (p : PortIx) (f : Frame) (s : State) : Out := runP p (fun n => takeMsg n 0x15 f (loadStatusTake f)) s

/-- MANAGEMENT_RELAY (R331): the member that holds the session passes the record to its connection; at the member addressed the
record is a command of that session. -/
def relayTake (f : Frame) (d : Dev) : Dev :=
  match d.sec.sessions.find? fun s => s.2.target = some (fSrc f) with
  | some s => emit (.hello s.2.conn f.payload) (setSess s.1 { s.2 with lastUs := d.time.stampUs } d)
  | none => d
def execManagementRelay (p : PortIx) (f : Frame) (s : State) : Out := runP p (fun n => takeMsg n 0x20 f (relayTake f)) s

/-! Shards (R230, R328). -/

/-- A part of a broadcast image: FFFFFFFFh begins the load. -/
def shardTake (f : Frame) (d : Dev) : Dev :=
  let m : W16 := BitVec.ofNat 16 (fSpec f 20 2)
  let g : W16 := BitVec.ofNat 16 (fSpec f 22 2)
  let k := fSpec f 24 4
  let b := f.payload
  if k ≠ 0xFFFFFFFF then (match loadOf d m with
    | some l => if l.gen = g then shardArrive m k b d else d
    | none => d)
  else
    let r := b.take 64
    let h := (b.drop 65).take 4096
    let t := b.drop 4161
    let root : Fin 64 := Fin.ofNat 64 (fld b 64 1)
    let l : LoadSt := { origin := .peer root, record := r, model := m, gen := g, tenant := fld r 4 1, hdr := h, sect := t, startUs := d.time.stampUs }
    let report := fun (st : W16) => flood 0x15 [] (toLe 2 m.toNat ++ toLe 2 g.toNat ++ toLe 2 st.toNat ++ toLe 2 0 ++ toLe 4 0xFFFFFFFF) d
    if (loadOf d m).isSome then (if (loadOf d m).any fun x => x.gen = g then d else report 0x1001)
    else if sGet 0 d.sec.slots l.tenant = 2 then report 0x6002
    else if d.plc.loads.length ≥ 8 then report 0x1001
    else
      let st := headerStatus l h t d
      let planes := shortPlanes d l.tenant h t
      let dnr := planes && recFlag' r 1 && (genIn d m 3 5).isSome
      if st ≠ 0 then report st
      else if !dnr && (planes || shortOther d l.tenant h) then report 0x5004
      else loadAccept l dnr { d with plc.loads := d.plc.loads ++ [l] }
def execShard (p : PortIx) (f : Frame) (s : State) : Out := runP p (fun n => takeMsg n 0x40 f (shardTake f)) s

/-- SHARD_REQUEST: a staged shard is sent; otherwise this member asks its own parent, and the root its source. -/
def shardRequest (f : Frame) (d : Dev) : Dev :=
  let m : W16 := BitVec.ofNat 16 (fSpec f 20 2)
  let g : W16 := BitVec.ofNat 16 (fSpec f 22 2)
  let k := fSpec f 24 4
  let send : Bytes → Dev := fun body => sendMsg 0x40 6 0 (fSrc f) (toLe 2 m.toNat ++ toLe 2 g.toNat ++ toLe 4 k ++ toLe 4 0) body d
  match loadOf d m, d.fab.staged.find? fun s => s.1 = m && s.2.1 = g && s.2.2.1 = k with
  | some l, none =>
    if l.gen ≠ g then d
    else if k = 0xFFFFFFFF then send (l.record ++ toLe 1 (rootOf d l) ++ l.hdr ++ l.sect)
    else askAgain l k (setLoad { l with refetched := if l.got.contains k then sSet l.refetched k 1 else l.refetched } d)
  | _, some s => send s.2.2.2
  | none, none => d
def execShardRequest (p : PortIx) (f : Frame) (s : State) : Out := runP p (fun n => takeMsg n 0x41 f (shardRequest f)) s

/-! Ferries at their destination (R325, R326), and returns (R327). -/

/-- The job served next: the smallest budget, then the earliest. -/
def nextJob (d : Dev) : Option FerryJob := d.fab.jobs.foldl (fun (b : Option FerryJob) j => match b with
  | none => some j
  | some x => if j.budget < x.budget then some j else b) none

/-- The return status of a dispatch. -/
def ferryStatus (f : Frame) (out : FerryOut) (d : Dev) : Nat :=
  let key : LayerKey := ⟨BitVec.ofNat 16 (fSpec f 20 2), BitVec.ofNat 16 (fSpec f 22 2), BitVec.ofNat 16 (fSpec f 24 2)⟩
  match getGen d key.model key.gen with
  | none => 1
  | some g =>
    if g.state ≠ 3 ∧ g.state ≠ 4 then 1
    else if !ownCopy d (ferryKey key (BitVec.ofNat 16 (fSpec f 26 2))) then 2
    else if g.owner ≠ 0 ∧ g.owner ≠ fTenant f then 3
    else if sGet 0 d.sec.slots (fTenant f) = 2 then 4
    else if out.computeFault then 5 else 0

/-- Expert work for another module begins its layer, unless the sailing in progress runs the generation (R136). -/
def ferryLayer (f : Frame) (d : Dev) : Dev :=
  let lk := layerKey (BitVec.ofNat 16 (fSpec f 20 2)) (BitVec.ofNat 16 (fSpec f 22 2)) (BitVec.ofNat 16 (fSpec f 24 2))
  let here := d.srv.sail.running && d.srv.sail.rows.any fun r => (getCtx d r.ctx).any fun c => genKey c.model c.gen = lk / 65536
  if here then d else layerBegins lk d

/-- FERRY_DISPATCH: the first job of the queue is served; its return carries outputs, or a status and no outputs. No frame carries
the tag of a tenant that is being scrubbed. -/
def ferryDispatch (f : Frame) (out : FerryOut) (d : Dev) : Dev :=
  let st := ferryStatus f out d
  let b := f.payload
  let n := fld b 0 2
  let slots := if st = 0 then (List.range n).map fun i => fld b (32 + 4 * i) 2 else []
  let d0 := if st = 0 then ferryLayer f d else d
  let d1 := { d0 with fab.jobs := d0.fab.jobs.filter fun j => !(j.src = fSrc f && j.msg = fMsg f) }
  sendMsg 0x31 4 (if st = 4 then 0 else fTenant f) (fSrc f) (f.hdr.drop 20)
    (ferryBody n (fld b 2 1) st (fld b 4 4) (fld b 8 4) slots (if st = 0 then out.bytes else [])) d1
def execFerryDispatch (p : PortIx) (f : Frame) (out : FerryOut) (s : State) : Out :=
  runP p (fun n d => if (nextJob d).any fun j => j.src = fSrc f && j.msg = fMsg f then takeMsg n 0x30 f (ferryDispatch f out) d else d) s

/-- FERRY_RETURN: a whole return ends the wait; a non-zero status is a failure; one that no ferry waits for is discarded. -/
def ferryReturn (f : Frame) (d : Dev) : Dev :=
  match d.fab.ferries.find? fun x => x.id = fld f.payload 8 4 && x.dst = fSrc f with
  | none => d
  | some x =>
    let st := fld f.payload 3 1
    if st = 0 then { d with fab.ferries := d.fab.ferries.filter fun y => y.id ≠ x.id } else ferryFail x st d
def execFerryReturn (p : PortIx) (f : Frame) (s : State) : Out := runP p (fun n => takeMsg n 0x31 f (ferryReturn f)) s

/-- FERRY_TIMEOUT. -/
def ferryTimeout (n : Nat) (d : Dev) : Dev :=
  match d.fab.ferries.find? fun x => x.id = n with
  | some x => ferryFail x 6 d
  | none => d
def execFerryTimeout (ferry : Nat) (s : State) : Out := run (ferryTimeout ferry) s

end Sys2Proof.Machine
end

