-- ==== Sys2Proof/Machine/Tenants.lean ====
section
/-! DEFINITION. Tenant slots and keys (R365, R366), the scrub between tenants (R378, R379, R464), lifecycle and authorisations
(R355, R361), enrolment (R361), the audit ring (R372, R373). -/

namespace Sys2Proof.Machine

/-- An audited command is refused while fewer than 16 records are free (R373). -/
def audited (code action : Nat) (id : W32) (sid : Option Nat) (act : Dev → Dev) (d : Dev) : Dev :=
  if auditShort 16 d then reply sid code id refusedNow true [] (auditRefuse action d) else act d

/-! Assignment (R365, R366). -/

/-- The serial of a key import blob, its tenant, its wrapped key. -/
def blobBad (t : Nat) (b : Bytes) (d : Dev) : Nat :=
  if fld b 0 4 ≠ 0x59454B54 then 1
  else if fld b 4 8 ≠ d.sec.serial.toNat ∨ fld b 12 1 ≠ t then 2
  else if (Config.unwrapKey d.sec.seed (b.drop 16)).isNone then 4 else 0

/-- The function of an Assigned slot is ready from serving onward (R301). -/
def slotReady (t : Nat) (d : Dev) : Dev := setFn t { getFn d t with ready := decide (d.pwr.mode = 3 ∧ slotState d t = 1) } d

/-- ASSIGN_TENANT: the assignment completes when the key is Active. -/
def assignTenant (id : W32) (t source : Nat) (blob : Bytes) (sid : Option Nat) (d : Dev) : Dev :=
  let no := fun (reason : Nat) => reply sid 0x60 id refusedNow true [] (audit sid 0x13 0 uDevice t 0 (slotRefuse t reason d))
  let yes := fun (key : Bytes) (x : Dev) =>
    let y := slotReady t (setSlot t 1 (keyActive t source key (audit sid (0x10 + source) 0 uDevice t 0 x)))
    reply sid 0x60 id done true (toLe 4 (sGet {} y.sec.keys t).check.toNat) y
  if d.sec.lifecycle = 0 ∨ d.sec.lifecycle = 3 then reply sid 0x60 id refusedNow true [] d
  else if slotState d t ≠ 0 then no 3
  else if source = 0 then (let r := drbg 32 d; yes r.1 r.2)
  else if blobBad t blob d ≠ 0 then no (blobBad t blob d)
  else yes (padTo 32 ((Config.unwrapKey d.sec.seed (blob.drop 16)).getD [])) d

def execAssignTenant (mc : MgmtCmd) (slot source : Nat) (blob : Bytes) (s : State) : Out :=
  run (mgmtGate mc 0x60 0 .lantern
    (decide (1 ≤ slot ∧ slot ≤ 63 ∧ source ≤ 1) && (decide (source = 0) || (decide (blob.length = 145) && zeros blob 13 3)))
    fun sid => audited 0x60 (0x10 + source) mc.id sid (assignTenant mc.id slot source blob sid)) s

/-! The scrub. -/

/-- Held entries of a scrubbed function: token and pause entries go with their data, which has not been written; a final entry carries
TENANT_SCRUBBING and covers only what earlier entries have written (R296, R378, "Coinciding events" of the host interface). -/
def scrubHeld (hs : List HeldEnt) (e : HeldEnt) : Option HeldEnt :=
  let kind := fld e.entry 6 1
  match e.ctx with
  | none => some e
  | some i =>
    if kind ≠ 1 then none else
      let b := ((hs.find? fun h => h.ctx = some i).getD e).before
      some { e with
        entry := e.entry.take 4 ++ toLe 2 0x6002 ++ [1, 0] ++ (e.entry.drop 8).take 4 ++ toLe 4 b.1 ++ toLe 4 b.2.1 ++ toLe 4 b.2.2
          ++ toLe 4 0xFFFFFFFF ++ e.entry.drop 28
        data := [], before := b }

/-- The request whose entry is dropped has been given only what is written. -/
def scrubBack (hs : List HeldEnt) (d : Dev) : Dev :=
  hs.reverse.foldl (fun x h => match h.ctx with
    | some i => if fld h.entry 6 1 = 0 then
        modCtx i (fun c => { c with generated := h.before.1, idsUsed := h.before.2.1, bytesUsed := h.before.2.2 }) x else x
    | none => x) d

def scrubHolds (t : Nat) (d : Dev) : Dev :=
  (List.range 16).foldl (fun x n =>
    let q := getCq x t n
    let mine : Nat × Nat × HeldEnt → Bool := fun e => decide (e.1 = t ∧ e.2.1 = n)
    let all := q.held ++ (x.hif.late.filter mine).map (·.2.2)
    let y := scrubBack all (setCq t n { q with held := q.held.filterMap (scrubHeld all) } x)
    { y with hif.late := y.hif.late.filterMap fun e =>
        if mine e then (scrubHeld all e.2.2).map fun h => (e.1, e.2.1, h) else some e }) d

/-- Step 1 begins (R379): the mark is written, the slot is Scrubbing, loads and commands of the tenant end. Its requests end at
the sailing end. -/
def scrubBegin (t : Nat) (sid : Option Nat) (id : W32) (d : Dev) : Dev :=
  let d1 := setSlot t 2 { d with sec.marks := d.sec.marks ++ [t] }
  let d2 := secEv 0x700B 2 0 [(16, 1, t)] (audit sid 0x20 0 uDevice t 0 d1)
  let rep := match sid with
    | some n => some (n, id)
    | none => none
  if d.pwr.mode ≠ 3 then { d2 with sec.scrubs := d2.sec.scrubs ++ [{ slot := t, startUs := d.time.stampUs, reply := rep }] }
  else
    let waits := decide ((d.sec.scrubs.countP fun s => !s.waits) ≥ 4)
    let d3 := (d2.plc.loads.filter fun l => l.tenant = t).foldl (fun x l => loadFail l 0x6002 0xFFFFFFFF x) d2
    let d4 := endCmds (fun c => modelOwner d2 c.model == some t) 0x6002 d3
    scrubHolds t { d4 with sec.scrubs := d4.sec.scrubs ++ [{ slot := t, waits := waits, startUs := d.time.stampUs, reply := rep }] }

/-- RELEASE_TENANT: the final response comes at the end of the scrub. -/
def releaseTenant (id : W32) (t : Nat) (sid : Option Nat) (d : Dev) : Dev :=
  let no := fun (reason : Nat) => reply sid 0x61 id refusedNow true [] (audit sid 0x13 0 uDevice t 0 (slotRefuse t reason d))
  if t = 0 then no 5
  else if slotState d t ≠ 1 then no 3
  else scrubBegin t sid id (reply sid 0x61 id accepted false [] (addPend sid { id := id, code := 0x61 } d))

def execReleaseTenant (mc : MgmtCmd) (slot : Nat) (s : State) : Out :=
  run (mgmtGate mc 0x61 0 .lantern (decide (slot ≤ 63)) fun sid => audited 0x61 0x20 mc.id sid (releaseTenant mc.id slot sid)) s

/-- Work of a tenant in flight: live requests, array and attention calls. A context in Ending has no work left. -/
def tenantBusy (d : Dev) (t : Nat) : Bool :=
  d.srv.ctxs.any (fun c => decide (c.2.tenant = t ∧ 1 ≤ c.2.state ∧ c.2.state ≤ 5)) || d.arr.calls.any (fun c => decide (c.tenant = t))
    || d.att.calls.any fun a => match getCtx d a.ctx with
      | some c => decide (c.tenant = t)
      | none => false

/-- Step 2: the key slot is zeroised and its wrapped copy overwritten. -/
def scrubKey (t : Nat) (d : Dev) : Dev := { d with sec.keys := sDel d.sec.keys t }

/-- Handles of a tenant. -/
def tenantHandles (d : Dev) (t : Nat) : List Nat := (d.arr.handles.filter fun h => decide (h.2.tenant = t ∧ h.2.rowSegs ≠ 0)).map (·.1)

/-- Step 3: the tenant's region and its records in the operator region are zero; golden places stay until step 4. -/
def scrubHbm (t : Nat) (d : Dev) : Dev :=
  let hs := tenantHandles d t
  let d1 := hs.foldl (fun x i => let h := getHandle x i
                                 setHandle i { goldenAt := h.goldenAt, goldenHdr := h.goldenHdr, freedEpoch := 1 } x) d
  { d1 with
    hbm := d1.hbm.filter fun c => decide (c.1 / 2 ^ 48 ≠ t)
    att.prefixes := d1.att.prefixes.filter fun p => decide (p.2.tenant ≠ t)
    att.adapters := d1.att.adapters.filter fun a => decide (a.2.tenant ≠ t)
    srv.variants := d1.srv.variants.filter fun v => decide (fld v.2 6 1 ≠ t)
    srv.ctxs := d1.srv.ctxs.filter fun c => decide (c.2.tenant ≠ t) }

/-- Planes that hold segments of a tenant, and whether they hold others' too. -/
def tenantPlanes (d : Dev) (t : Nat) : List (Nat × Bool) :=
  (d.arr.planes.filter fun p => p.2.segs.any fun s => decide (s.2.tenant = t)).map fun p =>
    (p.1, p.2.segs.any fun s => decide (s.2.tenant ≠ t))

/-- A plane without others' segments is erased; a shared one is refreshed with content that omits the tenant's. A refresh that
runs already completes first. -/
def scrubPlane (t : Nat) (e : Nat × Bool) (d : Dev) : Dev :=
  let pid := e.1
  if (sFind d.arr.refreshes pid).isSome || (shadowFor d pid).isSome then d
  else
    let strip := modPlane pid (fun p => { p with segs := p.segs.filter fun s => decide (s.2.tenant ≠ t) }) d
    if e.2 then
      let d1 := beginRefresh pid (planeTo 1 5 pid strip)
      { d1 with sec.scrubs := d1.sec.scrubs.map fun s => if s.slot = t then { s with shared := s.shared ++ [pid] } else s }
    else freePlane pid (modPlane pid (fun p => { p with programs := min 65535 (p.programs + 1) }) strip)

def scrubPlanes (t : Nat) (d : Dev) : Dev := (tenantPlanes d t).foldl (fun x e => scrubPlane t e x) d

/-- Golden records of the tenant are freed and its generations retired, one 9007h of cause 9 for each state change (R464). -/
def scrubGens (t : Nat) (d : Dev) : Dev :=
  let d1 := d.arr.handles.foldl (fun x h =>
    if h.2.rowSegs ≠ 0 || h.2.goldenAt.isEmpty then x
    else setHandle h.1 { freedEpoch := h.2.freedEpoch } ((h.2.goldenAt.map (·.1)).foldl (fun y s => storeRelease h.1 s y) x)) d
  (d1.plc.gens.filter fun g => g.2.owner = t).foldl (fun x g =>
    let m := BitVec.ofNat 16 (g.1 / 65536)
    let n := BitVec.ofNat 16 (g.1 % 65536)
    let st := g.2.state
    let x1 := if 1 ≤ st ∧ st ≤ 4 then genTo m n 5 9 x else x
    let x2 := if st ≤ 5 then genTo m n 6 9 x1 else x1
    let x3 := pushHook { hook := 2, model := m, gen := n, layer := 0xFFFF, arg := 6 } x2
    modelSettle m { x3 with plc.gens := sDel x3.plc.gens g.1, plc.drains := sDel x3.plc.drains g.1 }) d1

/-- Step 4 is complete: no plane holds the tenant's segments, and no refresh of a shared one runs. -/
def planesClean (d : Dev) (s : ScrubSt) : Bool :=
  (tenantPlanes d s.slot).isEmpty && !(s.shared.any fun p => (sFind d.arr.refreshes p).isSome)

/-- Step 5: kernel SRAM and registers of the tenant's cores, also halted ones, and pipeline SRAM that held its data are zero. -/
def scrubSram (t : Nat) (d : Dev) : Dev :=
  { d with grid.cores := sMap {} (fun _ c =>
      if c.tenant.toNat ≠ t then c else { c with
        s := [], v := [], acc := [], mma := [], p := [], ctx := [], epoch := 0, sram := c.sram.filter fun b => decide (b.1 < sramLo)
        tenant := 0, trace := [] }) d.grid.cores
           att.pipes := sMap {} (fun _ p => if p.sram.tenant ≠ t then p else { p with sram := {} }) d.att.pipes }

/-- Step 6: Unassigned, the window discarded, the mark cleared, 700Ch. -/
def scrubEnd (t : Nat) (us : Nat) (sid : Option Nat) (d : Dev) : Dev :=
  let f := getFn d t
  let d1 := setFn t { f with evtWcnt := 0, evtRcnt := 0, evtRecs := [], ready := false } (setSlot t 0 d)
  secEv 0x700C 1 0 [(16, 1, t), (20, 4, us)]
    (audit sid 0x21 0 uDevice t 0 { d1 with sec.marks := d1.sec.marks.erase t, sec.scrubs := d1.sec.scrubs.filter fun s => s.slot ≠ t })

def setScrub (x : ScrubSt) (d : Dev) : Dev := { d with sec.scrubs := d.sec.scrubs.map fun s => if s.slot = x.slot then x else s }

/-- The oldest waiting scrub takes a place that is free. -/
def scrubPlace (d : Dev) : Dev :=
  if (d.sec.scrubs.countP fun s => !s.waits) ≥ 4 then d
  else match d.sec.scrubs.find? (·.waits) with
    | none => d
    | some s => setScrub { s with waits := false, step := if s.fenced then 2 else 1 } d

/-- SCRUB_STEP_COMPLETE (R378, R379, R464). -/
def scrubStep (t : Nat) (d : Dev) : Dev :=
  if d.pwr.mode ≠ 3 then d else
  match d.sec.scrubs.find? fun s => s.slot = t with
  | none => d
  | some s =>
    match s.step with
    | 1 => if tenantBusy d t then d else setScrub { s with fenced := true, step := if s.waits then 1 else 2 } d
    | 2 => setScrub { s with step := 3 } (scrubKey t d)
    | 3 => scrubPlanes t (scrubHbm t (setScrub { s with step := 4 } d))
    | 4 =>
      let d1 := scrubPlanes t d
      if planesClean d1 ((d1.sec.scrubs.find? fun x => x.slot = t).getD s) then
        scrubGens t { d1 with sec.scrubs := d1.sec.scrubs.map fun x => if x.slot = t then { x with step := 5 } else x }
      else d1
    | 5 => setScrub { s with step := 6 } (scrubSram t d)
    | _ =>
      let d1 := scrubPlace (scrubEnd t (d.time.stampUs - s.startUs).toNat (s.reply.map (·.1)) d)
      match s.reply with
      | some (n, id) => reply (some n) 0x61 id done true [] d1
      | none => d1

def execScrubStepComplete (slot : FnIx) (s : State) : Out := run (scrubStep slot.val) s

/-- A start finishes the scrubs whose marks it finds (R379): keys at step 8, planes and generations at step 10. -/
def startScrubKeys (d : Dev) : Dev := d.sec.marks.foldl (fun x t => scrubKey t x) d

def startScrubs (d : Dev) : Dev :=
  d.sec.marks.foldl (fun x t =>
    let y := (tenantPlanes x t).foldl (fun z e =>
      let w := modPlane e.1 (fun p => { p with programs := min 65535 (p.programs + 1), segs := p.segs.filter fun s => decide (s.2.tenant ≠ t) }) z
      if e.2 then w else freePlane e.1 w) (scrubHbm t x)
    let g := scrubGens t y
    match d.sec.scrubs.find? fun s => s.slot = t with
    | some s =>
      let z := scrubEnd t (d.time.stampUs - s.startUs).toNat (s.reply.map (·.1)) g
      match s.reply with
      | some (n, id) => reply (some n) 0x61 id done true [] z
      | none => z
    | none =>
      let r := fresh 32 g
      scrubEnd t r.1.toNat none r.2) d

/-! Lifecycle (R355). -/

def lifeEv (old new_ reason : Nat) (d : Dev) : Dev := secEv 0x700D 3 0 [(16, 1, old), (17, 1, new_), (18, 1, reason)] d

/-- Slots 1–63 that are Assigned. -/
def assignedSlots (d : Dev) : List Nat := ((List.range 63).map (· + 1)).filter fun t => slotState d t = 1

/-- Entry to Returned: every tenant is scrubbed, every key destroyed, every golden record freed; slot 0 has a new key. -/
def enterReturned (sid : Option Nat) (id : W32) (d : Dev) : Dev :=
  let d1 := (assignedSlots d).foldl (fun x t => scrubBegin t none id x) d
  let d2 := d1.arr.handles.foldl (fun x h =>
    let y := (h.2.goldenAt.map (·.1)).foldl (fun z s => storeRelease h.1 s z) x
    setHandle h.1 { getHandle y h.1 with golden := [], goldenAt := [] } y) d1
  let d3 := (List.range 63).foldl (fun x i => setFn (i + 1) { getFn x (i + 1) with ready := false } x) { d2 with sec.keys := [] }
  let r := drbg 32 d3
  reply sid 0x81 id done true [] (keyActive 0 0 r.1 r.2)

/-- LIFECYCLE: the audit record is written before the fuse is blown. -/
def lifecycleCmd (id : W32) (target : Nat) (auth : Bytes) (sid : Option Nat) (d : Dev) : Dev :=
  let old := d.sec.lifecycle
  let no := fun (reason : Nat) (x : Dev) => reply sid 0x81 id refusedNow true [] (audit sid 0x19 0 uDevice 0 0 (lifeEv old target reason x))
  let go := fun (x : Dev) => lifeEv old target 0 { audit sid 0x19 0 uDevice 0 0 x with sec.lifecycle := target }
  if target = 2 ∧ old = 1 then reply sid 0x81 id done true [] (go d)
  else if target = 3 ∧ (old = 1 ∨ old = 2) then
    if auditShort (16 + 2 * (assignedSlots d).length) d then reply sid 0x81 id refusedNow true [] (auditRefuse 0x19 d)
    else
      let r := authOk 0 auth d
      if r.1 then enterReturned sid id (go r.2) else no 2 r.2
  else no 1 d

def execLifecycle (mc : MgmtCmd) (target : Nat) (auth : Bytes) (s : State) : Out :=
  run (mgmtGate mc 0x81 0 .lantern (decide ((target = 2 ∨ target = 3) ∧ auth.length = 64))
    fun sid => audited 0x81 0x19 mc.id sid (lifecycleCmd mc.id target auth sid)) s

/-- PROVISION (R355): over SMBus a Blank device draws its seed, takes the Skelren certificate and exports its certificate
request. -/
def provision (cert : Bytes) (d : Dev) : Dev :=
  if d.pwr.mode = 0 then d
  else if d.sec.lifecycle ≠ 0 then audit none 0x19 0 uDevice 0 0 (lifeEv d.sec.lifecycle 1 1 d)
  else
    let r := drbg 32 (audit none 0x19 0 uDevice 0 0 d)
    let d1 := lifeEv 0 1 0 { r.2 with sec.seed := r.1, sec.cert := cert, sec.lifecycle := 1 }
    emit (.smbus (Config.certDer 4 [] r.1 [])) d1

def execProvision (cert : Bytes) (s : State) : Out := run (provision cert) s

/-- REQUEST_NONCE. -/
def execRequestNonce (mc : MgmtCmd) (action : W8) (s : State) : Out :=
  run (mgmtGate mc 0x80 0 .lantern true fun sid d =>
    let r := issueNonce action.toNat d
    reply sid 0x80 mc.id done true r.1 r.2) s

/-- SEC_MBOX (R361): the first write of a delivery issues a nonce; 64 bytes later the authorisation is checked, and an accepted one
clears the enrolment table. -/
def mboxWrite (v : W64) (d : Dev) : Dev :=
  if d.sec.mboxStat ≠ 3 then
    let r := issueNonce (Config.actionCode 2) d
    { r.2 with sec.mboxStat := 3, sec.mboxNonce := r.1, sec.mbox := [] }
  else
    let b := d.sec.mbox ++ toLe 8 v.toNat
    if b.length < 64 then { d with sec.mbox := b }
    else
      let r := authOk 2 b { d with sec.mbox := [] }
      if r.1 && !auditShort 16 r.2 then
        let d1 := audit none 0x18 0 uDevice 0 0 r.2
        let d2 := (d1.sec.sessions.map (·.1)).foldl (fun x n => sessClose n 4 x) d1
        secEv 0x7005 1 0 [(16, 1, 0), (17, 1, 5)] { d2 with sec.enrol := [], sec.mboxStat := 1 }
      else { (if r.1 then auditRefuse 0x18 r.2 else r.2) with sec.mboxStat := 2 }

def execSecMboxWrite (v : W64) (s : State) : Out := run (onFn 0 (mboxWrite v)) s

/-- SEC_SLOT_QUERY. -/
def execSecSlotQuery (v : W32) (s : State) : Out := run (fun d => { d with sec.query := v.truncate 6, sec.queryValid := true }) s

/-! Enrolment (R361). -/

def adminLeft (m : Store EnrolEnt) : Bool := m.any fun e => e.2.role = 0

/-- Sessions of an enrolment index close. -/
def closeKey (idx : Nat) (d : Dev) : Dev :=
  ((d.sec.sessions.filter fun s => decide (s.2.idx = idx) && s.2.target.isNone).map (·.1)).foldl (fun x n => sessClose n 4 x) d

/-- A change of the table: refused when it would leave no administrator, else recorded and reported; `close` ends the key's
sessions at once, after the answer. -/
def enrolChange (code : Nat) (id : W32) (idx kind : Nat) (m : Store EnrolEnt) (close : Bool) (sid : Option Nat) (d : Dev) : Dev :=
  let d0 := audit sid 0x18 0 uDevice 0 0 d
  if !adminLeft m then reply sid code id refusedNow true [] (secEv 0x7005 1 0 [(16, 1, idx), (17, 1, 2)] d0)
  else
    let d1 := secEv 0x7005 1 0 [(16, 1, idx), (17, 1, kind)] { d0 with sec.enrol := m }
    let d2 := reply sid code id done true [] d1
    if close then closeKey idx d2 else d2

/-- ADD_KEY. -/
def execAddKey (mc : MgmtCmd) (idx role : Nat) (key label : Bytes) (s : State) : Out :=
  run (mgmtGate mc 0x70 0 .lantern (decide (idx ≤ 7 ∧ role ≤ 2 ∧ key.length = 64 ∧ label.length = 16))
    fun sid => audited 0x70 0x18 mc.id sid fun d =>
      let was := (sFind d.sec.enrol idx).isSome
      enrolChange 0x70 mc.id idx 1 (sSet d.sec.enrol idx ⟨key, role, label⟩) was sid d) s

/-- REMOVE_KEY. -/
def execRemoveKey (mc : MgmtCmd) (idx : Nat) (s : State) : Out :=
  run (mgmtGate mc 0x71 0 .lantern (decide (idx ≤ 7))
    fun sid => audited 0x71 0x18 mc.id sid fun d =>
      if (sFind d.sec.enrol idx).isNone then reply sid 0x71 mc.id badArgs true [] d
      else enrolChange 0x71 mc.id idx 3 (sDel d.sec.enrol idx) true sid d) s

/-- CHANGE_ROLE: a demotion closes the key's sessions; a promotion reaches them. -/
def execChangeRole (mc : MgmtCmd) (idx role : Nat) (s : State) : Out :=
  run (mgmtGate mc 0x72 0 .lantern (decide (idx ≤ 7 ∧ role ≤ 2))
    fun sid => audited 0x72 0x18 mc.id sid fun d =>
      match sFind d.sec.enrol idx with
      | none => reply sid 0x72 mc.id badArgs true [] d
      | some e =>
        let m := sSet d.sec.enrol idx { e with role := role }
        let d1 := enrolChange 0x72 mc.id idx 4 m (decide (role > e.role)) sid d
        if role ≥ e.role ∨ !adminLeft m then d1 else
          { d1 with sec.sessions := d1.sec.sessions.map fun x => if x.2.idx = idx ∧ x.2.target.isNone then (x.1, { x.2 with role := role }) else x }) s

/-- The table as eight entries of 81 bytes. -/
def enrolBytes (d : Dev) : Bytes :=
  (List.range 8).flatMap fun i => match sFind d.sec.enrol i with
    | some e => padTo 64 e.key ++ toLe 1 e.role ++ padTo 16 e.label
    | none => List.replicate 81 0

/-- READ_ENROLMENT. -/
def execReadEnrolment (mc : MgmtCmd) (s : State) : Out :=
  run (mgmtGate mc 0x73 2 .lantern true fun sid d => reply sid 0x73 mc.id done true (enrolBytes d) d) s

/-! Audit. -/

/-- Sequence of the oldest record kept. -/
def auditFirst (d : Dev) : Nat := d.sec.auditSeq.toNat - d.sec.audit.length

/-- READ_AUDIT. -/
def execReadAudit (mc : MgmtCmd) (first count : Nat) (s : State) : Out :=
  run (mgmtGate mc 0x62 2 .lantern (decide (1 ≤ count ∧ count ≤ 127)) fun sid d =>
    let n := first - auditFirst d
    reply sid 0x62 mc.id done true ((d.sec.audit.drop n).take count).flatten d) s

/-- ACKNOWLEDGE_AUDIT: records up to the sequence are freed. -/
def execAcknowledgeAudit (mc : MgmtCmd) (seq : W64) (s : State) : Out :=
  run (mgmtGate mc 0x63 1 .lantern true fun sid d =>
    reply sid 0x63 mc.id done true [] { d with sec.audit := d.sec.audit.drop (seq.toNat + 1 - auditFirst d) }) s

/-- READ_CERTIFICATE: a Blank device has no identity. -/
def execReadCertificate (mc : MgmtCmd) (which : Nat) (s : State) : Out :=
  run (mgmtGate mc 0x91 2 .lantern (decide (which ≤ 3)) fun sid d =>
    if d.sec.lifecycle = 0 then reply sid 0x91 mc.id refusedNow true [] d
    else replyLong sid 0x91 mc.id (Config.certDer which d.sec.cert d.sec.seed (runDigest d 1)) d) s

end Sys2Proof.Machine
end

