-- ==== Sys2Proof/Machine/Watch.lean ====
section
/-! DEFINITION. The watch processor (R417–R423): each command is one instruction of the program that runs. -/

namespace Sys2Proof.Machine

/-- The program that runs: the default one or the operator's. -/
def watchProg (w : WatchSt) : List W16 := if w.mode = 2 then w.prog else w.dflt

/-- Start a program at address 0 with registers, flags and data memory 0; outputs keep their duty. -/
def watchStart (mode : Nat) (w : WatchSt) : WatchSt :=
  { w with
    mode := mode, w := [], z := false, n := false, c := false, pc := 0, data := [], waiting := none, latched := 0, ended := 0
    conv := none, convWait := none, timerMs := 0, stopAsked := false, next := none }

/-- Put a waiting program in place (R420, R421): 0 default, 1 operator program with note 0002h, 2 the stopped one. A program that
ends safe mode ends its sequence. -/
def watchTake (kind : Nat) (p : List W16) (d : Dev) : Dev :=
  let w := d.lmp.watch
  adcFollow d <| match kind with
  | 0 => if w.mode = 2 then { d with lmp.watch := { w with dflt := p } } else { d with lmp.watch := watchStart 1 { w with dflt := p } }
  | 1 => note 0x0002 1 0 (BitVec.ofNat 32 p.length)
      { d with lmp.watch := watchStart 2 { w with prog := p, loaded := true, stopped := false } }
  | _ => { d with lmp.watch := watchStart 2 { w with stopped := false } }

/-- The requests of a program that ends keep their places; their codes reach no register. -/
def convOrphan (a : AdcSt) : AdcSt :=
  let f : UrgentBy → UrgentBy := fun b => match b with
    | .register => .register
    | .program | .gone => .gone
  { a with urgent := a.urgent.map fun u => (u.1, f u.2), cur := a.cur.map fun c => { c with urgent := c.urgent.map f } }

/-- A program fault (R421): the operator program stops and the default restarts; a default program's fault is safe mode. A
program that waits to be loaded starts at once. -/
def watchFault (cause : Nat) (d : Dev) : Dev :=
  let w := d.lmp.watch
  let value := BitVec.ofNat 32 (w.pc % 4096 + cause * 4096)
  let w1 := { w with faulted := true, cause := cause }
  let w2 := if w.mode = 2 then watchStart 1 { w1 with stopped := true } else watchStart 0 w1
  let d1 := adcFollow d (note 0x0001 3 (if w.mode = 2 then 2 else 1) value { d with lmp.watch := w2, lmp.duty := [], adc := convOrphan d.adc })
  match w.next with
  | some (k, p) => watchTake k p d1
  | none => d1

/-- Run one instruction: only of a program that runs and does not wait; a non-zero unused field is fault 1. -/
def watchRun (legal : Bool) (f : WatchSt → Dev → Dev) (d : Dev) : Dev :=
  let w := d.lmp.watch
  if w.mode = 0 || w.waiting.isSome || w.conv.isSome then d
  else if !legal then watchFault 1 d else f w d

def wr (w : WatchSt) (i : Fin 8) : W16 := sGet 0 w.w i
def wput (i : Fin 8) (v : W16) (w : WatchSt) : WatchSt := { w with w := sPut 0 w.w i v }
def watchSet (w : WatchSt) (d : Dev) : Dev := { d with lmp.watch := { w with pc := w.pc + 1 } }

/-- An ALU instruction: result and carry. -/
def watchAlu (r : Fin 8) (v : W16) (c : Bool) (w : WatchSt) (d : Dev) : Dev := watchSet (watchFlags v c (wput r v w)) d

/-- WATCH_ADD. -/
def execWatchAdd (d a b : Fin 8) (s : State) : Out :=
  run (watchRun true fun w x =>
    watchAlu d (wr w a + wr w b) (decide ((wr w a).toNat + (wr w b).toNat ≥ 65536)) w x) s
/-- WATCH_SUB: C is 1 when a < b unsigned. -/
def execWatchSub (d a b : Fin 8) (s : State) : Out :=
  run (watchRun true fun w x => watchAlu d (wr w a - wr w b) (decide ((wr w a).toNat < (wr w b).toNat)) w x) s
/-- WATCH_AND. -/
def execWatchAnd (d a b : Fin 8) (s : State) : Out := run (watchRun true fun w x => watchAlu d (wr w a &&& wr w b) false w x) s
/-- WATCH_OR. -/
def execWatchOr (d a b : Fin 8) (s : State) : Out := run (watchRun true fun w x => watchAlu d (wr w a ||| wr w b) false w x) s
/-- WATCH_XOR. -/
def execWatchXor (d a b : Fin 8) (s : State) : Out := run (watchRun true fun w x => watchAlu d (wr w a ^^^ wr w b) false w x) s

/-- Shift count wb & 15. -/
def wsh (w : WatchSt) (b : Fin 8) : Nat := (wr w b).toNat % 16

/-- WATCH_SHL: C is the last bit shifted out. -/
def execWatchShl (d a b : Fin 8) (s : State) : Out :=
  run (watchRun true fun w x =>
    let n := wsh w b
    watchAlu d (wr w a <<< n) (decide (n > 0) && (wr w a).getLsbD (16 - n)) w x) s
/-- WATCH_SHR. -/
def execWatchShr (d a b : Fin 8) (s : State) : Out :=
  run (watchRun true fun w x =>
    let n := wsh w b
    watchAlu d (wr w a >>> n) (decide (n > 0) && (wr w a).getLsbD (n - 1)) w x) s
/-- WATCH_SRA. -/
def execWatchSra (d a b : Fin 8) (s : State) : Out :=
  run (watchRun true fun w x =>
    let n := wsh w b
    watchAlu d ((wr w a).sshiftRight n) (decide (n > 0) && (wr w a).getLsbD (n - 1)) w x) s

/-- WATCH_ADDI. -/
def execWatchAddi (d a : Fin 8) (imm : BitVec 6) (s : State) : Out :=
  run (watchRun true fun w x =>
    let i : W16 := imm.signExtend 16
    watchAlu d (wr w a + i) (decide ((wr w a).toNat + i.toNat ≥ 65536)) w x) s

/-- WATCH_LDI. -/
def execWatchLdi (d : Fin 8) (imm : BitVec 9) (s : State) : Out :=
  run (watchRun true fun w x => watchSet (wput d (imm.zeroExtend 16) w) x) s
/-- WATCH_LUI: wd = (wd & 01FFh) | (imm7 << 9). -/
def execWatchLui (d : Fin 8) (z : BitVec 2) (imm : BitVec 7) (s : State) : Out :=
  run (watchRun (decide (z = 0)) fun w x =>
    watchSet (wput d ((wr w d &&& 0x01FF) ||| (imm.zeroExtend 16 <<< 9)) w) x) s

/-- Device state of F0B1h. The table names no state for recovery mode, which reads as the states without a serving device: DESIGN
CHOICE (log entry 197). -/
def devState (d : Dev) : Nat :=
  match d.pwr.mode with
  | 2 => 1
  | 3 => 2
  | _ => if d.pwr.tripped && decide (d.time.stampUs < d.pwr.tripUs + 30000000) then 3 else 0

/-- Signed margin of the region nearest its throttle point. -/
def thermalMargin (d : Dev) : Int := let r := hottestRegion d; 4 * (throttlePoint d r : Int) - (getRegion d r).temp

/-- An I/O word (table of R419); none where nothing is mapped. -/
def watchIo (d : Dev) (a : Nat) : Option W16 :=
  let n := a - 0xF000
  let num : Nat → Option W16 := fun v => some (BitVec.ofNat 16 v)
  if a < 0xF000 then none
  else if n < 0x18 then some (sGet {} d.adc.res n).filt
  else if 0x20 ≤ n ∧ n < 0x38 then some (sGet {} d.adc.res (n - 0x20)).raw
  else if 0x40 ≤ n ∧ n < 0x58 then num (sGet {} d.adc.res (n - 0x40)).win
  else if 0x60 ≤ n ∧ n < 0x79 then num (wrap 16 (getRegion d (n - 0x60)).temp)
  else if n = 0x80 then num (wrap 16 (thermalMargin d))
  else if n = 0x81 then num (hottestRegion d)
  else if n = 0x90 then some d.lmp.rpm
  else if n = 0x91 ∨ n = 0x92 then num (dutyOf d (n - 0x91))
  else if n = 0xA0 then num d.time.stampUs.toNat
  else if 0xA1 ≤ n ∧ n < 0xA4 then num (d.lmp.watch.stampLatch.toNat / 2 ^ (16 * (n - 0xA0)))
  else if n = 0xB0 then num d.lmp.watch.ended.toNat
  else if n = 0xB1 then num (devState d)
  else if 0x100 ≤ n ∧ n < 0x268 then num (wrap 16 (sGet {} d.lmp.sensors (n - 0x100)).used)
  else none

/-- Address of a load or store. -/
def watchAddr (w : WatchSt) (a : Fin 8) (imm : BitVec 6) : Nat := (wr w a + imm.signExtend 16).toNat

/-- WATCH_LD: a load outside data memory and the mapped words is fault 2; F0A0h latches the stamp's other words. -/
def execWatchLd (d a : Fin 8) (imm : BitVec 6) (s : State) : Out :=
  run (watchRun true fun w x =>
    let ad := watchAddr w a imm
    if ad < 512 then let v := sGet 0 w.data ad; watchSet (watchFlags v false (wput d v w)) x
    else match watchIo x ad with
      | none => watchFault 2 x
      | some v =>
        let w1 := if ad = 0xF0A0 then { w with stampLatch := x.time.stampUs } else w
        watchSet (watchFlags v false (wput d v w1)) x) s

/-- WATCH_ST: a store outside data memory, to I/O included, is fault 2. -/
def execWatchSt (d a : Fin 8) (imm : BitVec 6) (s : State) : Out :=
  run (watchRun true fun w x =>
    let ad := watchAddr w a imm
    if ad < 512 then watchSet { w with data := sPut 0 w.data ad (wr w d) } x else watchFault 2 x) s

/-- Jump to an instruction: outside the program it is fault 2. -/
def watchJump (t : Int) (w : WatchSt) (d : Dev) : Dev :=
  if 0 ≤ t ∧ t < (watchProg w).length then { d with lmp.watch := { w with pc := t.toNat } } else watchFault 2 d

/-- A branch on a condition, relative to the next instruction. -/
def watchBranch (cond : WatchSt → Bool) (off : BitVec 9) (s : State) : Out :=
  run (watchRun true fun w x => if cond w then watchJump ((w.pc : Int) + 1 + off.toInt) w x else watchSet w x) s

/-- WATCH_B. -/
def execWatchB (off : BitVec 9) (s : State) : Out := watchBranch (fun _ => true) off s
/-- WATCH_B_Z. -/
def execWatchBZ (off : BitVec 9) (s : State) : Out := watchBranch (·.z) off s
/-- WATCH_B_NZ. -/
def execWatchBNz (off : BitVec 9) (s : State) : Out := watchBranch (fun w => !w.z) off s
/-- WATCH_B_N. -/
def execWatchBN (off : BitVec 9) (s : State) : Out := watchBranch (·.n) off s
/-- WATCH_B_NN. -/
def execWatchBNn (off : BitVec 9) (s : State) : Out := watchBranch (fun w => !w.n) off s
/-- WATCH_B_C. -/
def execWatchBC (off : BitVec 9) (s : State) : Out := watchBranch (·.c) off s
/-- WATCH_B_NC. -/
def execWatchBNc (off : BitVec 9) (s : State) : Out := watchBranch (fun w => !w.c) off s

/-- WATCH_CALL: w7 = return address. -/
def execWatchCall (off : BitVec 9) (s : State) : Out :=
  run (watchRun true fun w x => watchJump ((w.pc : Int) + 1 + off.toInt) (wput 7 (BitVec.ofNat 16 (w.pc + 1)) w) x) s
/-- WATCH_JR. -/
def execWatchJr (a : Fin 8) (z : BitVec 9) (s : State) : Out :=
  run (watchRun (decide (z = 0)) fun w x => watchJump ((wr w a).toNat : Int) w x) s

/-! WAIT. -/

/-- WATCH_WAIT: a waiting replacement or stop takes effect here; a latched source ends it at once. Mask 0 or a mask bit above 5
is illegal. -/
def execWatchWait (mask : BitVec 12) (s : State) : Out :=
  run (watchRun (decide (mask ≠ 0 ∧ mask.toNat < 64)) fun w x =>
    match w.next with
    | some (k, p) => watchTake k p x
    | none =>
      if w.stopAsked && decide (w.mode = 2) then { x with lmp.watch := watchStart 1 { w with stopped := true } }
      else
        let m : BitVec 6 := mask.truncate 6
        let e := m &&& w.latched
        if e ≠ 0 then watchSet { w with ended := e, latched := w.latched &&& ~~~e } x
        else { x with lmp.watch := { w with waiting := some m } }) s

/-- WATCH_WAIT_RETURN: the sources that fired, with those named, end the WAIT when one of them is masked. -/
def execWatchWaitReturn (src : BitVec 6) (s : State) : Out :=
  run (fun d =>
    let w := d.lmp.watch
    match w.waiting with
    | none => d
    | some m =>
      let e := m &&& (w.latched ||| src)
      if e = 0 then d else watchSet { w with waiting := none, ended := e, latched := w.latched &&& ~~~e } d) s

/-- WATCH_CONV: an urgent conversion of channel wa & 31; a full queue is waited for (R413). -/
def execWatchConv (d a : Fin 8) (z : BitVec 6) (s : State) : Out :=
  run (watchRun (decide (z = 0)) fun w x =>
    let ch := (wr w a).toNat % 32
    if x.adc.urgent.length ≥ 4 then { x with lmp.watch := { w with conv := some d.val, convWait := some ch } }
    else adcNext { x with lmp.watch := { w with conv := some d.val }, adc.urgent := x.adc.urgent ++ [(ch, UrgentBy.program)] }) s

/-! Actions (R418, R419, R422, R423). -/

/-- WATCH_NOTE: a code below 0100h becomes note 0008h. -/
def execWatchNote (a b : Fin 8) (z : BitVec 2) (s : State) : Out :=
  run (watchRun (decide (z = 0)) fun w x =>
    let code := wr w a
    let x1 := if code.toNat < 0x100 then note 0x0008 2 w.mode (BitVec.ofNat 32 ((wr w b).toNat + code.toNat * 65536)) x
      else note code (if code.toNat < 0x8000 then 1 else 3) w.mode ((wr w b).zeroExtend 32) x
    watchSet w x1) s

/-- WATCH_WAKE: a domain, or the device for 511; a reserved domain does nothing. -/
def execWatchWake (a b : Fin 8) (z : BitVec 2) (s : State) : Out :=
  run (watchRun (decide (z = 0 ∧ b = 0)) fun w x =>
    let n := (wr w a).toNat
    let x1 := if n = 511 then deviceWake 3 x
      else if n < 375 ∧ (x.pwr.mode = 2 ∨ x.pwr.mode = 3) then domWake n (wakeRecord 3 n x) else x
    watchSet w x1) s

/-- The power processor runs. -/
def powerRuns (d : Dev) : Bool := decide (d.pwr.mode = 2 ∨ d.pwr.mode = 3)

/-- LIMDN. -/
def execLimdn (a b : Fin 8) (z : BitVec 2) (s : State) : Out :=
  run (watchRun (decide (z = 0 ∧ a = 0 ∧ b = 0)) fun w x => watchSet w (if powerRuns x then limDown x else x)) s
/-- LIMUP. -/
def execLimup (a b : Fin 8) (z : BitVec 2) (s : State) : Out :=
  run (watchRun (decide (z = 0 ∧ a = 0 ∧ b = 0)) fun w x => watchSet w (if powerRuns x then limUp x else x)) s

/-- WATCH_TRIP: the trip of R400 with region FFh; the spec names no sensor or temperature for it: free values. -/
def execWatchTrip (a b : Fin 8) (z : BitVec 2) (s : State) : Out :=
  run (watchRun (decide (z = 0 ∧ a = 0 ∧ b = 0)) fun w x =>
    let f := fresh 8 x
    let g := fresh 16 f.2
    watchSet w (trip 0xFF f.1.toNat g.1.toNat g.2)) s

/-- A Lamplighter decision for standby, forced: during a start it waits until serving (R431). -/
def watchStandby (d : Dev) : Dev :=
  match d.pwr.mode with
  | 2 => { d with nor.standbyWaits := true }
  | 3 => standby 2 d
  | _ => { d with pwr.restartDue := false }

/-- STBY. -/
def execStby (a b : Fin 8) (z : BitVec 2) (s : State) : Out :=
  run (watchRun (decide (z = 0 ∧ a = 0 ∧ b = 0)) fun w x => watchSet w (watchStandby x)) s

/-- PWM: output wa & 1 takes duty min(wb, 1,024). -/
def execPwm (a b : Fin 8) (z : BitVec 2) (s : State) : Out :=
  run (watchRun (decide (z = 0)) fun w x =>
    watchSet w { x with lmp.duty := sSet x.lmp.duty ((wr w a).toNat % 2) (min 1024 (wr w b).toNat) }) s

/-- TMR: 0 stops the timer. -/
def execTmr (a b : Fin 8) (z : BitVec 2) (s : State) : Out :=
  run (watchRun (decide (z = 0 ∧ b = 0)) fun w x => watchSet { w with timerMs := (wr w a).toNat } x) s

/-- LIST: triggers a list pass. -/
def execActList (a b : Fin 8) (z : BitVec 2) (s : State) : Out :=
  run (watchRun (decide (z = 0 ∧ a = 0 ∧ b = 0)) fun w x => watchSet w (listTrigger x)) s

/-- WATCH_TIMER: the timer's period ends. -/
def execWatchTimer (s : State) : Out := run (fun d => if d.lmp.watch.timerMs = 0 then d else fireSource 0 d) s

/-- WATCH_WATCHDOG: 10 ms without WAIT is fault 3 (R417). -/
def execWatchWatchdog (s : State) : Out :=
  run (fun d => if d.lmp.watch.mode = 0 || d.lmp.watch.waiting.isSome then d else watchFault 3 d) s

/-! Program control (R420, R421). -/

/-- Load or restart a program: at the next WAIT of the running one, at once when none runs. -/
def watchQueue (kind : Nat) (p : List W16) (d : Dev) : Dev :=
  if d.lmp.watch.mode = 0 then watchTake kind p d else { d with lmp.watch.next := some (kind, p) }

/-- A default program is handed over: the running one at its next WAIT; beside an operator program only the retained copy
(R439). -/
def watchDefault (p : List W16) (d : Dev) : Dev := if d.lmp.watch.mode = 2 then watchTake 0 p d else watchQueue 0 p d

/-- PROG_CTL_START. -/
def progStart (d : Dev) : Dev := if d.lmp.watch.loaded && d.lmp.watch.stopped then watchQueue 2 d.lmp.watch.prog d else d

def execProgCtlStart (s : State) : Out := run progStart s

/-- PROG_CTL_STOP. -/
def progStop (d : Dev) : Dev := if d.lmp.watch.mode = 2 then { d with lmp.watch.stopAsked := true } else d

def execProgCtlStop (s : State) : Out := run progStop s

/-- Every field of a word decodes, and a branch target lies inside the program (R418, R420). -/
def watchWordOk (len pc w : Nat) : Bool :=
  let tgt : Int := (pc : Int) + 1 + signed w 9
  match bits w 12 4 with
  | 0 | 1 | 2 | 4 | 5 => true
  | 3 => decide (bits w 7 2 = 0)
  | 6 => decide (0 ≤ tgt ∧ tgt < len)
  | 7 => decide (bits w 9 3 = 0 ∧ bits w 0 6 = 0)
  | 8 => decide (bits w 0 12 ≠ 0 ∧ bits w 6 6 = 0)
  | 9 => decide (bits w 0 6 = 0)
  | 10 =>
    let act := bits w 8 4
    let a := bits w 5 3
    let b := bits w 2 3
    decide (act ≤ 8 ∧ bits w 0 2 = 0) && (decide (act = 0 ∨ act = 6) || decide (b = 0))
      && (decide (act = 0 ∨ act = 1 ∨ act = 6 ∨ act = 7) || decide (a = 0))
  | _ => false

/-- Index of the first word of a program that does not decode. -/
def watchBad (p : List W16) : Option Nat :=
  (List.range p.length).find? fun i => !watchWordOk p.length i ((p.getD i 0).toNat)

end Sys2Proof.Machine
end

