-- ==== Sys2Proof/Machine/Startup.lean ====
section
/-! DEFINITION. Boot header and starts (R427–R431, R442): VSTBY, the twelve steps of a start, recovery. -/

namespace Sys2Proof.Machine

/-! Boot header (R427). -/

/-- The copy that governs: the one with the higher seq. -/
def bootHdr (d : Dev) : BootHdr := if d.nor.boot0.seq < d.nor.boot1.seq then d.nor.boot1 else d.nor.boot0

/-- A write goes to the other copy, with seq + 1. -/
def bootWrite (f : BootHdr → BootHdr) (d : Dev) : Dev :=
  let h := f (bootHdr d)
  let w := { h with seq := (bootHdr d).seq + 1 }
  if d.nor.boot0.seq < d.nor.boot1.seq then { d with nor.boot0 := w } else { d with nor.boot1 := w }

def slotStatus (h : BootHdr) (n : Nat) : Nat := if n = 0 then h.statusA else h.statusB
def withStatus (n v : Nat) (h : BootHdr) : BootHdr := if n = 0 then { h with statusA := v } else { h with statusB := v }

def setFwSlot (n : Nat) (x : FwSlot) (d : Dev) : Dev := if n = 0 then { d with nor.slotA := x } else { d with nor.slotB := x }

/-- Rollback and lantern_rb of an image header. -/
def hdrRollback (h : Bytes) : Nat := fld h 16 2
def hdrLanternRb (h : Bytes) : Nat := fld h 18 1

/-- Steps 2 and 3 of a commit (R442): fuses only rise; state 0, A007h. -/
def commitEnd (d : Dev) : Dev :=
  let h := (fwSlot d (bootHdr d).active).hdr
  let d1 := { d with
    sec.fwRollback := max d.sec.fwRollback (hdrRollback h), sec.lanternRollback := max d.sec.lanternRollback (hdrLanternRb h) }
  cfgEv 0xA007 1 [(16, 4, hdrVersion h), (20, 2, d1.sec.fwRollback), (22, 1, d1.sec.lanternRollback)]
    (bootWrite (fun b => { b with state := 0 }) d1)

/-! VSTBY. -/

/-- VSTBY reaches 3.2 V: the Lamplighter starts in safe mode, its counter at 0 and its converter at channel 16, and a power-on start
begins (R405, R428). -/
def vstbyRise (d : Dev) : Dev :=
  if d.pwr.mode ≠ 0 then d
  else startBegin 1 (adcNext
    { d with time.stampUs := 0, lmp := {}, adc := {}, pins := { d.pins with alertN := true, phyRstN := false, smbAwake := false } })

def execVstbyRise (s : State) : Out := run vstbyRise s

/-- VSTBY is lost below 30 V: everything in the Lamplighter goes, and what the Lantern keeps in no fuse and no flash (R381, R404,
R426). -/
def vstbyLoss (v : Nat) (d : Dev) : Dev :=
  let d1 := powerLoss d
  { d1 with
    time.stampUs := 0, log.queued := [], lmp := {}, adc := {}, rel.vstbyLost := true
    pins := { d1.pins with alertN := true, phyRstN := false, smbAwake := false }
    pwr := { d1.pwr with
      mode := 0, faultN := false, tripped := false, tripUs := 0, trips := [], locked := false, cleared := false
      restartDue := false, tripStart := false, halfUntil := none, wakeSource := 0, wakeDom := 0, vin := v, vinLow := true
      vinHigh := false, throttleUs := 0, holdUs := 0 }
    nor := { d1.nor with wakes := [], standbyWaits := false }
    sec := { d1.sec with
      nonces := [], sessions := [], hsFails := [], lockUntil := none, debugs := [], attached := false, closedUs := 0, opened := []
      scrubs := [], query := 0, queryValid := false, mbox := [], mboxStat := 0, mboxNonce := [], spdm := [] } }

def execVstbyLoss (v : W16) (s : State) : Out := run (vstbyLoss v.toNat) s

/-! Recovery (R429). -/

/-- Close every management session: the Lantern restarts, or its keys cannot be read. The spec gives no reason code for it. -/
def closeAll (d : Dev) : Dev :=
  let r := fresh 8 d
  r.2.sec.sessions.foldl (fun x s => sessClose s.1 r.1.toNat x) r.2

/-- Only VSTBY stays on, FAULT_N is asserted, A00Ah. -/
def enterRecovery (d : Dev) : Dev :=
  let h := bootHdr d
  let x := powerLoss d
  cfgEv 0xA00A 4 [(16, 1, h.statusA), (17, 1, h.statusB)]
    { x with pwr.mode := 4, pwr.faultN := true, pwr.tripStart := false, nor.recovery := true, nor.standbyWaits := false }

/-! Step 2: slot selection (R429). -/

/-- The final response of the activate command. -/
def answerActivate (status : W16) (d : Dev) : Dev :=
  let who := d.sec.sessions.flatMap fun s => (s.2.cmds.filter fun c => c.code = 0x33).map fun c => (s.1, c.id)
  who.foldl (fun x w => reply (some w.1) 0x33 w.2 status true [] x) d

/-- A commit is completed; a trial is left, its slot valid as before, and the command that began it is answered. -/
def romSettle (d : Dev) : Dev :=
  match (bootHdr d).state with
  | 2 => commitEnd d
  | 1 =>
    let r := fresh 8 d
    answerActivate refusedNow
      (cfgEv 0xA008 3 [(16, 1, r.1.toNat), (17, 1, 3)] (bootWrite (fun b => { b with state := 0 }) r.2))
  | _ => d

/-- Reason a slot does not boot, 0 when it does: its status, then what the Lantern found. -/
def slotBad (d : Dev) (m : StartMeas) (n : Nat) : Nat :=
  let found := if n = 0 then m.slotA else m.slotB
  if found ≠ 0 then min 4 found else if slotStatus (bootHdr d) n ≠ 1 then 4 else 0

/-- The slot that boots, after a fallback where needed. -/
def romSelect (m : StartMeas) (d0 : Dev) : Option Nat × Dev :=
  if !m.flashOk then (none, d0) else
    let d := romSettle d0
    let a := (bootHdr d).active
    if slotBad d m a = 0 then (some a, d)
    else
      let d1 := cfgEv 0xA009 3 [(16, 1, a), (17, 1, slotBad d m a)]
        (bootWrite (fun b => { withStatus a 2 b with active := 1 - a }) { d with nor.fallback := true })
      if slotBad d1 m (1 - a) = 0 then (some (1 - a), d1) else (none, d1)

/-- Slot 0 is Assigned at every start; its key is made at the first start in Provisioned (R365). -/
def slotZero (d : Dev) : Dev :=
  let d1 := setSlot 0 1 d
  if d.sec.lifecycle = 0 || (sFind d.sec.keys 0).isSome then d1
  else
    let r := drbg 32 d1
    keyActive 0 0 r.1 r.2

def startBoot (m : StartMeas) (d : Dev) : Dev :=
  match romSelect m { d with nor.dataGone := !m.flashOk } with
  | (none, d1) => enterRecovery (if d1.nor.dataGone then closeAll d1 else d1)
  | (some n, d1) =>
    let d2 := setFwSlot n { fwSlot d1 n with dflt := m.dflt } { d1 with nor.slot := n, sec.opened := [] }
    slotZero (watchDefault m.dflt d2)

/-! Step 3: rails and hub domains (R383, R387). -/

/-- Voltage in mV a rail comes up at: for VCORE what the core clock request and the pipelines need, else the middle of its
range. -/
def startVolts (d : Dev) (n : Nat) : Nat :=
  if n < 4 then max 750 (600 + ceilDiv (25 * cfgGet d 0x0110 0 - 600) 4)
  else ((railOf n).lo + (railOf n).hi) / 2

/-- A rail comes up; one without a healthy phase does not, and outside VCORE and VARR_PUMP that is a lost rail (R382). -/
def railUp (n : Nat) (d : Dev) : Dev :=
  if d.pwr.mode ≠ 2 then d
  else if (healthyPhases d n).isEmpty then
    (if n < 4 ∨ n = 8 then modStage n (fun x => { x with lost := true }) d else railLost n d)
  else
    let mv := startVolts d n
    let up := d.time.stampUs + BitVec.ofNat 64 (ceilDiv mv 5)
    modStage n (fun x => { x with enabled := true, target := mv, lost := false, rampEnd := up, goodFrom := up }) d

/-- A domain goes to Run. -/
def domStart (n : Nat) (d : Dev) : Dev :=
  domainUp n 4 (setDom n { state := 0 } d)

/-- The log is ready: what waited is placed in it (R443), with the stamp of its arrival (R8, R9). -/
def logStart (d : Dev) : Dev :=
  d.log.queued.foldl (fun x r => logAppend { r with stamp := d.time.stampUs } x) { d with log.ready := true, log.queued := [] }

/-- The thermal limit at the start of serving: E, or E/2 after a trip (R398, R401). -/
def limitStart (d : Dev) : Dev :=
  let e := d.pwr.envW
  let d1 := { d with pwr.e := e, pwr.bfull := d.pwr.envB, pwr.k := 0, pwr.lows := 0, pwr.above := 0, pwr.l := (e : Rat), pwr.halfUntil := none }
  let half : Rat := (e : Rat) / 2
  let d2 := if d.pwr.tripStart then
      { d1 with pwr.l := half, pwr.throttleUs := d.time.stampUs, pwr.halfUntil := some (d.time.stampUs + 60000000) }
    else d1
  applyRung d2

def startRails (d : Dev) : Dev :=
  let d1 := railOrder.foldl (fun x n => railUp n x) d
  if d1.pwr.mode ≠ 2 then d1
  else
    let d2 := (List.range 345 ++ [374]).foldl (fun x n => domStart n x) (limitStart d1)
    logStart (dbgSettle d2)

/-! Step 4: configuration; the link begins to train. -/

def startConfig (ok : Bool) (d : Dev) : Dev :=
  let d1 := limitStart (configStart ok d)
  let d2 := if d1.pwr.tripStart then throttleBegins (d1.pwr.envW / 2) d1 else d1
  linkTrain { d2 with hif.trained := true, plc.secondsNow := d2.plc.seconds }

/-! Steps 6 and 7: HBM and die links. -/

/-- A step failed (100Bh). -/
def stepFailed (ms : Nat) (d : Dev) : Dev := cfgEv 0x100B 3 [(16, 1, d.nor.at_), (17, 1, 2), (20, 4, ms)] d

/-- A stack that fails training twice stays Off, its 32 channels are charged. With no stack trained the device recovers. -/
def startHbm (ms : Nat) (failed : List (Fin 4)) (d : Dev) : Dev :=
  let bad := (List.range 4).filter fun s => failed.any fun f => f.val = s
  let d1 := if bad.isEmpty then d else stepFailed ms d
  let d2 := { d1 with rel.hbmOff := bad }
  let d3 := bad.foldl (fun x s => (List.range 32).foldl (fun y i => charge 0x100B false (uHbm (32 * s + i)) y) x) d2
  if bad.length = 4 then enterRecovery d3
  else capacityCauses (((List.range 4).filter fun s => !bad.contains s).foldl (fun x s => domStart (345 + s) x) d3)

/-- A die whose link fails training twice is charged and Suspect. The others begin the pilot self-check; none fires traffic before its
end (R90). -/
def startLinks (ms : Nat) (failed : List DieIx) (d : Dev) : Dev :=
  let bad := (List.range 16).filter fun n => failed.any fun f => f.val = n
  let d1 := if bad.isEmpty then d else stepFailed ms d
  let d2 := bad.foldl (fun x n => charge 0x100B false (uDie n) (modDie n (fun y => { y with linkDown := true }) x)) d1
  shareRecompute (((List.range 16).filter fun n => !bad.contains n).foldl (fun x n =>
    checkBegin n (modDie n (fun y => { y with lock := true, held := false, linkDown := false }) (setDom (349 + n) { state := 0 } x))) d2)

/-! Step 8: the ledger (R352) and the marks of scrubs (R379). -/

/-- Powered time goes on from the last checkpoint. -/
def startLedger (d : Dev) : Dev :=
  let all := (d.rel.sectors.filter fun s => s.2.state ≠ 0xFF).flatMap fun s => s.2.recs
  let last := (all.filter fun r => r.type = 4).getLast?
  let t := match last with
    | some r => r.ptime.toNat
    | none => 0
  startScrubKeys { d with rel.ptimeUs := t * 1000000 }

/-! Step 9: self-checks, which run since step 7, and candle checks of the planes whose last check is oldest. -/

def startChecks (d : Dev) : Dev :=
  (List.range 16).foldl (fun x n => ((contentByAge x n).take 64).foldl (fun y pid => candleDue pid y) x) d

/-! Step 10: placement state (R430). -/

/-- A generation whose section record no copy can supply: its model is unavailable. -/
def sectionLost (g : W16 × W16) (d : Dev) : Dev :=
  match getGen d g.1 g.2 with
  | none => d
  | some x =>
    let r := fresh 64 d
    loadEv 0x900D 3 x.owner g.1 g.2 [(20, 8, r.1.toNat)] (setModel g.1 { getModel r.2 g.1 with state := 3 } r.2)

def startPlacement (m : StartMeas) (d : Dev) : Dev :=
  let d1 := d.plc.loads.foldl (fun x l => loadEnd l 0 0xFFFFFFFF false x) d
  let d3 := m.lost.foldl (fun x l => segmentLost l.1 l.2 x) (reprogram (fun _ => true) (hbmRewrite d1))
  drainAll (startScrubs (m.lostGens.foldl (fun x g => sectionLost g x) d3))

/-! Step 11: fabric ports (R332). -/

def startPorts (d : Dev) : Dev :=
  if standalone d then d else
    (List.range 8).foldl (fun x p => if portRole x p = 7 then x else portToFree p 1 (setDom (366 + p) { state := 0 } x)) (viewUpdate d)

/-! Step 12: serving. -/

/-- Standby asked for during the start takes effect: the sessions that asked are answered. -/
def standbyLate (d : Dev) : Dev :=
  let who := d.sec.sessions.flatMap fun s => (s.2.cmds.filter fun c => c.code = 0x21).map fun c => (s.1, c.id)
  if !d.nor.standbyWaits then d
  else who.foldl (fun x w => reply (some w.1) 0x21 w.2 done true [] x) (standby (if who.isEmpty then 2 else 1) d)

/-- After a loss of VSTBY every plane with content is checked, oldest age first (R105). -/
def checkAll (d : Dev) : Dev :=
  if !d.rel.vstbyLost then d else
    (List.range 16).foldl (fun x n => (contentByAge x n).foldl (fun y pid => candleDue pid y) x) { d with rel.vstbyLost := false }

def startServing (d0 : Dev) : Dev :=
  let d := checkAll d0
  let d1 := { d with
    pwr.mode := 3, nor.at_ := 0, pwr.tripped := false, pwr.faultN := false
    pwr.halfUntil := if d.pwr.tripStart then some (d.time.stampUs + 60000000) else none, pwr.tripStart := false }
  let d2 := (List.range 64).foldl (fun x t => if slotState x t = 1 ∧ x.sec.lifecycle ≠ 0 ∧ !(x.sec.lifecycle = 3 ∧ t ≠ 0) then slotReady t x else x) d1
  standbyLate (cfgEv 0x100A 1 [(16, 1, d.nor.cause), (17, 1, d.nor.slot), (20, 4, d.nor.duration.toNat)] d2)

/-! The step that completes. Step 5 runs alongside and adds nothing to the duration. -/

/-- What completing the step in progress does. -/
def startAct (m : StartMeas) (d : Dev) : Dev :=
  match d.nor.at_ with
  | 2 => startBoot m d
  | 3 => startRails d
  | 4 => startConfig m.cfgOk d
  | 5 => domStart 365 d
  | 6 => startHbm m.ms m.hbmFailed d
  | 7 => startLinks m.ms m.linkFailed d
  | 8 => startLedger d
  | 9 => startChecks d
  | 10 => startPorts (startPlacement m d)
  | 12 => startServing d
  | _ => d

/-- The next step begins unless the start has ended. -/
def startNext (d : Dev) : Dev :=
  if d.pwr.mode ≠ 2 then d else { d with nor.at_ := min 12 (d.nor.at_ + 1), nor.step := min 12 (d.nor.at_ + 1) }

/-- START_STEP_COMPLETE (R428). -/
def startStep (m : StartMeas) (d : Dev) : Dev :=
  if d.pwr.mode ≠ 2 ∨ d.nor.at_ = 0 then d
  else
    let d1 := if d.nor.at_ = 5 then d else { d with nor.duration := d.nor.duration + BitVec.ofNat 32 m.ms }
    let d2 := if m.overran then cfgEv 0x100B 3 [(16, 1, d.nor.at_), (17, 1, 1), (20, 4, m.ms)] d1 else d1
    startNext (startAct m d2)

def execStartStepComplete (m : StartMeas) (s : State) : Out := run (startStep m) s

end Sys2Proof.Machine
end

