-- ==== Sys2Proof/Machine/Firmware.lean ====
section
/-! DEFINITION. Firmware updates (R437–R442): the transfer, the trial, confirmation, commit and revert. -/

namespace Sys2Proof.Machine

/-! The image header (R437). -/

def manOff (h : Bytes) (c : Nat) : Nat := fld h (64 * c + 8) 4
def manLen (h : Bytes) (c : Nat) : Nat := fld h (64 * c + 12) 4

/-- Components 1–7. -/
def components : List Nat := [1, 2, 3, 4, 5, 6, 7]

/-- Magic, format, number of components, reserved bytes, wrap as delivered. -/
def hdrForm (h : Bytes) : Bool :=
  decide (h.length = 4096 ∧ fld h 0 4 = 0x4D495746 ∧ fld h 4 1 = 1 ∧ fld h 5 1 = 7)
    && zeros h 9 3 && zeros h 19 1 && zeros h 24 40 && zeros h 4033 63 && components.all fun c => zeros h (64 * c + 1) 3

/-- Entries in order, within the image, and disjoint. -/
def hdrManifest (h : Bytes) : Bool :=
  let n := fld h 20 4
  decide (n ≤ 25165824) && (components.all fun c =>
    decide (fld h (64 * c) 1 = c ∧ manOff h c % 16 = 0 ∧ 4096 ≤ manOff h c ∧ manOff h c + manLen h c ≤ n)
      && components.all fun e => decide (e = c ∨ manOff h c + manLen h c ≤ manOff h e ∨ manOff h e + manLen h e ≤ manOff h c))

/-- Silicon stepping (HIF_ID). -/
def stepping : Nat := 1

/-- The first check of R438 that fails, 0 for none. -/
def hdrBad (h : Bytes) (d : Dev) : Nat :=
  if !hdrForm h then 1
  else if fld h 6 2 ≠ 0x4505 ∨ !bitAt (fld h 8 1) stepping then 2
  else if !Config.sm2Verify 1 (h.take 3840) ((h.drop 3840).take 64) then 3
  else if hdrRollback h < d.sec.fwRollback ∨ hdrLanternRb h < d.sec.lanternRollback then 4
  else if !hdrManifest h then 5
  else if d.nor.fwState ≠ 0 then 6
  else if d.sec.lifecycle = 0 then 7
  else 0

/-- The header as it stands in a slot: the content key wrapped by the storage key. -/
def slotHdr (h : Bytes) (d : Dev) : Bytes :=
  h.take 3904 ++ padTo 44 (Config.sealRec d.sec.seed 0 ((h.drop 3904).take 129)) ++ List.replicate 85 0 ++ [1] ++ List.replicate 62 0

/-- The slot an update writes: the one that is not booted. -/
def idleSlot (d : Dev) : Nat := 1 - (bootHdr d).active

/-! The transfer (R438). -/

/-- FIRMWARE_BEGIN. -/
def fwBegin (id : W32) (h : Bytes) (sid : Option Nat) (d : Dev) : Dev :=
  let bad := hdrBad h d
  if bad ≠ 0 then reply sid 0x30 id refusedNow true [] (cfgEv 0xA002 2 [(16, 1, bad)] d)
  else
    let n := idleSlot d
    let d1 := setFwSlot n { hdr := slotHdr h d, data := [], dflt := [] } (bootWrite (withStatus n 3) d)
    reply sid 0x30 id done true [] (cfgEv 0xA001 1 [(16, 4, hdrVersion h), (20, 1, n)]
      { d1 with nor.fwState := 1, nor.nextOff := 4096 })

def execFirmwareBegin (mc : MgmtCmd) (hdr : Bytes) (s : State) : Out :=
  run (mgmtGate mc 0x30 1 .lantern (decide (hdr.length = 4096)) (fwBegin mc.id hdr)) s

/-- FIRMWARE_DATA: ascending offsets; bytes left out stay erased. -/
def fwData (id : W32) (off : Nat) (b : Bytes) (sid : Option Nat) (d : Dev) : Dev :=
  let n := idleSlot d
  let x := fwSlot d n
  if d.nor.fwState ≠ 1 ∨ off < d.nor.nextOff ∨ off + b.length > 25165824 then reply sid 0x31 id refusedNow true [] d
  else
    let data := x.data ++ List.replicate (off - d.nor.nextOff) 0xFF ++ b
    reply sid 0x31 id done true [] { setFwSlot n { x with data := data } d with nor.nextOff := off + b.length }

def execFirmwareData (mc : MgmtCmd) (off : Nat) (bytes : Bytes) (s : State) : Out :=
  run (mgmtGate mc 0x31 1 .lantern (decide (bytes.length ≤ 16352)) (fwData mc.id off bytes)) s

/-- The first component whose plaintext does not have its length and digest, or is not all in the slot. -/
def badComponent (h : Bytes) (written : Nat) (plain : List Bytes) : Option Nat :=
  components.find? fun c =>
    let p := plain.getD (c - 1) []
    decide (p.length ≠ manLen h c ∨ written < manOff h c + manLen h c) || sm3 p != padTo 32 ((h.drop (64 * c + 32)).take 32)

/-- Little-endian words of a watch program. -/
def wordsLe (b : Bytes) : List W16 := (List.range (b.length / 2)).map fun i => BitVec.ofNat 16 (fld b (2 * i) 2)

/-- FIRMWARE_END. plain holds what each component decrypts to. -/
def fwEnd (id : W32) (plain : List Bytes) (sid : Option Nat) (d : Dev) : Dev :=
  let n := idleSlot d
  let x := fwSlot d n
  if d.nor.fwState ≠ 1 then reply sid 0x32 id refusedNow true [] d
  else match badComponent x.hdr d.nor.nextOff plain with
  | some c => reply sid 0x32 id refusedNow true []
      (cfgEv 0xA004 3 [(16, 1, c)] { bootWrite (withStatus n 2) d with nor.fwState := 0, nor.nextOff := 0 })
  | none =>
    let d1 := setFwSlot n { x with dflt := wordsLe (plain.getD 5 []) } (bootWrite (withStatus n 1) d)
    reply sid 0x32 id done true [] (cfgEv 0xA003 1 [(16, 4, hdrVersion x.hdr)] { d1 with nor.fwState := 2, nor.nextOff := 0 })

def execFirmwareEnd (mc : MgmtCmd) (plain : List Bytes) (s : State) : Out :=
  run (mgmtGate mc 0x32 1 .lantern true (fwEnd mc.id plain)) s

/-! The trial (R439–R442). -/

/-- ACTIVATE_FIRMWARE: while serving a trial begins; in recovery the slot is booted by a restart, and no health window applies
(R429). -/
def fwActivate (id : W32) (sid : Option Nat) (d : Dev) : Dev :=
  let n := idleSlot d
  let m := if slotStatus (bootHdr d) n = 1 then some n
    else if d.pwr.mode = 4 ∧ slotStatus (bootHdr d) (1 - n) = 1 then some (1 - n) else none
  if d.pwr.mode ≠ 3 ∧ d.pwr.mode ≠ 4 then reply sid 0x33 id busy true [] (cfgEv 0x1009 2 [(16, 1, 3)] d)
  else match m with
  | none => reply sid 0x33 id refusedNow true [] d
  | some k =>
    if d.nor.fwState ≠ 0 ∧ d.nor.fwState ≠ 2 then reply sid 0x33 id refusedNow true [] d
    else if d.pwr.mode = 4 then
      let d1 := bootWrite (fun h => { h with active := k, state := 2 }) d
      let d2 := closeAll (reply sid 0x33 id done true [] { d1 with nor.fwState := 0 })
      startBegin 1 { d2 with nor.at_ := 2 }
    else
      let d1 := bootWrite (fun h => { h with state := 1 }) d
      reply sid 0x33 id accepted false [] (addPend sid { id := id, code := 0x33 }
        { d1 with nor.fwState := 3, nor.handed := [], nor.confirmed := [], nor.handedUs := [] })

def execActivateFirmware (mc : MgmtCmd) (s : State) : Out :=
  run (mgmtGate mc 0x33 1 .lantern true (fwActivate mc.id)) s

/-- A component goes over to a slot: the default program is handed to the Lamplighter, a Lantern restart closes the sessions. -/
def switchTo (n c : Nat) (d : Dev) : Dev :=
  match c with
  | 6 => watchDefault (fwSlot d n).dflt d
  | 1 => closeAll d
  | _ => d

/-- Every component handed over returns in reverse order; the slot is rejected, state 0, A008h (R441). -/
def fwRevert (c reason : Nat) (d : Dev) : Dev :=
  let n := idleSlot d
  let back := d.nor.handed.reverse
  let d1 := answerActivate refusedNow { d with nor.fwState := 0, nor.handed := [], nor.confirmed := [], nor.handedUs := [] }
  let d2 := back.foldl (fun x k =>
    let r := fresh 32 (switchTo (1 - n) k x)
    cfgEv 0xA005 1 [(16, 1, k), (17, 1, 2), (20, 4, r.1.toNat)] r.2) d1
  cfgEv 0xA008 3 [(16, 1, c), (17, 1, reason)] (bootWrite (fun h => { withStatus n 2 h with state := 0 }) d2)

/-- ABORT_UPDATE: a transfer or a verified update ends; a trial reverts. -/
def fwAbort (id : W32) (sid : Option Nat) (d : Dev) : Dev :=
  match d.nor.fwState with
  | 0 => reply sid 0x34 id refusedNow true [] d
  | 3 =>
    let r := fresh 8 d
    fwRevert r.1.toNat 4 (reply sid 0x34 id done true [] r.2)
  | _ => reply sid 0x34 id done true [] { d with nor.fwState := 0, nor.nextOff := 0 }

def execAbortUpdate (mc : MgmtCmd) (s : State) : Out := run (mgmtGate mc 0x34 1 .lantern true (fwAbort mc.id)) s

/-- The order of the handover table. -/
def handoverOrder : List Nat := [7, 6, 5, 4, 3, 2, 1]

/-- FIRMWARE_HANDOVER: the next component; it waits for a scrub to end. -/
def handover (pause : Nat) (d : Dev) : Dev :=
  if d.nor.fwState ≠ 3 ∨ !d.sec.marks.isEmpty then d
  else match handoverOrder[d.nor.handed.length]? with
  | none => d
  | some c =>
    let d1 := { d with nor.handed := d.nor.handed ++ [c], nor.handedUs := sSet d.nor.handedUs c d.time.stampUs }
    cfgEv 0xA005 1 [(16, 1, c), (17, 1, 1), (20, 4, pause)] (switchTo (idleSlot d) c d1)

def execFirmwareHandover (pauseUs : W32) (s : State) : Out := run (handover pauseUs.toNat) s

/-- The component is in its trial: handed over and not confirmed. -/
def onTrial (d : Dev) (c : Nat) : Bool := decide (d.nor.fwState = 3) && d.nor.handed.contains c && !d.nor.confirmed.contains c

/-- The three steps of a commit (R442). -/
def fwCommit (d : Dev) : Dev :=
  let n := idleSlot d
  answerActivate done (commitEnd { bootWrite (fun h => { h with active := n, state := 2 }) d with
    nor.fwState := 0, nor.handed := [], nor.confirmed := [], nor.handedUs := [], nor.slot := n })

/-- COMPONENT_CONFIRM: A006h; the last one commits. -/
def confirm (c ms : Nat) (d : Dev) : Dev :=
  if !onTrial d c then d
  else
    let d1 := cfgEv 0xA006 1 [(16, 1, c), (20, 4, ms)] { d with nor.confirmed := d.nor.confirmed ++ [c] }
    if d1.nor.confirmed.length = 7 then fwCommit d1 else d1

def execComponentConfirm (c : Nat) (ms : W32) (s : State) : Out := run (confirm c ms.toNat) s

/-- CONFIRM_TIMEOUT: a component fails by its own criterion or by 120 s of silence; one that has confirmed does not (R440). -/
def confirmLate (c : Nat) (broken : Bool) (d : Dev) : Dev :=
  if !onTrial d c then d else fwRevert c (if broken then 1 else 2) d

def execConfirmTimeout (c : Nat) (broken : Bool) (s : State) : Out := run (confirmLate c broken) s

end Sys2Proof.Machine
end

