-- ==== Sys2Proof/Machine/Regs.lean ====
section
/-! DEFINITION. Registers (R12–R15, R281, R282, R302–R304): what each offset of BAR0 and BAR2 reads as, and what a write of it
does by its access types. -/

namespace Sys2Proof.Machine

/-- A register's value: 64 bits wide or 32, and its bits. -/
abbrev RegVal := Bool × Nat

def r32 (v : Nat) : Option RegVal := some (false, v)
def r64 (v : Nat) : Option RegVal := some (true, v)

/-- Fields (lowest bit, width, value) laid into a register; a value saturates at its width. -/
def fields (l : List (Nat × Nat × Nat)) : Nat :=
  l.foldl (fun (a : Nat) f => a + min f.2.2 (2 ^ f.2.1 - 1) * 2 ^ f.1) 0

/-- The 32 bytes of an event record (R7). -/
def eventBytes (r : EventRec) : Bytes :=
  toLe 2 r.code.toNat ++ toLe 1 r.sev.toNat ++ toLe 1 r.tenant.toNat ++ toLe 4 r.unit.toNat ++ toLe 8 r.stamp.toNat
    ++ toLe 16 r.payload.toNat

/-! BAR2, region by region (R302): the register at an offset of the region. -/

/-- Units of a state in the health records. -/
def unitsIn (d : Dev) (st : Nat) : Nat := d.rel.units.countP fun u => decide (u.2.state = st)

def mgtReg (d : Dev) (o : Nat) : Option RegVal :=
  match o with
  | 0x000 => r32 (fields [(1, 1, b2n d.time.busy), (2, 1, b2n d.time.valid)])
  | 0x004 => r32 d.time.corrUnc.toNat
  | 0x008 => r64 d.time.corrStamp.toNat
  | 0x010 => r64 d.time.corrCp.toNat
  | 0x018 => r64 (fields [(0, 4, d.plc.loads.length), (4, 1, b2n (d.plc.loads.any (·.dry))), (32, 32, d.plc.shards.toNat)])
  | 0x020 => r32 ((List.range 16).foldl (fun (a : Nat) i =>
      match sFind d.plc.dtabs i with
      | some t => a + 2 ^ i + b2n (decide (t.count > 0)) * 2 ^ (16 + i)
      | none => a) 0)
  | 0x028 => r64 (fields [(0, 1, b2n d.hif.winEnable), (22, 42, d.hif.winBase.toNat)])
  | 0x030 => r64 d.log.count.toNat
  | 0x040 => r64 (fields [(0, 16, unitsIn d 1), (16, 20, d.rel.retiredPlanes), (36, 9, activeCores d), (45, 7, activePipes d),
      (52, 1, b2n d.rel.reduced)])
  | 0x048 => r32 d.rel.est.toNat
  | 0x04C => r32 d.rel.xchkSecs.toNat
  | 0x050 => r32 d.rel.query.toNat
  | 0x058 =>
    let u := getUnit d d.rel.query
    let ok := unitOk d.rel.query
    r64 (if !ok then fields [(28, 1, 1), (63, 1, b2n d.rel.queryValid)] else
      fields [(0, 2, u.state), (2, 4, ev24 d u), (6, 6, ev30 d u), (12, 16, u.life), (63, 1, b2n d.rel.queryValid)])
  | 0x060 => r64 (fields [(0, 6, d.rel.openSector.toNat), (6, 6, d.rel.sectors.countP fun s => decide (s.2.state = 0x3F)),
      (12, 1, b2n d.rel.ledgerFailed), (32, 32, ptimeS d / 3600)])
  | _ => none

/-- One bit for each component 1–7 of a list. -/
def compBits (l : List Nat) : Nat := (components.filter l.contains).foldl (fun (a : Nat) c => a + 2 ^ (c - 1)) 0

def cfgReg (d : Dev) (o : Nat) : Option RegVal :=
  let n := d.nor
  let h := bootHdr d
  match o with
  | 0x000 => r32 (fields [(0, 1, n.half), (1, 1, b2n n.usable), (2, 1, b2n n.digestOk), (3, 1, b2n n.tailBad), (4, 1, b2n n.pending),
      (5, 16, n.report.length)])
  | 0x008 => r64 (fields [(0, 2, n.cause), (2, 4, n.step), (6, 1, n.slot), (7, 1, b2n n.fallback), (8, 1, b2n n.recovery),
      (32, 32, n.duration.toNat)])
  | 0x010 => r64 (fields [(0, 1, h.active), (1, 3, n.fwState), (4, 2, h.statusA), (6, 2, h.statusB), (8, 7, compBits n.handed),
      (15, 7, compBits n.confirmed), (32, 32, hdrVersion (fwSlot d h.active).hdr)])
  | _ =>
    -- the report from 1000h, in words
    if o < 0x1000 ∨ o % 4 ≠ 0 then none
    else
      let b := reportBytes d
      if o - 0x1000 < b.length then r32 (fld b (o - 0x1000) 4) else none

/-- Rings of a function that have stopped on an error. -/
def fnRingError (f : FnSt) : Bool := f.sq.any (·.2.error) || f.cq.any (·.2.error)

def hifReg (d : Dev) (o : Nat) : Option RegVal :=
  let h := d.hif
  match o with
  | 0x000 => r32 (fields [(0, 3, h.rate.toNat), (3, 3, h.width.toNat), (6, 1, b2n h.flit), (7, 2, h.pm.toNat), (9, 1, b2n h.up)])
  | 0x008 => r64 (fields [(0, 16, h.dmaFail.toNat), (16, 16, h.ringErr.toNat), (32, 16, h.aerCorr.toNat), (48, 16, h.aerUncorr.toNat)])
  | _ =>
    if o < 0x100 ∨ 0x200 ≤ o ∨ o % 4 ≠ 0 then none
    else
      let n := (o - 0x100) / 4
      let f := getFn d n
      r32 (fields [(0, 1, b2n ((n = 0 || h.vfEnable) && f.bme)), (1, 1, b2n f.d3hot), (2, 1, b2n (fnRingError f)), (3, 1, b2n (fnHeld f)),
        (4, 1, b2n (decide (f.evtLost ≠ 0))), (5, 21, liveOf d n)])

/-- The tile-plane TIL_QUERY names; none for a unit that is not one. -/
def queriedPlane (d : Dev) : Option Nat :=
  let u := d.arr.query
  if bits u.toNat 28 4 = 1 ∧ unitOk u then some (bits u.toNat 0 28) else none

def tilReg (d : Dev) (o : Nat) : Option RegVal :=
  let a := d.arr
  match o with
  | 0x000 => r32 (fields [(0, 17, a.budget), (17, 1, b2n a.budgetFloor)])
  | 0x008 => r64 a.passCnt.toNat
  | 0x010 => r64 (fields [(0, 32, a.splitGroups.toNat), (32, 32, a.extraPasses.toNat)])
  | 0x018 => r32 (fields [(0, 16, a.flagged.toNat), (16, 16, a.repeated.toNat)])
  | 0x01C => r32 (fields [(0, 16, a.planes.countP fun p => decide (planeState d p.1 = 5 ∨ planeState d p.1 = 6)),
      (16, 8, a.refreshes.countP fun r => decide (2 ≤ r.2.step)), (24, 8, a.planes.countP fun p => decide (p.2.candleOverdue > 0))])
  | 0x020 => r32 a.query.toNat
  | 0x024 => match queriedPlane d with
    | none => r32 (fields [(5, 1, 1), (6, 1, b2n a.queryValid)])
    | some pid => r32 (fields [(0, 4, planeState d pid), (4, 1, b2n (inPool d pid)), (6, 1, b2n a.queryValid),
        (8, 8, (compNeeded d (getPlane d pid)).length), (16, 16, (getPlane d pid).programs)])
  | 0x028 => match queriedPlane d with
    | none => r64 (fields [(63, 1, b2n a.queryValid)])
    | some pid =>
      let p := getPlane d pid
      r64 (fields [(0, 16, wrap 16 p.corr.drift), (16, 8, wrap 8 p.corr.delta), (24, 5, p.corr.flags.toNat), (32, 16, p.corr.gp),
        (48, 7, p.comp.length), (55, 8, ptimeH d - p.corr.candAge), (63, 1, b2n a.queryValid)])
  | 0x030 => r64 (fields [(0, 22, poolPlanes d), (32, 32, a.swapTokens.floor.toNat)])
  | _ =>
    if o < 0x100 ∨ 0x1C0 ≤ o ∨ o % 4 ≠ 0 then none
    else
      let x := getDie d ((o - 0x100) / 4 % 16)
      match (o - 0x100) / 64 with
      | 0 => r32 (fields [(0, 13, x.share), (13, 1, b2n x.lock), (14, 1, b2n x.held), (15, 1, b2n x.suspect), (16, 14, x.trafficQ.length)])
      | 1 => r32 (fields [(0, 7, x.progLimit), (7, 7, x.programming.length), (14, 8, x.kappa)])
      | _ => r32 (fields [(0, 11, x.buffers), (11, 11, x.peak), (22, 1, b2n x.waited)])

/-- Contexts in a range of states. -/
def ctxsIn (d : Dev) (lo hi : Nat) : Nat := d.srv.ctxs.countP fun c => decide (lo ≤ c.2.state ∧ c.2.state ≤ hi)

def srvReg (d : Dev) (o : Nat) : Option RegVal :=
  let s := d.srv
  let p := d.num.policy
  match o with
  | 0x000 => r32 (fields [(0, 15, s.target.toNat), (15, 7, s.share.toNat), (22, 10, s.minChunk.toNat)])
  | 0x004 => r32 (fields [(0, 1, b2n p.enable), (1, 1, b2n p.defaultOff), (2, 1, b2n p.loaded), (3, 1, b2n p.disabled)])
  | 0x008 => r64 (fields [(0, 16, s.measured.toNat), (16, 16, s.estimate.toNat), (32, 13, s.sequences.toNat), (45, 14, s.prefill.toNat)])
  | 0x010 => r64 (fields [(0, 21, ctxsIn d 1 6), (21, 21, ctxsIn d 1 1), (42, 21, ctxsIn d 4 5)])
  | 0x018 => r64 s.rate.toNat
  | 0x020 => r64 (fields [(0, 16, p.switches.toNat), (16, 16, p.refused.toNat), (32, 16, p.aborts.toNat), (48, 12, p.queue.length)])
  | 0x028 => r32 s.query.toNat
  | 0x02C => r32 d.num.flags.toNat
  | 0x030 => match sFind s.ctxs s.query.toNat with
    | none => r64 (fields [(63, 1, b2n s.queryValid)])
    | some c => r64 (fields [(0, 3, c.state), (3, 6, c.tenant), (9, 2, c.cls), (11, 21, c.length), (32, 16, c.gen.toNat),
        (63, 1, b2n s.queryValid)])
  | 0x038 => r32 (fields [(0, 1, b2n s.adm.enable), (1, 1, b2n s.adm.loaded), (2, 1, b2n s.adm.disabled)])
  | _ => none

def plcReg (d : Dev) (o : Nat) : Option RegVal :=
  let p := d.plc
  match o with
  | 0x000 => r32 (fields [(0, 10, p.seconds.toNat), (10, 14, p.migRate.toNat)])
  | 0x004 => r32 p.swapMin.toNat
  | 0x008 => r64 (fields [(0, 32, p.epoch.toNat), (32, 1, b2n p.computing)])
  | 0x010 => r64 (fields [(0, 16, p.plan.length), (16, 16, p.plan.countP (·.done)), (32, 16, p.dropped), (48, 16, p.plan.countP (·.overruled))])
  | 0x018 => r32 p.genQuery.toNat
  | 0x01C => r32 p.attQuery.toNat
  | 0x020 =>
    let m := p.genQuery
    let act := match activeGen d m with
      | some g => g.1.toNat
      | none => 0
    let pend := match genIn d m 1 2 with
      | some g => (g.1.toNat, decide (g.2.state = 2) && g.2.held)
      | none => (0, false)
    r64 (fields [(0, 16, act), (16, 16, pend.1), (32, 3, (getModel d m).state), (35, 1, b2n pend.2),
      (36, 2, (gensOf d m).countP fun g => decide (g.2.state = 4 ∨ g.2.state = 5)), (63, 1, b2n p.genValid)])
  | 0x028 =>
    let a := sGet (0, 0) d.att.assign p.attQuery.toNat
    r64 (fields [(0, 16, a.1), (16, 32, a.2), (63, 1, b2n p.attValid)])
  | _ => none

def attReg (d : Dev) (o : Nat) : Option RegVal :=
  match o with
  | 0x000 => r32 d.att.itemTarget.toNat
  | 0x004 => r32 (fields [(0, 18, hotUsed d)])
  | 0x008 => r64 (fields [(0, 32, d.att.items.toNat), (32, 12, d.att.emptyRows.toNat), (44, 12, d.att.parkFail.toNat)])
  | 0x010 | 0x018 | 0x020 | 0x028 => r64 (tierPages d ((o - 0x10) / 8))
  | _ =>
    if o % 4 ≠ 0 then none
    else if 0x100 ≤ o ∧ o < 0x210 then
      let n := (o - 0x100) / 4
      let x := sGet {} d.att.pipes n
      let l := logicalPipe d n
      r32 (fields [(0, 2, x.state), (2, 1, b2n l.isSome), (3, 1, b2n (unitRetired d (uPipe n))), (4, 6, l.getD 0), (10, 2, x.stage)])
    else if 0x300 ≤ o ∧ o < 0x400 then
      let p := physPipe d ((o - 0x300) / 4)
      r32 (if p < 68 then fields [(0, 7, p), (7, 1, 1)] else 0)
    else none

def fabReg (d : Dev) (o : Nat) : Option RegVal :=
  let f := d.fab
  match o with
  | 0x000 => r64 (flotillaId d)
  | 0x008 => r32 (fields [(0, 6, selfMember d), (6, 4, dimSize d 0), (10, 4, dimSize d 1), (14, 4, dimSize d 2), (18, 4, 1),
      (22, 4, (List.range 8).foldl (fun (a : Nat) p => if (getPort d p).state = 3 then min a (getPort d p).minor else a) 0)])
  | 0x010 => r64 f.view.toNat
  | 0x018 => r64 (fields [(0, 32, f.planEpoch.toNat), (32, 8, f.fails.toNat), (40, 1, b2n f.computing)])
  | 0x020 => r64 (fields [(0, 32, f.sent.toNat), (32, 16, f.resent.toNat), (48, 16, f.failed.toNat)])
  | _ =>
    if 0x100 ≤ o ∧ o < 0x120 ∧ o % 4 = 0 then
      let p := (o - 0x100) / 4
      let x := getPort d p
      let t := match x.transits with
        | [] => 0
        | t :: ts => ts.foldl min t
      r32 (fields [(0, 3, x.state), (3, 3, portRole d p), (6, 6, x.peer), (12, 4, x.fence), (16, 1, b2n x.carrying), (17, 1, b2n x.fwDiff),
        (18, 11, t / 10)])
    else if 0x200 ≤ o ∧ o < 0x240 ∧ o % 8 = 0 then
      let x := getPort d ((o - 0x200) / 8)
      r64 (fields [(0, 16, x.crcErr.toNat), (16, 16, x.resendCnt.toNat), (32, 16, x.fecUncorr.toNat), (48, 16, x.hbMissed.toNat)])
    else none

def secReg (d : Dev) (o : Nat) : Option RegVal :=
  let s := d.sec
  match o with
  | 0x000 => r64 (fields [(0, 2, s.lifecycle), (2, 9, s.fwRollback), (11, 7, s.lanternRollback), (32, 32, s.serial.toNat % 2 ^ 32)])
  | 0x008 => r32 s.query.toNat
  | 0x010 =>
    let t := s.query.toNat
    let k := sGet {} s.keys t
    r64 (fields [(0, 2, slotState d t), (2, 1, b2n k.imported), (3, 1, b2n (decide (cfgGet d 0x0305 t > 0 ∨ cfgGet d 0x0306 t > 0))),
      (32, 31, k.check.toNat % 2 ^ 31), (63, 1, b2n s.queryValid)])
  | 0x018 => r32 (fields [(0, 4, s.sessions.countP fun x => x.2.established), (4, 3, s.debugs.length),
      (7, 2, s.debugs.foldl (fun (a : Nat) x => max a x.level) 0), (9, 1, b2n s.lockUntil.isSome), (10, 1, b2n s.attached)])
  | 0x020 => r64 (fields [(0, 32, s.auditSeq.toNat % 2 ^ 32), (32, 13, auditFree d)])
  | 0x028 => r32 (fields [(0, 3, s.scrubs.countP fun x => !x.waits), (3, 6, s.scrubs.countP (·.waits)),
      (9, 3, match s.scrubs with
        | [] => 0
        | x :: _ => x.step)])
  | 0x038 => r32 (min s.mboxStat 3)
  | _ => if s.mboxStat = 3 ∧ 0x40 ≤ o ∧ o < 0x60 ∧ o % 4 = 0 then r32 (fld s.mboxNonce (o - 0x40) 4) else none

def pwrReg (d : Dev) (o : Nat) : Option RegVal :=
  let p := d.pwr
  match o with
  | 0x000 => r32 (fields [(0, 10, p.envW), (10, 16, p.envB)])
  | 0x008 =>
    let mean : Rat := ((p.last.foldl (fun (a : Nat) x => a + x) 0 : Nat) : Rat) / (max 1 p.last.length : Nat)
    r64 (fields [(0, 16, (roundStep d.freeCtr 7 mean).toNat), (16, 16, p.vin), (32, 16, p.iin)])
  | 0x010 => r32 (fields [(0, 10, (roundStep d.freeCtr 8 p.l).toNat), (10, 6, p.k), (16, 1, b2n (decide (p.l < (p.e : Rat)))),
      (17, 1, b2n p.hold), (18, 1, b2n (anyDerated d))])
  | 0x018 => r32 (fields [(0, 3, p.wakeSource), (3, 9, p.wakeDom)])
  | 0x020 => r32 p.query.toNat
  | 0x024 =>
    let n := p.query.toNat
    if n > 374 then r32 (fields [(4, 1, 1), (31, 1, b2n p.queryValid)])
    else
      let x := getDom d n
      -- a domain in Run whose islands have all stopped is Idle (R391)
      let st := if x.state = 0 ∧ (getIsland d n).idle ∧ (n < 349 ∨ 365 ≤ n ∨ (getIsland d (500 + (n - 349))).idle) then 1 else x.state
      r32 (fields [(0, 3, st), (3, 1, b2n (domHeld d n 4)), (31, 1, b2n p.queryValid)])
  | _ =>
    if 0x40 ≤ o ∧ o < 0x70 ∧ o % 4 = 0 then
      let n := (o - 0x40) / 4
      let x := getStage d n
      r32 (fields [(0, 12, x.vout), (12, 10, x.iout / 25), (22, 4, (healthyPhases d n).length), (26, 1, b2n x.faulty), (27, 1, b2n (railGood d n))])
    else none

def thmReg (d : Dev) (o : Nat) : Option RegVal :=
  match o with
  | 0x000 => r32 (fields [(0, 5, hottestRegion d), (5, 1, b2n d.pwr.tripped), (6, 2, trips24 d),
      (8, 9, d.lmp.sensors.countP (·.2.replaced)), (17, 9, (List.range 360).countP (sensorRetired d))])
  | 0x008 => r32 d.lmp.query.toNat
  | 0x00C =>
    let n := d.lmp.query.toNat
    if n > 359 then r32 (fields [(22, 1, 1), (31, 1, b2n d.lmp.queryValid)])
    else
      let x := sGet {} d.lmp.sensors n
      r32 (fields [(0, 10, wrap 10 x.raw), (10, 10, wrap 10 x.used), (20, 2, if sensorRetired d n then 2 else b2n x.replaced),
        (31, 1, b2n d.lmp.queryValid)])
  | 0x010 => r32 0
  | _ =>
    if 0x100 ≤ o ∧ o < 0x164 ∧ o % 4 = 0 then
      let r := (o - 0x100) / 4
      let x := getRegion d r
      r32 (fields [(0, 10, wrap 10 x.temp), (10, 8, throttlePoint d r), (18, 8, tripPoint r), (26, 1, b2n (regionAbove d r)), (27, 1, b2n x.blind)])
    else none

def lmpReg (d : Dev) (o : Nat) : Option RegVal :=
  let w := d.lmp.watch
  match o with
  | 0x000 => r32 (fields [(0, 2, w.mode), (2, 1, b2n w.faulted), (3, 4, w.cause), (7, 12, w.pc % 4096), (19, 1, b2n (intRefReady d)),
      (20, 1, b2n d.adc.extReady)])
  | 0x008 => r64 d.time.stampUs.toNat
  | 0x010 => r32 (fields [(2, 1, b2n w.loaded), (3, 13, if w.loaded then w.prog.length else 0)])
  | 0x018 => r32 d.lmp.noteCnt.toNat
  | 0x020 | 0x024 => r32 (fields [(0, 11, dutyOf d ((o - 0x20) / 4)), (11, 1, b2n (sFind d.lmp.duty ((o - 0x20) / 4)).isNone),
      (12, 6, cfgGet d 0x0608 0)])
  | 0x028 => r32 (fields [(0, 16, d.lmp.rpm.toNat), (16, 1, b2n d.lmp.stale)])
  | _ => none

def adcReg (d : Dev) (o : Nat) : Option RegVal :=
  let a := d.adc
  match o with
  | 0x000 => r32 (fields [(0, 1, a.mode), (1, 1, b2n a.run), (2, 1, b2n a.intRefOn), (3, 4, a.listLast), (7, 6, a.loopLast), (13, 19, a.listPeriod)])
  | 0x004 => r32 (fields [(0, 6, a.entry), (6, 1, b2n a.cur.isSome), (7, 1, b2n a.refWait), (8, 3, a.urgent.length), (11, 1, b2n a.urgentFull),
      (12, 1, b2n a.selfFail), (13, 19, a.passes.toNat)])
  | 0x008 => r32 0
  | 0x00C => r32 (fields [(0, 12, a.resCode.toNat), (12, 1, b2n a.resSat), (13, 1, b2n a.resFault), (14, 1, b2n a.resValid)])
  | _ =>
    if 0x100 ≤ o ∧ o < 0x160 ∧ o % 4 = 0 then r32 (chcfgOf d ((o - 0x100) / 4))
    else if 0x200 ≤ o ∧ o < 0x2C0 ∧ o % 8 = 0 then
      let n := (o - 0x200) / 8
      r64 (bits (sGet 0 a.win n).toNat 0 37 + (sGet {} a.res n).win * 2 ^ 37)
    else if 0x300 ≤ o ∧ o < 0x3C0 ∧ o % 8 = 0 then
      let r := sGet {} a.res ((o - 0x300) / 8)
      r64 (fields [(0, 12, r.raw.toNat), (12, 16, r.filt.toNat), (28, 1, b2n r.sat), (29, 1, b2n r.refFault), (30, 1, b2n r.valid),
        (32, 32, r.stamp.toNat)])
    else if 0x400 ≤ o ∧ o < 0x440 ∧ o % 4 = 0 then r32 (listEntry d ((o - 0x400) / 4))
    else if 0x500 ≤ o ∧ o < 0x600 ∧ o % 4 = 0 then r32 (loopEntry d ((o - 0x500) / 4))
    else none

/-- A core's page. Outside the scope of a debug session its debug registers read 0 (R370). -/
def corReg (d : Dev) (k o : Nat) : Option RegVal :=
  let c := getCore d k
  let two := (dbgFor d 2 (uCore k)).isSome
  let dbg : Nat → Option RegVal := fun v => r32 (if two then v else 0)
  match o with
  | 0x000 => (csrVal d k c 0).map fun v => (false, v.toNat)
  | 0x008 => (csrVal d k c 1).map fun v => (false, v.toNat)
  | 0x010 => (csrVal d k c 2).map fun v => (false, v.toNat)
  | 0x018 => (csrVal d k c 3).map fun v => (false, v.toNat)
  | 0x020 => (csrVal d k c 4).map fun v => (true, v.toNat)
  | 0x028 => (csrVal d k c 5).map fun v => (true, v.toNat)
  | 0x040 => r32 c.wd.toNat
  | 0x048 => r32 (fields [(3, 1, b2n (decide (c.state = 2))), (4, 1, b2n (c.traceEn && (dbgFor d 1 (uCore k)).isSome)), (5, 1, b2n c.attached)])
  | 0x050 | 0x054 | 0x058 | 0x05C => dbg (sGet 0 c.brk ((o - 0x50) / 4)).toNat
  | 0x060 | 0x064 => dbg (sGet 0 c.wp ((o - 0x60) / 4)).toNat
  | 0x100 => dbg c.dbgSel.toNat
  | _ => none

/-- Power domain of a register of BAR2; none for the Lantern's and the Lamplighter's, which VSTBY feeds. -/
def regDom (off : Nat) : Option Nat :=
  if 0x100000 ≤ off ∧ off < 0x210000 then some ((off - 0x100000) / 0x1000)
  else if 0x50000 ≤ off ∧ off < 0x60000 then some 365
  else if 0x60100 ≤ off ∧ off < 0x601C0 then some (349 + (off - 0x60100) / 4 % 16)
  else if 0x90100 ≤ off ∧ off < 0x90210 then some (272 + (off - 0x90100) / 4)
  else if 0xA0100 ≤ off ∧ off < 0xA0120 then some (366 + (off - 0xA0100) / 4)
  else if 0xA0200 ≤ off ∧ off < 0xA0240 then some (366 + (off - 0xA0200) / 8)
  else if 0xB0000 ≤ off ∧ off < 0xC0000 then none
  else if 0xC0000 ≤ off ∧ off < 0xD0000 then some 374
  else if 0xD0000 ≤ off ∧ off < 0x100000 then none
  else some 344

/-- The block of a register sleeps: it reads 0 and takes no write (R281). -/
def regAsleep (d : Dev) (off : Nat) : Bool :=
  match regDom off with
  | some n => decide ((getDom d n).state ≠ 0)
  | none => false

/-- The register at an offset of BAR2. -/
def bar2Reg (d : Dev) (off : Nat) : Option RegVal :=
  let o := off % 0x10000
  match off / 0x10000 with
  | 0x0 => mgtReg d o
  | 0x1 | 0x2 | 0x3 | 0x4 => cfgReg d (off - 0x10000)
  | 0x5 => hifReg d o
  | 0x6 => tilReg d o
  | 0x7 => srvReg d o
  | 0x8 => plcReg d o
  | 0x9 => attReg d o
  | 0xA => fabReg d o
  | 0xB => secReg d o
  | 0xC => pwrReg d o
  | 0xD => thmReg d o
  | 0xE => lmpReg d o
  | 0xF => adcReg d o
  | _ =>
    if 0x100000 ≤ off ∧ off < 0x210000 then corReg d ((off - 0x100000) / 0x1000) (off % 0x1000)
    else if 0x210000 ≤ off ∧ off < 0x210400 ∧ off % 4 = 0 then
      let p := physCore d ((off - 0x210000) / 4)
      r32 (if p < 272 then fields [(0, 9, p), (9, 1, 1)] else 0)
    else none

/-! BAR0 (R282, R283, R297, R299). -/

def ringReg (d : Dev) (fn : Nat) (cq : Bool) (n o : Nat) : Option RegVal :=
  if cq then
    let q := getCq d fn n
    match o with
    | 0 => r64 q.base.toNat
    | 8 => r32 (fields [(0, 5, q.sizeLog2.toNat), (8, 6, q.vector.toNat), (14, 1, b2n q.intEn), (16, 1, b2n q.enable), (20, 4, q.aggCount.toNat),
        (24, 8, q.aggUs.toNat)])
    | 12 => r32 (fields [(0, 16, q.tail.toNat), (16, 1, b2n q.phase), (17, 1, b2n q.active), (18, 1, b2n q.error), (19, 3, q.cause.toNat),
        (22, 1, b2n (!q.held.isEmpty))])
    | _ => none
  else
    let q := getSq d fn n
    match o with
    | 0 => r64 q.base.toNat
    | 8 => r32 (fields [(0, 5, q.sizeLog2.toNat), (8, 4, q.cq.toNat), (16, 1, b2n q.enable)])
    | 12 => r32 (fields [(0, 16, q.head.toNat), (16, 1, b2n q.active), (17, 1, b2n q.error), (18, 3, q.cause.toNat)])
    | _ => none

def bar0Reg (d : Dev) (fn off : Nat) : Option RegVal :=
  let f := getFn d fn
  match off with
  | 0x0000 => r32 (fields [(0, 16, 0x4505), (16, 8, stepping), (24, 4, 1)])
  | 0x0004 => r32 (fields [(0, 6, fn), (8, 6, fn), (16, 1, b2n (decide (fn = 0)))])
  | 0x0008 => r32 (fields [(0, 1, b2n f.ready), (1, 1, b2n (decide (slotState d fn = 2))), (2, 1, b2n d.sec.attached), (3, 1, b2n d.rel.reduced),
      (4, 1, b2n (fnRingError f)), (5, 1, b2n (decide (f.evtWcnt ≠ f.evtRcnt))), (6, 1, b2n (fnHeld f))])
  | 0x000C => r32 (fields [(0, 5, 16), (5, 5, 16), (10, 7, 64), (17, 5, 16)])
  | 0x0010 => r32 (fields [(0, 1, b2n f.evtEnable), (1, 1, b2n f.evtIntEn), (2, 6, f.evtVector.toNat), (8, 3, f.evtMinSev.toNat)])
  | 0x0014 => r32 f.evtWcnt.toNat
  | 0x0018 => r32 f.evtRcnt.toNat
  | 0x001C => r32 f.evtLost.toNat
  | 0x0020 => r64 (fields [(0, 21, f.pubCtx.toNat), (21, 21, cfgGet d 0x0301 fn)])
  | 0x0028 => r32 f.pubTokens.toNat
  | 0x002C => r32 d.hif.devPower.toNat
  | 0x9000 => r64 f.pba.toNat
  | _ =>
    if 0x100 ≤ off ∧ off < 0x300 then ringReg d fn (decide (0x200 ≤ off)) (off / 16 % 16) (off % 16)
    else if 0x8000 ≤ off ∧ off < 0x8400 ∧ off % 4 = 0 then
      let e := sGet {} f.msix (off / 16 % 64)
      match off % 16 with
      | 0 => r64 e.addr.toNat
      | 8 => r32 e.data.toNat
      | 12 => r32 (b2n e.masked)
      | _ => none
    else none

/-! Reads. -/

/-- Place of a latched high half: window and offset. -/
def latchKey (fn : Nat) (bar2 : Bool) (off : Nat) : Nat := (if bar2 then 2 ^ 40 else fn * 2 ^ 32) + off

/-- The core whose COR_DBG_DATA lies at an offset of BAR2. -/
def dbgDataCore (off : Nat) : Option Nat :=
  if 0x100000 ≤ off ∧ off < 0x210000 ∧ off % 0x1000 = 0x108 then some ((off - 0x100000) / 0x1000) else none

/-- Four bytes of a window (R281, R299, R303, R304); none for an offset outside the windows. What the operator region of HBM
holds at an offset the spec does not say: a free value while the window is open. -/
def windowWord (fn : Nat) (bar2 : Bool) (off : Nat) (d : Dev) : Option (Nat × Dev) :=
  if !bar2 then
    if 0x4000 ≤ off ∧ off < 0x8000 then
      match sFind (getFn d fn).evtRecs ((off - 0x4000) / 32) with
      | some r => some (fld (eventBytes r) (off % 32) 4, d)
      | none => some (0, d)
    else none
  else if 0x800000 ≤ off ∧ off < 0xA00000 then
    let slot := (off - 0x800000) / 32
    let first := d.log.count.toNat - d.log.recs.length
    let n := first + (slot + 65536 - first % 65536) % 65536
    match d.log.recs[n - first]? with
    | some r => some (fld (eventBytes r) (off % 32) 4, d)
    | none => some (0, d)
  else if 0xC00000 ≤ off ∧ off < 0x1000000 then
    if d.hif.winEnable && decide (d.hif.winBase.toNat * 2 ^ 22 + (off - 0xC00000) + 4 ≤ regionSize d 0) then
      let r := fresh 32 d
      some (r.1.toNat, r.2)
    else some (0, d)
  else none

/-- A 32-bit read (R15): the low half of a 64-bit register latches the high half for the next read of the high half; a high half
with nothing latched is a free value. -/
def read32 (fn : Nat) (bar2 : Bool) (off : Nat) (d : Dev) : Nat × Dev :=
  if off % 4 ≠ 0 || (bar2 && regAsleep d off) then (0, d) else
  let reg : Dev → Nat → Option RegVal := fun x o => if bar2 then bar2Reg x o else bar0Reg x fn o
  let latch : Nat → Dev → Dev := fun v x => { x with time.latches := sSet x.time.latches (latchKey fn bar2 (off + 4)) (BitVec.ofNat 32 v) }
  match windowWord fn bar2 off d with
  | some r => r
  | none => match (if bar2 then dbgDataCore off else none) with
    | some k =>
      let r := dbgPeek k d
      (r.1.toNat % 2 ^ 32, latch (r.1.toNat / 2 ^ 32) r.2)
    | none => match reg d off with
      | some (wide, v) => (v % 2 ^ 32, if wide then latch (v / 2 ^ 32) d else d)
      | none =>
        let high := off % 8 = 4 ∧ ((reg d (off - 4)).any (·.1) ∨ (bar2 ∧ (dbgDataCore (off - 4)).isSome))
        if !decide high then (0, d) else
          match sFind d.time.latches (latchKey fn bar2 off) with
          | some v => (v.toNat, { d with time.latches := sDel d.time.latches (latchKey fn bar2 off) })
          | none =>
            let r := fresh 32 d
            (r.1.toNat, r.2)

/-- A 64-bit read (R15): a 64-bit register in one piece, without the latch, or the two 32-bit registers that lie there. -/
def read64 (fn : Nat) (bar2 : Bool) (off : Nat) (d : Dev) : Nat × Dev :=
  let two : Nat × Dev :=
    let lo := read32 fn bar2 off d
    let hi := read32 fn bar2 (off + 4) lo.2
    (lo.1 + hi.1 * 2 ^ 32, hi.2)
  if off % 8 ≠ 0 || (bar2 && regAsleep d off) then (0, d)
  else match windowWord fn bar2 off d, (if bar2 then dbgDataCore off else none), if bar2 then bar2Reg d off else bar0Reg d fn off with
    | none, some k, _ => let r := dbgPeek k d; (r.1.toNat, r.2)
    | none, none, some (true, v) => (v, d)
    | _, _, _ => two

/-- A run of 32-bit reads, as bytes. -/
def readWords (fn : Nat) (bar2 : Bool) : Nat → Nat → Dev → Bytes × Dev
  | 0, _, d => ([], d)
  | n + 1, off, d =>
    let r := read32 fn bar2 off d
    let q := readWords fn bar2 n (off + 4) r.2
    (toLe 4 r.1 ++ q.1, q.2)

/-- REG_READ_LOW_HALF: a read by a function, of 32 bits or of 64; BAR2 is the PF's alone. -/
def execRegReadLowHalf (fn : FnIx) (bar2 : Bool) (off : ReadAt) (s : State) : Out :=
  run (onFn fn fun d => if bar2 && decide (fn.val ≠ 0) then emit (.readData 0) d else
    let r := if off.wide then read64 fn bar2 off.off d else read32 fn bar2 off.off d
    emit (.readData (BitVec.ofNat 64 r.1)) r.2) s

/-! Writes. v holds the bits written, m is 1 at each of them. -/

/-- A value with its written bits replaced. -/
def mergeBits (old v m : Nat) : Nat := (old - (old &&& m)) + (v &&& m)

def mgtPut (o v m : Nat) (d : Dev) : Dev :=
  match o with
  | 0x000 => if bitAt v 0 && !d.time.busy then { d with time.busy := true, time.valid := false } else d
  | 0x028 =>
    let w := mergeBits (fields [(0, 1, b2n d.hif.winEnable), (22, 42, d.hif.winBase.toNat)]) v m
    { d with hif.winEnable := bitAt w 0, hif.winBase := BitVec.ofNat 42 (w / 2 ^ 22) }
  | 0x04C =>
    let d1 := { d with rel.xchkSecs := BitVec.ofNat 10 (clampNat 10 60 (bits v 0 10)) }
    if bitAt v 10 then xchkNow d1 else d1
  | 0x050 => { d with rel.query := BitVec.ofNat 32 v, rel.queryValid := true }
  | _ => d

def tilPut (o v : Nat) (d : Dev) : Dev :=
  match o with
  | 0x018 => { d with
      arr.flagged := BitVec.ofNat 16 (bits v 0 16), arr.repeated := BitVec.ofNat 16 (bits v 16 16) }
  | 0x020 => { d with arr.query := BitVec.ofNat 32 v, arr.queryValid := true }
  | _ =>
    if 0x180 ≤ o ∧ o < 0x1C0 ∧ o % 4 = 0 then
      modDie ((o - 0x180) / 4) (fun x => { x with peak := bits v 11 11, waited := x.waited && !bitAt v 22 }) d
    else d

def srvPut (o v : Nat) (d : Dev) : Dev :=
  match o with
  | 0x000 => { d with
      srv.target := BitVec.ofNat 15 (clampNat 2000 20000 (bits v 0 15)), srv.share := BitVec.ofNat 7 (min 100 (bits v 15 7))
      srv.minChunk := BitVec.ofNat 10 (max 1 (bits v 22 10)) }
  | 0x004 =>
    let d1 := { d with num.policy.enable := bitAt v 0, num.policy.defaultOff := bitAt v 1 }
    if bitAt v 3 then policyReenable d1 else d1
  | 0x028 => { d with srv.query := BitVec.ofNat 20 v, srv.queryValid := true }
  | 0x02C => { d with num.flags := d.num.flags &&& ~~~(BitVec.ofNat 7 v) }
  | 0x038 =>
    let d1 := { d with srv.adm.enable := bitAt v 0 }
    let d2 := if bitAt v 2 then admitReenable d1 else d1
    if admitRuns d2 then d2 else admitAll d2
  | _ => d

def plcPut (o v : Nat) (d : Dev) : Dev :=
  match o with
  | 0x000 => { d with plc.seconds := BitVec.ofNat 10 (clampNat 1 600 (bits v 0 10)), plc.migRate := BitVec.ofNat 14 (min 10000 (bits v 10 14)) }
  | 0x004 => { d with plc.swapMin := BitVec.ofNat 32 v }
  | 0x018 => { d with plc.genQuery := BitVec.ofNat 16 v, plc.genValid := true }
  | 0x01C => { d with plc.attQuery := BitVec.ofNat 6 v, plc.attValid := true }
  | _ => d

def secPut (o v : Nat) (d : Dev) : Dev :=
  match o with
  | 0x008 => { d with sec.query := BitVec.ofNat 6 v, sec.queryValid := true }
  | 0x030 => mboxWrite (BitVec.ofNat 64 v) d
  | _ => d

/-- E and Bfull apply from the next window. -/
def pwrPut (o v : Nat) (d : Dev) : Dev :=
  match o with
  | 0x000 => { d with pwr.envW := clampNat 150 450 (bits v 0 10), pwr.envB := max 1 (bits v 10 16) }
  | 0x020 => { d with pwr.query := BitVec.ofNat 9 v, pwr.queryValid := true }
  | _ => d

def thmPut (o v : Nat) (d : Dev) : Dev :=
  match o with
  | 0x008 => { d with lmp.query := BitVec.ofNat 9 v, lmp.queryValid := true }
  | 0x010 => if bitAt v 0 then { d with pwr.cleared := true } else d
  | _ => d

def lmpPut (o v : Nat) (d : Dev) : Dev :=
  match o with
  | 0x000 => if bitAt v 2 then { d with lmp.watch.faulted := false } else d
  | 0x010 =>
    let d1 := if bitAt v 0 then progStart d else d
    if bitAt v 1 then progStop d1 else d1
  | _ => d

/-- Writing 1 to run while it is 1 triggers a list pass. -/
def adcPut (o v m : Nat) (d : Dev) : Dev :=
  match o with
  | 0x000 =>
    let d1 := adcConfig .ctl (BitVec.ofNat 64 v) d
    if d.adc.run && bitAt v 1 then listTrigger d1 else d1
  | 0x004 => if bitAt v 11 then { d with adc.urgentFull := false } else d
  | 0x008 => adcUrgent (bits v 0 5) d
  | _ =>
    if 0x100 ≤ o ∧ o < 0x160 ∧ o % 4 = 0 then
      (if h : (o - 0x100) / 4 < 24 then adcConfig (.chcfg ⟨(o - 0x100) / 4, h⟩) (BitVec.ofNat 64 v) d else d)
    else if 0x200 ≤ o ∧ o < 0x2C0 ∧ o % 8 = 0 then
      (if h : (o - 0x200) / 8 < 24 then
        adcConfig (.win ⟨(o - 0x200) / 8, h⟩) (BitVec.ofNat 64 (mergeBits (sGet 0 d.adc.win ((o - 0x200) / 8)).toNat v m)) d else d)
    else if 0x400 ≤ o ∧ o < 0x440 ∧ o % 4 = 0 then
      (if h : (o - 0x400) / 4 < 16 then adcConfig (.list ⟨(o - 0x400) / 4, h⟩) (BitVec.ofNat 64 v) d else d)
    else if 0x500 ≤ o ∧ o < 0x600 ∧ o % 4 = 0 then
      (if h : (o - 0x500) / 4 < 64 then adcConfig (.loop ⟨(o - 0x500) / 4, h⟩) (BitVec.ofNat 64 v) d else d)
    else d

/-- A debug register acts within the scope of an open session of level 2; its use is recorded (R370, R372). -/
def dbgPut (k cls : Nat) (f : CoreSt → CoreSt) (d : Dev) : Dev :=
  match dbgFor d 2 (uCore k) with
  | none => d
  | some x => modCore k f (if cls = 0 then d else dbgUse x cls (uCore k) (getCore d k).tenant.toNat d)

/-- COR_DBG_CTL: halt, resume, step at level 2, trace_en at level 1. -/
def dbgCtl (k v : Nat) (d : Dev) : Dev :=
  let d1 := if bitAt v 0 then dbgHalt k d else d
  let d2 := if bitAt v 1 then dbgResume k d1 else d1
  let d3 := if bitAt v 2 then dbgStep k d2 else d2
  match dbgFor d3 1 (uCore k) with
  | none => d3
  | some x =>
    if (getCore d3 k).traceEn = bitAt v 4 then d3
    else modCore k (fun c => { c with traceEn := bitAt v 4 }) (dbgUse x 0x07 (uCore k) (getCore d3 k).tenant.toNat d3)

def corPut (k o v m : Nat) (d : Dev) : Dev :=
  match o with
  | 0x008 => modCore k (csrWrite d k 1 (BitVec.ofNat 64 v)) d
  | 0x018 => modCore k (csrWrite d k 3 (BitVec.ofNat 64 v)) d
  | 0x028 => modCore k (csrWrite d k 5 (BitVec.ofNat 64 v)) d
  | 0x040 => modCore k (fun c => { c with wd := BitVec.ofNat 10 (clampNat 1 1000 (bits v 0 10)) }) d
  | 0x048 => dbgCtl k v d
  | 0x050 | 0x054 | 0x058 | 0x05C => dbgPut k 0x06 (fun c => { c with brk := sPut 0 c.brk ((o - 0x50) / 4) (BitVec.ofNat 32 (bits v 0 23)) }) d
  | 0x060 | 0x064 => dbgPut k 0x06 (fun c => { c with wp := sPut 0 c.wp ((o - 0x60) / 4) (BitVec.ofNat 32 (bits v 0 25)) }) d
  | 0x100 => dbgPut k 0 (fun c => { c with dbgSel := BitVec.ofNat 32 (v - bits v 4 4 * 16) }) d
  | 0x108 => dbgPoke k (BitVec.ofNat 64 (mergeBits (dbgRead (getCore d k)).toNat v m)) d
  | _ => d

/-- A write of the register at an offset of BAR2. -/
def bar2Put (off v m : Nat) (d : Dev) : Dev :=
  if regAsleep d off then d else
  let o := off % 0x10000
  match off / 0x10000 with
  | 0x0 => mgtPut o v m d
  | 0x6 => tilPut o v d
  | 0x7 => srvPut o v d
  | 0x8 => plcPut o v d
  | 0x9 => if o = 0 then { d with att.itemTarget := BitVec.ofNat 18 (clampNat 4096 262143 (bits v 0 18)) } else d
  | 0xB => secPut o v d
  | 0xC => pwrPut o v d
  | 0xD => thmPut o v d
  | 0xE => lmpPut o v d
  | 0xF => adcPut o v m d
  | _ => if 0x100000 ≤ off ∧ off < 0x210000 then corPut ((off - 0x100000) / 0x1000) (off % 0x1000) v m d else d

/-- A write of the MSI-X table; clearing a mask delivers a pending vector (R297). -/
def msixPut (fn vec o v m : Nat) (d : Dev) : Dev :=
  let f := getFn d fn
  let e := sGet {} f.msix vec
  let put : MsixEnt → Dev := fun x => setFn fn { f with msix := sPut {} f.msix vec x } d
  match o with
  | 0 => put { e with addr := BitVec.ofNat 64 (mergeBits e.addr.toNat v m) }
  | 8 => put { e with data := BitVec.ofNat 32 v }
  | 12 => if bitAt v 0 then put { e with masked := true } else msixUnmask fn vec d
  | _ => d

/-- A write of the register at an offset of BAR0. -/
def bar0Put (fn off v m : Nat) (d : Dev) : Dev :=
  let f := getFn d fn
  if off = 0x10 then evtCtl fn v d
  else if off = 0x1C then setFn fn { f with evtLost := BitVec.ofNat 32 (bits v 0 32) } d
  else if 0x100 ≤ off ∧ off < 0x200 then
    let n := off / 16 % 16
    match off % 16 with
    | 0 => let q := getSq d fn n
           if q.enable then d else setSq fn n { q with base := BitVec.ofNat 64 (mergeBits q.base.toNat v m / 4096 * 4096) } d
    | 8 => sqCtl fn n v d
    | _ => d
  else if 0x200 ≤ off ∧ off < 0x300 then
    let n := off / 16 % 16
    match off % 16 with
    | 0 => let q := getCq d fn n
           if q.enable then d else setCq fn n { q with base := BitVec.ofNat 64 (mergeBits q.base.toNat v m / 4096 * 4096) } d
    | 8 => cqCtl fn n v d
    | _ => d
  else if 0x8000 ≤ off ∧ off < 0x8400 then msixPut fn (off / 16 % 64) (off % 16) v m d
  else d

/-- Doorbells, one per 64 B, aligned 32-bit writes only: SQ tails from 1000h, CQ heads from 1400h, the event count at 1800h
(R284, R299). -/
def doorbell (fn off : Nat) (v : W32) (d : Dev) : Dev :=
  let n := (off - 0x1000) / 64
  if off % 64 ≠ 0 then d
  else if n < 16 then sqTail fn n v.toNat d
  else if n < 32 then cqHead fn (n - 16) v.toNat d
  else if n = 32 then evtDoorbell fn v d
  else d

/-- One register's write: the register at off, or the 64-bit register whose high half lies there. -/
def put32 (fn : Nat) (bar2 : Bool) (off v : Nat) (d : Dev) : Dev :=
  let reg : Nat → Option RegVal := fun o => if bar2 then bar2Reg d o else bar0Reg d fn o
  let put : Nat → Nat → Nat → Dev := fun o x m => if bar2 then bar2Put o x m d else bar0Put fn o x m d
  let wide : Nat → Bool := fun o => (reg o).any (·.1) || (bar2 && ((dbgDataCore o).isSome || decide (o = 0xB0030)))
  if off % 8 = 4 && wide (off - 4) then put (off - 4) (v * 2 ^ 32) (0xFFFFFFFF * 2 ^ 32) else put off v 0xFFFFFFFF

/-- A write by a function (R12, R281): naturally aligned, of 32 or 64 bits; a wide write of two 32-bit registers writes both. -/
def regWrite (fn : Nat) (bar2 : Bool) (off : Nat) (wide : Bool) (v : W64) (d : Dev) : Dev :=
  if bar2 && decide (fn ≠ 0) then d
  else if !bar2 && decide (0x1000 ≤ off ∧ off < 0x2000) then (if wide || off % 4 ≠ 0 then d else doorbell fn off (v.truncate 32) d)
  else if !wide then (if off % 4 ≠ 0 then d else put32 fn bar2 off (v.toNat % 2 ^ 32) d)
  else if off % 8 ≠ 0 then d
  else
    let reg := if bar2 then bar2Reg d off else bar0Reg d fn off
    if reg.any (·.1) || (bar2 && ((dbgDataCore off).isSome || decide (off = 0xB0030))) then
      (if bar2 then bar2Put off v.toNat (2 ^ 64 - 1) d else bar0Put fn off v.toNat (2 ^ 64 - 1) d)
    else put32 fn bar2 (off + 4) (v.toNat / 2 ^ 32) (put32 fn bar2 off (v.toNat % 2 ^ 32) d)

/-- REG_WRITE. -/
def execRegWrite (fn : FnIx) (bar2 : Bool) (off : Nat) (wide : Bool) (v : W64) (s : State) : Out :=
  run (onFn fn (regWrite fn bar2 off wide v)) s

end Sys2Proof.Machine
end

