-- ==== Sys2Proof/Machine/Mgmt.lean ====
section
/-! DEFINITION. Management commands on registers, the log, models, requests, variants, power and watch programs (R364). -/

namespace Sys2Proof.Machine

/-! Registers and the log. -/

/-- A block that has not started yet cannot be read or written (R431). -/
def notStarted (d : Dev) (off : Nat) : Bool := decide (d.pwr.mode = 2) && regAsleep d off

/-- Refuse with 1009h reason 3. -/
def mgmtLate (code : Nat) (id : W32) (sid : Option Nat) (d : Dev) : Dev := reply sid code id busy true [] (cfgEv 0x1009 2 [(16, 1, 3)] d)

/-- READ: the bytes a PF read of BAR2 returns. -/
def mgmtReadAct (id : W32) (off len : Nat) (sid : Option Nat) (d : Dev) : Dev :=
  if notStarted d off then mgmtLate 1 id sid d
  else
    let r := readWords 0 true (len / 4) off d
    reply sid 1 id done true r.1 r.2

def execMgmtRead (mc : MgmtCmd) (off len : Nat) (s : State) : Out :=
  run (mgmtGate mc 1 2 .lantern (decide (off % 4 = 0 ∧ 4 ≤ len ∧ len ≤ 16368 ∧ len % 4 = 0)) (mgmtReadAct mc.id off len)) s

/-- WRITE. -/
def mgmtWriteAct (id : W32) (off width : Nat) (v : W64) (sid : Option Nat) (d : Dev) : Dev :=
  if notStarted d off then mgmtLate 2 id sid d
  else reply sid 2 id done true [] (regWrite 0 true off (decide (width = 8)) v d)

def execMgmtWrite (mc : MgmtCmd) (off width : Nat) (v : W64) (s : State) : Out :=
  run (mgmtGate mc 2 1 .lantern (decide (off % 4 = 0) && decide (width = 4 ∨ width = 8)) (mgmtWriteAct mc.id off width v)) s

/-- Records of the log from a number on (R303). -/
def logFrom (d : Dev) (first count : Nat) : Bytes :=
  let base := d.log.count.toNat - d.log.recs.length
  (((d.log.recs.drop (first - base)).take (first + count - max first base)).flatMap eventBytes)

/-- READ_LOG. -/
def execReadLog (mc : MgmtCmd) (first count : Nat) (s : State) : Out :=
  run (mgmtGate mc 3 2 .hub (decide (1 ≤ count ∧ count ≤ 511)) fun sid d => reply sid 3 mc.id done true (logFrom d first count) d) s

/-! Models. -/

/-- What a model command of a management session does; bytes of the payload not in use are 0, flags 0 or 1 (R289). -/
def modelSub (o : Origin) (sub : Nat) (p : Bytes) (d : Dev) : Dev :=
  let m : W16 := BitVec.ofNat 16 (fld p 0 2)
  let g : W16 := BitVec.ofNat 16 (fld p 2 2)
  let bad := cmdEnd o 0x1001 m g d
  let z := fun (n : Nat) => zeros p n (96 - n)
  match sub with
  | 1 => if z 64 then loadAct o (p.take 64) d else bad
  | 2 => if z 4 then activateAct o m g d else bad
  | 3 => if z 5 && decide (fld p 4 1 ≤ 1) then retireAct o m g (decide (fld p 4 1 = 1)) d else bad
  | 4 => if z 6 && decide (fld p 4 1 ≤ 1 ∧ fld p 5 1 ≤ 1 ∧ fld p 2 2 = 0) then unloadAct o m (decide (fld p 4 1 = 1)) (decide (fld p 5 1 = 1)) d else bad
  | 5 => if z 2 then cancelLoadAct o m d else bad
  | 6 => if z 16 then hintAct o (p.take 16) d else bad
  | _ => bad

/-- The command is still outstanding in its session. -/
def stillPending (d : Dev) (sid : Option Nat) (id : W32) : Bool :=
  match sid with
  | none => false
  | some n => (getSess d n).any fun x => x.cmds.any fun c => c.id = id

/-- MODEL_COMMAND: the final response carries the 32-byte completion entry. -/
def modelCmd (id : W32) (sub : Nat) (p : Bytes) (sid : Option Nat) (d : Dev) : Dev :=
  let d1 := modelSub (.mgmt (sid.getD 0) id) sub p (addPend sid { id := id, code := 0x10 } d)
  if stillPending d1 sid id then reply sid 0x10 id accepted false [] d1 else d1

def execModelCommand (mc : MgmtCmd) (sub : Nat) (payload : Bytes) (s : State) : Out :=
  run (mgmtGate mc 0x10 1 .serving (decide (payload.length = 96 ∧ sub < 256)) (modelCmd mc.id sub payload)) s

/-! Requests and variants. -/

/-- A cancel applies to every request of the function in states 1–5 with the tag; it takes effect at the sailing end (R263). The
home forwards it to a member that serves the request (R330, log entry 23). -/
def cancelTag (fn : Nat) (tag : W32) (d : Dev) : Dev :=
  let hit := d.srv.ctxs.filter fun c => decide (c.2.fn = fn ∧ c.2.tag = tag ∧ 1 ≤ c.2.state ∧ c.2.state ≤ 5) && !isGuest d c.1
  let d1 := hit.foldl (fun x c => modCtx c.1 (fun y => { y with cancelled := true }) x) d
  hit.foldl (fun x c => match d.fab.migrs.find? fun m => m.ctx = c.1 && m.admitted with
    | some m => sendMsg 0x21 1 (tagOf x c.1) m.target [] (toLe 1 4 ++ toLe 4 c.1) x
    | none => x) d1

/-- CANCEL_REQUEST. -/
def execCancelRequest (mc : MgmtCmd) (fn : Nat) (tag : W32) (s : State) : Out :=
  run (mgmtGate mc 0x11 1 .serving (decide (fn < 64)) fun sid d => reply sid 0x11 mc.id done true [] (cancelTag fn tag d)) s

/-- A variant entry is well formed (R244). -/
def variantOk (e : Bytes) : Bool := decide (e.length = 16 ∧ fld e 6 1 < 64 ∧ fld e 7 1 < 8) && zeros e 8 8

/-- WRITE_VARIANT. -/
def execWriteVariant (mc : MgmtCmd) (variant : W16) (entry : Bytes) (s : State) : Out :=
  run (mgmtGate mc 0x12 1 .serving (variantOk entry) fun sid d =>
    reply sid 0x12 mc.id done true [] { d with
      srv.variants := if zeros entry 0 16 then sDel d.srv.variants variant.toNat else sSet d.srv.variants variant.toNat entry }) s

/-- READ_VARIANT. -/
def execReadVariant (mc : MgmtCmd) (variant : W16) (s : State) : Out :=
  run (mgmtGate mc 0x13 2 .serving true fun sid d =>
    reply sid 0x13 mc.id done true (padTo 16 ((sFind d.srv.variants variant.toNat).getD [])) d) s

/-! Power. -/

/-- STANDBY (R396, R431): refused while a context is live unless forced; during a start it waits until serving. -/
def standbyCmd (id : W32) (force : Bool) (sid : Option Nat) (d : Dev) : Dev :=
  match d.pwr.mode with
  | 2 => reply sid 0x21 id accepted false [] (addPend sid { id := id, code := 0x21 } { d with nor.standbyWaits := true })
  | 3 => if liveCtx d && !force then reply sid 0x21 id refusedNow true [] d else reply sid 0x21 id done true [] (standby 1 d)
  | _ => reply sid 0x21 id done true [] { d with pwr.restartDue := false }

def execStandby (mc : MgmtCmd) (force : Bool) (s : State) : Out :=
  run (mgmtGate mc 0x21 1 .lantern true (standbyCmd mc.id force)) s

/-- WAKE of a domain, or with 511 of the device. -/
def wakeAct (id : W32) (dom : Nat) (sid : Option Nat) (d : Dev) : Dev :=
  let d1 := if dom = 511 then deviceWake 6 d else if d.pwr.mode = 1 then d else domWake dom (wakeRecord 6 dom d)
  reply sid 0x22 id (if d1.pwr.mode = 1 then refusedNow else done) true [] d1

def execWakeCmd (mc : MgmtCmd) (dom : Nat) (s : State) : Out :=
  run (mgmtGate mc 0x22 1 .lantern (decide (dom ≤ 374 ∨ dom = 511)) (wakeAct mc.id dom)) s

/-! Watch programs (R420, R421). -/

/-- LOAD_WATCH_PROGRAM: a word that does not decode refuses the load with note 0007h. -/
def watchLoad (id : W32) (p : List W16) (sid : Option Nat) (d : Dev) : Dev :=
  match watchBad p with
  | some i => reply sid 0x40 id refusedNow true [] (note 0x0007 2 0 (BitVec.ofNat 32 i) d)
  | none => reply sid 0x40 id done true [] (watchQueue 1 p d)

def execLoadWatchProgram (mc : MgmtCmd) (n : Nat) (words : List W16) (s : State) : Out :=
  run (mgmtGate mc 0x40 1 .lantern (decide (1 ≤ n ∧ n ≤ 4096 ∧ words.length = n)) (watchLoad mc.id words)) s

/-- STOP_WATCH_PROGRAM. -/
def execStopWatchProgram (mc : MgmtCmd) (s : State) : Out :=
  run (mgmtGate mc 0x41 1 .lantern true fun sid d =>
    reply sid 0x41 mc.id (if d.lmp.watch.mode = 2 then done else refusedNow) true [] (progStop d)) s

/-- START_WATCH_PROGRAM. -/
def execStartWatchProgram (mc : MgmtCmd) (s : State) : Out :=
  run (mgmtGate mc 0x42 1 .lantern true fun sid d =>
    reply sid 0x42 mc.id (if d.lmp.watch.loaded && d.lmp.watch.stopped then done else refusedNow) true [] (progStart d)) s

end Sys2Proof.Machine
end

