-- ==== Sys2Proof/Machine/Sampler.lean ====
section
/-! DEFINITION. Sampling (R264, R265), speculation (R268, R269), beam steps (R266), tokeniser and detokeniser (R271, R272). -/

namespace Sys2Proof.Machine

/-! Generator (R264). -/

/-- One draw: the FP32 code of a value in [0, 1), and the next state. -/
def nextUniform (s : W64) : Nat × W64 :=
  let s1 := s + 0x9E3779B97F4A7C15
  let x1 := (s1 ^^^ (s1 >>> 30)) * 0xBF58476D1CE4E5B9
  let x2 := (x1 ^^^ (x1 >>> 27)) * 0x94D049BB133111EB
  let x3 := x2 ^^^ (x2 >>> 31)
  ((encFrac fp32 .rne false (x3 >>> 40).toNat (2 ^ 24)).code, s1)

/-! Distribution (R265). FP32 codes throughout. -/

def one32 : Nat := 0x3F800000
def lt32 (a b : Nat) : Bool := fltV (fdec fp32 a) (fdec fp32 b)

/-- The repetition penalty of each distinct token below the vocabulary size. -/
def penalise (rep : Nat) (toks z : List Nat) : List Nat :=
  toks.eraseDups.foldl (fun y t => match y[t]? with
    | none => y
    | some x => y.set t (if lt32 0 x then div32 x rep else mul32 x rep)) z

/-- A row with a NaN, or all −infinity, yields no token; so does a row without logits. -/
def rowBad (z : List Nat) : Bool :=
  z.isEmpty || z.any (fun x => fIsNan (fdec fp32 x)) || z.all fun x => decide (x = 0xFF800000)

def indexed (z : List Nat) : List (Nat × Nat) := (List.range z.length).map fun t => (t, z.getD t 0)

/-- The lowest token with the largest logit. -/
def argBest (z : List Nat) : Nat :=
  ((indexed z).foldl (fun (b : Option (Nat × Nat)) e => match b with
    | none => some e
    | some x => if lt32 x.2 e.2 then some e else b) none).elim 0 (·.1)

/-- Insertion into a list ordered by descending value, then ascending token. -/
def insDesc (e : Nat × Nat) : List (Nat × Nat) → List (Nat × Nat)
  | [] => [e]
  | y :: r => if lt32 y.2 e.2 || (!lt32 e.2 y.2 && decide (e.1 < y.1)) then e :: y :: r else y :: insDesc e r
def orderDesc (l : List (Nat × Nat)) : List (Nat × Nat) := l.foldl (fun acc e => insDesc e acc) []

def sum32 (l : List (Nat × Nat)) : Nat := l.foldl (fun a e => add32 a e.2) 0

/-- The shortest leading run whose sum, in order, reaches a limit. -/
def leadRun (lim : Nat) : Nat → List (Nat × Nat) → List (Nat × Nat)
  | _, [] => []
  | acc, e :: r =>
    let s := add32 acc e.2
    if lt32 s lim then e :: leadRun lim s r else [e]

/-- The run of a row and its sum: the tokens in order with their p; none for a row without a token. hist holds the history and
the row's ancestors. -/
def distribution (c : CtxSt) (z hist : List Nat) : Option (List (Nat × Nat) × Nat) :=
  if rowBad z then none else
    let z1 := penalise c.repPen.toNat hist z
    if c.mode = 0 then some ([(argBest z1, one32)], one32)
    else
      let o := orderDesc (indexed (z1.map fun x => div32 x c.temp.toNat))
      let kept := if c.topK = 0 then o else o.take c.topK
      match kept with
      | [] => none
      | first :: _ =>
        let p := kept.map fun e =>
          (e.1, if first.2 = fp32.inf then (if e.2 = fp32.inf then one32 else 0) else expF fp32 0 (sub32 e.2 first.2))
        let run := if c.topP.toNat = one32 then p else leadRun (mul32 c.topP.toNat (sum32 p)) 0 p
        some (run, sum32 run)

/-- draw of R265 over a run with its sum. -/
def drawRun (lim : Nat) : Nat → List (Nat × Nat) → Nat
  | _, [] => 0
  | _, [e] => e.1
  | acc, e :: r =>
    let s := add32 acc e.2
    if lt32 lim s then e.1 else drawRun lim s r

def drawToken (run : List (Nat × Nat)) (tot : Nat) (s : W64) : Nat × W64 :=
  let u := nextUniform s
  (drawRun (mul32 u.1 tot) 0 run, u.2)

/-- p of a token in a run, as a share of its sum; 0 outside it. -/
def shareOf (run : List (Nat × Nat)) (tot t : Nat) : Nat := match run.find? fun e => e.1 = t with
  | some e => div32 e.2 tot
  | none => 0

/-- Every p as a share of the sum; a run of zeros stays. -/
def normalise (run : List (Nat × Nat)) : List (Nat × Nat) :=
  let s := sum32 run
  if lt32 0 s then run.map fun e => (e.1, div32 e.2 s) else run

/-! Speculation (R268, R269). Verify node 0 is the pending token, node j + 1 candidate j. -/

/-- Candidates of a node, in index order: none is the pending token. -/
def childrenOf (cs : List Cand) (node : Option Nat) : List Nat := (List.range cs.length).filter fun j => (cs[j]?).any fun x => x.parent = node

/-- What a walk has come to: a child accepted, or the next token. -/
inductive Walk where
  | child (j : Nat) (s : W64)
  | token (t : Nat) (s : W64)
  deriving DecidableEq, Repr

/-- Children tried in index order against their own p (history lookup, trees): a rejected one gives up its share. -/
def tryChildren (cs : List Cand) : List Nat → List (Nat × Nat) → W64 → Walk
  | [], p, s => let r := drawToken p (sum32 p) s; .token r.1 r.2
  | j :: r, p, s =>
    let t := ((cs[j]?).map (·.tok)).getD 0
    let u := nextUniform s
    if lt32 u.1 (shareOf p one32 t) then .child j u.2
    else tryChildren cs r (normalise (p.map fun e => if e.1 = t then (t, 0) else e)) u.2

/-- One node of the walk. -/
def walkNode (c : CtxSt) (run : List (Nat × Nat)) (tot : Nat) (kids : List Nat) (s : W64) : Walk :=
  let tokOf : Nat → Nat := fun j => ((c.cands[j]?).map (·.tok)).getD 0
  if c.mode = 0 then
    (let t := (run.headD (0, 0)).1
     match kids.find? fun j => tokOf j = t with
     | some j => .child j s
     | none => .token t s)
  else if kids.isEmpty then (let r := drawToken run tot s; .token r.1 r.2)
  else if c.spec = 1 ∧ c.branches = 1 then
    match kids with
    | [] => .token 0 s
    | j :: _ =>
      let q := ((c.cands[j]?).map (·.q)).getD []
      let qOf : Nat → Nat := fun t => ((q.find? fun e => e.1 = t).map fun e => e.2.toNat).getD 0
      let x := tokOf j
      let u := nextUniform s
      let ratio := div32 (shareOf run tot x) (qOf x)
      if lt32 u.1 (if lt32 ratio one32 then ratio else one32) && !fIsNan (fdec fp32 ratio) then .child j u.2
      else
        let rest := run.map fun e =>
          let w := sub32 (div32 e.2 tot) (qOf e.1)
          (e.1, if lt32 0 w then w else 0)
        let r := drawToken (normalise rest) (sum32 (normalise rest)) u.2
        .token r.1 r.2
  else tryChildren c.cands kids (normalise run) s

/-- Acceptance from a node on: the candidates accepted in depth order, the next token and the generator; none when a row yields
no token. -/
def acceptFrom (c : CtxSt) (zOf : Nat → List Nat) : Nat → Option Nat → List Nat → List Nat → W64 → Option (List Nat × Nat × W64)
  | 0, _, _, _, _ => none
  | fuel + 1, node, path, acc, s =>
    match distribution c (zOf (node.elim 0 (· + 1))) (c.history ++ path) with
    | none => none
    | some (run, tot) =>
      match walkNode c run tot (childrenOf c.cands node) s with
      | .token t s' => some (acc, t, s')
      | .child j s' => acceptFrom c zOf fuel (some j) (path ++ [((c.cands[j]?).map (·.tok)).getD 0]) (acc ++ [j]) s'

/-- SPECULATION_ACCEPT; without candidates it is the plain row. -/
def acceptTokens (c : CtxSt) (zOf : Nat → List Nat) : Option (List Nat × Nat × W64) :=
  acceptFrom c zOf (c.cands.length + 1) none [] [] c.rng

/-- Where the last n tokens of a history occur latest before its end: the index after that occurrence. -/
def lastMatch (h : List Nat) (n : Nat) : Option Nat :=
  if n = 0 ∨ h.length ≤ n then none else
    let key := h.drop (h.length - n)
    ((List.range (h.length - n)).reverse.find? fun i => (h.drop i).take n = key).map (· + n)

/-- History lookup: a chain of the tokens that followed the latest earlier occurrence of the last 3, 2 or 1 tokens. -/
def lookupCands (h : List Nat) (len : Nat) : List Cand :=
  match lastMatch h 3 <|> lastMatch h 2 <|> lastMatch h 1 with
  | none => []
  | some i =>
    let ts := (h.drop i).take len
    (List.range ts.length).map fun k => ⟨ts.getD k 0, if k = 0 then none else some (k - 1), []⟩

/-- A row's run as shares, kept with the candidate drawn from it. -/
def sharesOf (c : CtxSt) (z hist : List Nat) : List (Nat × W32) := match distribution c z hist with
  | some (run, tot) => run.map fun e => (e.1, BitVec.ofNat 32 (div32 e.2 tot))
  | none => []

/-- The n-th most likely token of a row. -/
def nthBest (z : List Nat) (n : Nat) : Nat := ((orderDesc (indexed z))[n]?).elim 0 (·.1)

/-- Draft model: branches chains of spec_len nodes, branch-major. steps: logits after the pending token, then branch-major for
the nodes but the last of each. A row that yields no token ends the candidates. -/
def draftCands (c : CtxSt) (steps : List (List Nat)) : List Cand :=
  let z0 := steps.headD []
  if rowBad z0 ∨ steps.any rowBad then [] else
    (List.range c.branches).flatMap fun b =>
      ((List.range c.specLen).foldl (fun (acc : List Cand × List Nat) k =>
        let z := if k = 0 then z0 else steps.getD (1 + b * (c.specLen - 1) + (k - 1)) []
        let t := if k = 0 then nthBest z b else argBest z
        (acc.1 ++ [⟨t, if k = 0 then none else some (b * c.specLen + k - 1), sharesOf c z (c.history ++ acc.2)⟩], acc.2 ++ [t])) ([], [])).1

/-! Beams (R266). -/

/-- A candidate of a beam step: beam index, token, score. -/
structure BeamCand where
  beam : Nat
  tok : Nat
  score : Nat
  deriving DecidableEq, Repr

/-- Best first: higher score, then lower beam, then lower token. -/
def beamBefore (a b : BeamCand) : Bool :=
  lt32 b.score a.score || (!lt32 a.score b.score && (decide (a.beam < b.beam) || (a.beam = b.beam && decide (a.tok < b.tok))))
def insBeam (e : BeamCand) : List BeamCand → List BeamCand
  | [] => [e]
  | y :: r => if beamBefore e y then e :: y :: r else y :: insBeam e r

/-- The width best tokens of a beam, with its score sum. -/
def beamProposals (width beam score rep : Nat) (hist z : List Nat) : List BeamCand :=
  let z1 := penalise rep hist z
  let lp := (List.range z1.length).map fun t => (Config.logP z1 t).toNat
  ((orderDesc (indexed lp)).take width).map fun e => ⟨beam, e.1, add32 score e.2⟩

/-! Tokeniser (R271). -/

/-- Pieces: a new one begins before a space that follows a non-space byte, and before and after a line feed. -/
def pieces : Bytes → Option W8 → Bytes → List Bytes
  | [], _, cur => if cur.isEmpty then [] else [cur]
  | b :: r, last, cur =>
    let cut := b = 10 || last = some 10 || (b = 32 && last.any (· ≠ 32))
    if cut && !cur.isEmpty then cur :: pieces r (some b) [b] else pieces r (some b) (cur ++ [b])

def hasPair (a b : Nat) : List Nat → Bool
  | x :: y :: r => (x = a && y = b) || hasPair a b (y :: r)
  | _ => false
def joinPair (a b c : Nat) : List Nat → List Nat
  | x :: y :: r => if x = a ∧ y = b then c :: r else x :: joinPair a b c (y :: r)
  | l => l

/-- Replace pairs until none has a merge. -/
def joinAll (t : Bytes) : Nat → List Nat → List Nat
  | 0, l => l
  | n + 1, l => match (List.range (tokM t)).find? fun i => let m := tokMerge t i; hasPair m.1 m.2.1 l with
    | some i => let m := tokMerge t i; joinAll t n (joinPair m.1 m.2.1 m.2.2 l)
    | none => l

def tokenise (t : Bytes) (input : Bytes) : List Nat :=
  (if tokPrepend t then [tokStart t] else [])
    ++ (pieces input none []).flatMap fun p => joinAll t p.length (p.map fun b => tokByte t b.toNat)

/-! Detokeniser (R272). -/

/-- The replacement for an invalid sequence. -/
def badSeq : Bytes := [0xEF, 0xBF, 0xBD]

/-- Length of the sequence a first byte begins, and the range of its second byte. -/
def utf8Lead (b : Nat) : Option (Nat × Nat × Nat) :=
  if b < 0x80 then some (1, 0, 0)
  else if 0xC2 ≤ b ∧ b ≤ 0xDF then some (2, 0x80, 0xBF)
  else if b = 0xE0 then some (3, 0xA0, 0xBF)
  else if b = 0xED then some (3, 0x80, 0x9F)
  else if 0xE1 ≤ b ∧ b ≤ 0xEF then some (3, 0x80, 0xBF)
  else if b = 0xF0 then some (4, 0x90, 0xBF)
  else if 0xF1 ≤ b ∧ b ≤ 0xF3 then some (4, 0x80, 0xBF)
  else if b = 0xF4 then some (4, 0x80, 0x8F) else none

/-- Bytes at the front that continue the sequence, at most n. -/
def utf8Run : Nat → Nat → Nat → Bytes → Nat
  | 0, _, _, _ => 0
  | _, _, _, [] => 0
  | n + 1, lo, hi, b :: r => if lo ≤ b.toNat ∧ b.toNat ≤ hi then 1 + utf8Run n 0x80 0xBF r else 0

/-- What is written of a byte string, and the incomplete sequence held back at its end. -/
def utf8Out : Nat → Bytes → Bytes × Bytes
  | 0, bs => ([], bs)
  | _, [] => ([], [])
  | f + 1, b :: r => match utf8Lead b.toNat with
    | none => let x := utf8Out f r; (badSeq ++ x.1, x.2)
    | some (n, lo, hi) =>
      let g := utf8Run (n - 1) lo hi r
      if g = n - 1 then (let x := utf8Out f (r.drop g); (b :: r.take g ++ x.1, x.2))
      else if r.length = g then ([], b :: r)
      else let x := utf8Out f (r.drop g); (badSeq ++ x.1, x.2)

/-- Bytes a delivered token adds, and what is held back after it. -/
def detokenise (tok : Bytes) (skip : Bool) (held : Bytes) (t : Nat) : Bytes × Bytes :=
  let s := if skip && tokSpecial tok t then [] else if t < tokV tok then tokString tok t else []
  let x := held ++ s
  utf8Out (x.length + 1) x

end Sys2Proof.Machine
end

