-- ==== Sys2Proof/Machine/Compose.lean ====
section
/-! DEFINITION. Composition of a sailing (R250, R252, R253, R256, R270), admission (R254), resume (R249), the tier round (R202,
R204). -/

namespace Sys2Proof.Machine

/-- An SRV event, limited per code and tenant (R275). -/
def srvEv (code : W16) (sev : W8) (tenant : Nat) (fs : List (Nat × Nat × Nat)) (d : Dev) : Dev :=
  raiseNum ⟨code, BitVec.ofNat 16 tenant, 0⟩ sev tenant uDevice (pay fs) d

/-! Requests. -/

/-- The context is a request's own: no further beam and no draft context. -/
def isLead (c : CtxSt) : Bool := !c.beamMember && c.draftOf.isNone

/-- The generation a request is pinned to, or would be pinned to. -/
def genFor (d : Dev) (c : CtxSt) : Option (W16 × GenSt) :=
  if c.gen = 0 then activeGen d c.model else (getGen d c.model c.gen).map fun g => (c.gen, g)

/-- Contexts of a request's live beams, lead first; before the first token the lead alone (R266). -/
def liveBeams (i : Nat) (c : CtxSt) : List Nat :=
  (i :: c.beams).take (if c.generated = 0 then 1 else c.beamWidth - c.finished.length)

/-- Beams and draft contexts take the state of their request. -/
def syncGroup (i : Nat) (d : Dev) : Dev :=
  match getCtx d i with
  | none => d
  | some c => (c.beams ++ c.draftCtx.toList).foldl (fun x j =>
      modCtx j (fun y => { y with state := c.state, pausedAt := c.pausedAt, justPaused := c.justPaused }) x) d

/-- The request moves to or from another member, or is served there (R330). -/
def migrating (d : Dev) (i : Nat) : Bool := d.fab.migrs.any fun m => m.ctx = i

/-- The completions of a request are held: it takes no row and no chunk (R296). -/
def ringHeld (d : Dev) (c : CtxSt) : Bool := !(getCq d c.fn c.ring).held.isEmpty

/-- The request may be given work, or paused, in a composition. -/
def composable (d : Dev) (i : Nat) (c : CtxSt) : Bool :=
  isLead c && decide (1 ≤ c.state ∧ c.state ≤ 5) && !c.awaitHook && c.endWith.isNone && !c.cancelled && !migrating d i && (isGuest d i || !ringHeld d c)
    && decide (sGet 0 d.sec.slots c.tenant ≠ 2) && match genFor d c with
      | some g => decide (g.2.state = 3 ∨ g.2.state = 4)
      | none => false

/-- Own and cross pages of a request's contexts. -/
def groupPages (d : Dev) (i : Nat) (c : CtxSt) : List PageEnt :=
  (ctxGroup i c).flatMap fun j => match getCtx d j with
    | some x => (x.pages ++ x.cross).map (·.2)
    | none => []
/-- A page is parked, or a park of one is under way (R211). -/
def anyParked (d : Dev) (i : Nat) (c : CtxSt) : Bool :=
  (groupPages d i c).any (fun e => e.valid && e.tier = 2)
    || d.att.moves.any fun m => decide (m.tier = 2 ∧ m.key.own ≠ 2) && (ctxGroup i c).contains m.key.id
def anyDiscarded (d : Dev) (i : Nat) (c : CtxSt) : Bool := (groupPages d i c).any fun e => e.tier = 3

/-- State of a request whose pages are in tiers 0 and 1: recompute, prefill or decode (R249). -/
def runState (d : Dev) (i : Nat) (c : CtxSt) : Nat := if c.toFill = 0 then 3 else if anyDiscarded d i c then 5 else 2

/-! Costs (R252). -/

/-- Depth of a verify node below the pending token. -/
def candDepth (cs : List Cand) : Nat → Nat → Nat
  | 0, _ => 1
  | f + 1, j => match (cs[j]?).bind (·.parent) with
    | some p => candDepth cs f p + 1
    | none => 1

/-- What composition works with: target and budget in µs, s, the prefill share, min_chunk, the time in µs. -/
structure CompEnv where
  target : Rat
  b : Rat
  s : Rat
  share : Rat
  minChunk : Nat
  now : Rat

def tokenCost (g : GenSt) (keys : Nat) : Rat := g.r + g.a * (keys : Rat)

/-- Cost of a request's rows in a sailing: a decode row, its verify nodes, its live beams, and its draft's rows. -/
def rowCost (d : Dev) (s : Rat) (i : Nat) (c : CtxSt) (g : GenSt) : Rat :=
  let own := if c.mode = 2 then ((liveBeams i c).length : Rat) * tokenCost g c.length
    else (List.range c.cands.length).foldl (fun a j => a + tokenCost g (c.length + candDepth c.cands c.cands.length j)) (tokenCost g c.length)
  let draft := if c.spec ≠ 1 then 0 else match (c.draftCtx.bind (getCtx d)).bind (genFor d) with
    | some x => (List.range c.specLen).foldl (fun a k => a + (c.branches : Rat) * tokenCost x.2 (c.length + k)) 0
    | none => 0
  s * (own + draft)

/-- Cost of a chunk of n positions whose first sees v keys. -/
def chunkCost (s : Rat) (g : GenSt) (v n : Nat) : Rat := s * (((n : Nat) : Rat) * g.r + g.a * (((n * v + n * (n - 1) / 2) : Nat) : Rat))

/-- Keys the next unfilled position sees. -/
def chunkKeys (d : Dev) (c : CtxSt) : Nat := if c.state = 1 then prefixLen d c else c.length

/-! Slack (R256), in µs; none is infinite. -/

def slackOf (e : CompEnv) (c : CtxSt) (est : Rat) : Option Rat := c.due.map fun t => (t : Rat) / 1000 - (e.now + est)
def slackRow (e : CompEnv) (c : CtxSt) : Option Rat := slackOf e c e.target
/-- Decode without a row. -/
def slackWait (e : CompEnv) (c : CtxSt) : Option Rat := slackOf e c (e.target + e.target)
def slackFill (d : Dev) (e : CompEnv) (i : Nat) (c : CtxSt) (g : GenSt) : Option Rat :=
  if c.state = 2 ∧ c.lastChunk > 0 then slackOf e c ((ceilDiv c.toFill c.lastChunk : Nat) * e.target)
  else
    let c0 := max e.minChunk (if g.r > 0 ∧ e.b > 0 then (e.share * e.b / g.r).floor.toNat else e.minChunk)
    let parked := (groupPages d i c).foldl (fun a p => if p.valid ∧ p.tier = 2 then a + p.data.length else a) (0 : Nat)
    slackOf e c (e.target + (ceilDiv c.toFill c0 : Nat) * e.target + (if c.state = 5 then (parked : Rat) / 64000 else 0))

def slackLt (a b : Option Rat) : Bool :=
  match a, b with
  | some x, some y => decide (x < y)
  | some _, none => true
  | none, _ => false

/-- Lexicographic comparison of two keys of naturals. -/
def keyLt : List Nat → List Nat → Bool
  | a :: r, b :: q => decide (a < b) || (a = b && keyLt r q)
  | _, _ => false

/-- A request under consideration: its ID, context, slack. -/
structure CompReq where
  id : Nat
  c : CtxSt
  g : GenSt
  slack : Option Rat

/-- Keep order (R253): class; with a target before without; drop first among those; slack; acceptance. -/
def keepBefore (x y : CompReq) : Bool :=
  let k : CompReq → List Nat := fun r =>
    let t := r.c.ttft ≠ 0 ∨ r.c.tbt ≠ 0
    [r.c.cls, if t then 0 else 1, if t ∧ r.c.drop then 0 else 1]
  if k x ≠ k y then keyLt (k x) (k y)
  else if slackLt x.slack y.slack then true else if slackLt y.slack x.slack then false
  else keyLt [x.c.acceptedAt.toNat, x.id] [y.c.acceptedAt.toNat, y.id]

/-- Order of rows of A: slack, then context ID; of its prefill: class, slack, acceptance. -/
def rowBefore (x y : CompReq) : Bool := if slackLt x.slack y.slack then true else if slackLt y.slack x.slack then false else decide (x.id < y.id)
def fillBefore (x y : CompReq) : Bool :=
  if x.c.cls ≠ y.c.cls then decide (x.c.cls < y.c.cls)
  else if slackLt x.slack y.slack then true else if slackLt y.slack x.slack then false
  else keyLt [x.c.acceptedAt.toNat, x.id] [y.c.acceptedAt.toNat, y.id]
/-- Resume order: class 2 before 3, longest paused first. -/
def resumeBefore (x y : CompReq) : Bool := keyLt [x.c.cls, x.c.pausedAt.toNat, x.id] [y.c.cls, y.c.pausedAt.toNat, y.id]

/-! Placing work. -/

/-- A composition in progress. -/
structure Comp where
  left : Rat
  /-- Requests with rows, and chunk sizes by context. -/
  rows : List Nat := []
  chunks : Store Nat := []
  seqs : Nat := 0
  nodes : Nat := 0
  filled : Nat := 0
  gens : List Nat := []
  adapters : List Nat := []
  /-- Held back by the adapter limit. -/
  deferred : List Nat := []
  paused : List Nat := []
  resumed : List Nat := []
  /-- HBM granules the chunks of newly admitted requests take, by tenant. -/
  grans : Store Nat := []

/-- Why something was not placed: the budget, or another limit. -/
inductive Fit where
  | ok
  | budget
  | limit
  deriving DecidableEq, Repr

/-- Limits of R250 on generations and adapter sets. -/
def shareFits (k : Comp) (r : CompReq) (gk : List Nat) : Fit × Comp :=
  if decide (((k.gens ++ gk).dedup).length > 64) then (.limit, k)
  else match r.c.adapter with
    | none => (.ok, k)
    | some a => if !k.adapters.contains a.toNat && decide (k.adapters.length ≥ 256) then
        (.limit, { k with deferred := if k.deferred.contains r.id then k.deferred else k.deferred ++ [r.id] })
      else (.ok, k)

def takeShare (r : CompReq) (gk : List Nat) (k : Comp) : Comp :=
  { k with
    gens := gk.foldl (fun gs g => if gs.contains g then gs else gs ++ [g]) k.gens
    adapters := match r.c.adapter with
      | some a => if k.adapters.contains a.toNat then k.adapters else k.adapters ++ [a.toNat]
      | none => k.adapters }

/-- Generations whose rows a request's work runs: its own, and its draft model's (R250, R269). -/
def reqKeys (d : Dev) (c : CtxSt) : List Nat :=
  let key : CtxSt → List Nat := fun x => ((genFor d x).map fun g => genKey x.model g.1).toList
  key c ++ if c.spec = 1 then ((c.draftCtx.bind (getCtx d)).map key).getD [] else []

/-- Place a request's rows. -/
def placeRow (d : Dev) (e : CompEnv) (room : Rat) (r : CompReq) (k : Comp) : Fit × Comp :=
  let cost := rowCost d e.s r.id r.c r.g
  let n := if r.c.mode = 2 then (liveBeams r.id r.c).length else 1
  let v := if r.c.cands.isEmpty then 0 else r.c.cands.length + 1
  if cost > room ∨ cost > k.left then (.budget, k)
  else if k.seqs + n > 4096 ∨ k.nodes + v > 8192 then (.limit, k)
  else match shareFits k r (reqKeys d r.c) with
    | (.ok, k1) => (.ok, { takeShare r (reqKeys d r.c) k1 with
        left := k1.left - cost, rows := k1.rows ++ [r.id], seqs := k1.seqs + n, nodes := k1.nodes + v })
    | x => x

/-- The largest n up to hi whose cost beyond that of n0 fits. -/
def growMax (cost : Nat → Rat) (n0 hi : Nat) (room : Rat) : Nat :=
  ((List.range 14).map fun i => 2 ^ (13 - i)).foldl (fun n p => if n + p ≤ hi ∧ cost (n + p) - cost n0 ≤ room then n + p else n) n0

/-- HBM granules the pages of n more positions take. -/
def pageNeed (d : Dev) (c : CtxSt) (g : GenSt) (n : Nat) : Nat :=
  g.layers.foldl (fun a l => if l.attKind = 0 then a else a + pageGran l * (ceilDiv (c.length - prefixLen d c + n) 64 - ceilDiv (c.length - prefixLen d c) 64)) 0

/-- Extend a chunk while its cost fits: a new one reaches min_chunk or the rest of the prefill, and the pages of a request to be
admitted fit in the key–value area (R254). -/
def growChunk (d : Dev) (e : CompEnv) (room : Rat) (r : CompReq) (k : Comp) : Fit × Comp :=
  let n0 := sGet 0 k.chunks r.id
  let cost : Nat → Rat := chunkCost e.s r.g (chunkKeys d r.c)
  let n := growMax cost n0 (min r.c.toFill (n0 + (8192 - k.filled))) (min room k.left)
  if n = n0 then (if k.filled ≥ 8192 then .limit else .budget, k)
  else if n0 = 0 ∧ n < min e.minChunk r.c.toFill then (.budget, k)
  else
    let need := if r.c.state = 1 then pageNeed d r.c r.g n else 0
    let had := sGet 0 k.grans r.c.tenant
    if r.c.state = 1 ∧ kvUsed d r.c.tenant + had + need > kvArea d r.c.tenant then (.limit, k)
    else match shareFits k r (reqKeys d r.c) with
      | (.ok, k1) => (.ok, { takeShare r (reqKeys d r.c) k1 with
          left := k1.left - (cost n - cost n0), chunks := sSet k1.chunks r.id n, filled := k1.filled + (n - n0)
          grans := if n0 = 0 ∧ need ≠ 0 then sSet k1.grans r.c.tenant (had + need) else k1.grans })
      | x => x

/-- Place requests in order; the first that does not fit the budget ends the placing, a limit passes one over. on_ is done to each
request left out. -/
def placeAll (place : CompReq → Comp → Fit × Comp) (out_ : CompReq → Comp → Comp) : List CompReq → Bool → Comp → Comp
  | [], _, k => k
  | r :: rest, stop, k =>
    if stop then placeAll place out_ rest true (out_ r k) else
      match place r k with
      | (.ok, k1) => placeAll place out_ rest false k1
      | (.budget, k1) => placeAll place out_ rest true (out_ r k1)
      | (.limit, k1) => placeAll place out_ rest false (out_ r k1)

def pauseReq (r : CompReq) (k : Comp) : Comp := { k with paused := k.paused ++ [r.id] }

/-- compose() of R252 over the requests that may be given work. -/
def composeSteps (d : Dev) (e : CompEnv) (reqs : List CompReq) (k0 : Comp) : Comp :=
  let a := reqs.filter fun r => r.c.cls ≤ 1
  let cc := reqs.filter fun r => r.c.cls ≥ 2
  let decode : CompReq → Bool := fun r => r.c.state = 3 && r.c.toFill = 0
  let fill : CompReq → Bool := fun r => r.c.state = 1 || r.c.state = 2 || (r.c.state = 3 && decide (r.c.toFill > 0)) || (r.c.state = 5 && decide (r.c.toFill > 0) && !anyParked d r.id r.c)
  let withSlack : (CompReq → Option Rat) → List CompReq → List CompReq := fun f l => l.map fun r => { r with slack := f r }
  let rowSlack := withSlack fun r => slackRow e r.c
  let fillSlack := withSlack fun r => slackFill d e r.id r.c r.g
  -- 1: rows of A
  let ra := a.filter decode
  let all := ra.foldl (fun x r => x + rowCost d e.s r.id r.c r.g) 0
  let ra1 := if all > k0.left then sortBy rowBefore (rowSlack ra) else ra
  let k1 := placeAll (fun r k => placeRow d e k.left r k) (fun _ k => k) ra1 false k0
  -- 2: prefill of A up to its share
  let fa := sortBy fillBefore (fillSlack (a.filter fill))
  let cap := e.share * e.b
  let k2 := fa.foldl (fun k r => (growChunk d e (cap - (k1.left - k.left)) r k).2) k1
  -- 3: rows of C in keep order, within the class caps
  let capOf : Nat → Rat := fun c => (sGet 100 d.srv.caps c : Nat) * e.b / 100
  let rc := sortBy keepBefore (rowSlack (cc.filter decode))
  let placeC : CompReq → Comp → Fit × Comp := fun r k =>
    let spent := (rc.filter fun x => x.c.cls = r.c.cls && k.rows.contains x.id).foldl (fun s x => s + rowCost d e.s x.id x.c x.g) 0
    if spent + rowCost d e.s r.id r.c r.g > capOf r.c.cls then (.limit, k) else placeRow d e k.left r k
  let k3 := placeAll placeC pauseReq rc false k2
  -- 4: prefill of A beyond the share, then of C
  let k4 := fa.foldl (fun k r => (growChunk d e k.left r k).2) k3
  let fc := sortBy keepBefore (fillSlack (cc.filter fill))
  let k5 := placeAll (fun r k => growChunk d e k.left r k) (fun r k => if (r.c.state = 2 ∨ r.c.state = 3) ∧ sGet 0 k.chunks r.id = 0 then pauseReq r k else k) fc false k4
  -- 5: resume
  if k5.left * 10 < e.b then k5 else
    let rs := sortBy resumeBefore (cc.filter fun r => r.c.state = 4 && !r.c.justPaused)
    rs.foldl (fun k r =>
      let r1 := { r with c := { r.c with cands := [] } }
      if anyParked d r.id r.c then
        (if rowCost d e.s r.id r1.c r.g ≤ k.left then { k with resumed := k.resumed ++ [r.id] } else k)
      else
        match (if r.c.toFill = 0 then placeRow d e k.left r1 k else growChunk d e k.left r1 k) with
        | (.ok, k1) => { k1 with resumed := k1.resumed ++ [r.id] }
        | (_, k1) => k1) k5

/-! Speculation that can no longer run (R270), resuming, admission (R254). -/

/-- The draft model of a request is unresident or unavailable: it continues without speculation; B006h once. -/
def draftCheck (i : Nat) (d : Dev) : Dev :=
  match getCtx d i with
  | none => d
  | some c =>
    let m := getModel d c.draft
    let live := decide (m.state = 1) && match c.draftCtx.bind (getCtx d) with
      | some x => (match genFor d x with
        | some g => decide (g.2.state = 3 ∨ g.2.state = 4)
        | none => false)
      | none => false
    if c.spec ≠ 1 ∨ live then d else
      let d1 := (c.draftCtx.toList).foldl (fun x j => freeCtx1 j x) d
      let d2 := setCtx i { c with spec := 0, cands := [], draftCtx := none, specTold := true } d1
      if c.specTold then d2 else srvEv 0xB006 2 c.tenant [(16, 4, i), (20, 2, c.draft.toNat)] d2

/-- A prefix fits a request and a generation (R209). -/
def prefixUsable (d : Dev) (tenant : Nat) (model gen : W16) (n : W16) : Bool := match getPrefix d n with
  | some p => decide (p.state = 2 ∧ p.model = model ∧ p.gen = gen ∧ (p.tenant = tenant ∨ p.tenant = 0))
  | none => false
def adapterUsable (d : Dev) (tenant : Nat) (model gen : W16) (n : W16) : Bool := match sFind d.att.adapters n.toNat with
  | some a => decide (a.state = 2 ∧ a.model = model ∧ a.gen = gen ∧ (a.tenant = tenant ∨ a.tenant = 0))
  | none => false

/-- Status of a request that does not fit the generation about to be pinned; 0 where it fits. -/
def admitStatus (d : Dev) (c : CtxSt) (g : W16) : W16 :=
  if (c.prefix_.any fun n => !prefixUsable d c.tenant c.model g n) then 0x1003
  else if (c.adapter.any fun n => !adapterUsable d c.tenant c.model g n) then 0x1004 else 0

/-- Pin a context to a generation; its prefix gains a reference. -/
def pinCtx (g : W16) (j : Nat) (d : Dev) : Dev :=
  match getCtx d j with
  | none => d
  | some c =>
    let d1 := setCtx j { c with gen := g, state := 2, length := prefixLen d c } d
    match c.prefix_.bind fun n => (getPrefix d n).map fun p => (n, p) with
    | some (n, p) => { d1 with att.prefixes := sSet d1.att.prefixes n.toNat { p with refs := p.refs + 1 } }
    | none => d1

/-- Admission of a request with its first chunk, or its end at this sailing's end (cause 5 of R261). -/
def admitReq (i : Nat) (d : Dev) : Dev :=
  match getCtx d i with
  | none => d
  | some c => match activeGen d c.model with
    | none => d
    | some g =>
      let st := admitStatus d c g.1
      if st ≠ 0 then setCtx i { c with endWith := some st } d
      else
        let d1 := (i :: c.beams).foldl (fun x j => pinCtx g.1 j x) d
        match c.draftCtx, activeGen d c.draft with
        | some j, some h => pinCtx h.1 j d1
        | _, _ => d1

/-- Parked pages of a request are fetched: PCIe reads of the parking area (R206). One that is still being parked follows when the park
has completed (R211). -/
def fetchPages (i : Nat) (c : CtxSt) (d : Dev) : Dev :=
  ((allPages d).filter fun e => decide (e.1.own.val ≤ 1 ∧ e.2.tier = 2) && e.2.valid && (ctxGroup i c).contains e.1.id).foldl
    (fun x e => fetchPage e.1 x) d

/-- A paused request is resumed. -/
def resumeReq (i : Nat) (d : Dev) : Dev :=
  match getCtx d i with
  | none => d
  | some c =>
    let d1 := if anyParked d i c then fetchPages i c d else d
    syncGroup i (modCtx i (fun x => { x with state := if anyParked d i c then 5 else runState d i c, pausedAt := 0, cands := [] }) d1)

/-- A request is paused: its candidates are dropped (R270). -/
def pauseCtx (i : Nat) (d : Dev) : Dev :=
  syncGroup i (modCtx i (fun x => { x with state := 4, pausedAt := d.time.cpNs, justPaused := true, cands := [] }) d)

/-- A resuming request whose pages are back, and which has nothing to recompute, runs again. -/
def settleResuming (i : Nat) (d : Dev) : Dev :=
  match getCtx d i with
  | none => d
  | some c => if c.state = 5 ∧ !anyParked d i c then syncGroup i (setCtx i { c with state := runState d i c } d) else d

/-- Rows and chunks of a composition as the sailing holds them. -/
def sailRows (d : Dev) (k : Comp) : List SailRow :=
  k.rows.flatMap (fun i => match getCtx d i with
    | none => []
    | some c =>
      if c.mode = 2 then (liveBeams i c).map fun j => ⟨j, 1, c.length, 1⟩
      else if c.cands.isEmpty then [⟨i, 1, c.length, 1⟩] else [⟨i, 2, c.length, c.cands.length + 1⟩])
  ++ k.chunks.filterMap fun e => match getCtx d e.1 with
    | some c => if c.endWith.isSome then none else some ⟨e.1, 0, c.length, e.2⟩
    | none => none

/-- Layers of generations begin: those with a switch that waits for nothing run under their new recipe (R136). -/
def layersBegin (gens : List Nat) (d : Dev) : Dev :=
  d.num.pending.foldl (fun x p => if p.2.waitEpochs.isNone && gens.contains (p.1 / 65536) then applySwitch p.1 p.2 x else x) d

/-- Compose the next sailing and issue it. -/
def composeSailing (d : Dev) : Dev :=
  let d0 := (d.srv.ctxs.map (·.1)).foldl (fun x i => settleResuming i (draftCheck i x)) d
  let cand := d0.srv.ctxs.filterMap fun e => if composable d0 e.1 e.2 then (genFor d0 e.2).map fun g => (⟨e.1, e.2, g.2, none⟩ : CompReq) else none
  let work := cand.filter fun r => r.c.state ≠ 4
  let gens := (work.flatMap fun r => reqKeys d0 r.c).eraseDups
  let fixed := gens.foldl (fun a k => a + ((sFind d0.plc.gens k).map (·.f)).getD 0) 0
  let target : Rat := (d0.srv.target.toNat : Nat)
  let b := target - d0.srv.s * fixed - (d0.srv.servedUs : Nat)
  let e : CompEnv := { target := target, b := b, s := d0.srv.s, share := (d0.srv.share.toNat : Nat) / 100
                       minChunk := max 1 d0.srv.minChunk.toNat, now := (d0.time.cpNs.toNat : Rat) / 1000 }
  let k := composeSteps d0 e cand { left := b }
  let d1 := { d0 with srv.ctxs := d0.srv.ctxs.map fun c => (c.1, { c.2 with justPaused := false }) }
  let d2 := k.resumed.foldl (fun x i => resumeReq i x) d1
  let fresh_ := (k.chunks.map (·.1)).filter fun i => (getCtx d2 i).any fun c => c.state = 1
  let d3 := fresh_.foldl (fun x i => admitReq i x) d2
  let d4 := k.paused.foldl (fun x i => pauseCtx i x) d3
  let tenants := (k.deferred.map fun i => ((getCtx d4 i).map (·.tenant)).getD 0).eraseDups
  let d5 := tenants.foldl (fun x t =>
    srvEv 0xB007 1 t [(16, 4, (k.deferred.filter fun i => (getCtx x i).any fun c => c.tenant = t).length)] x) d4
  let rows := sailRows d5 k
  let used := k.gens.foldl (fun a g => a + ((sFind d5.plc.gens g).map (·.f)).getD 0) 0
  let est := d5.srv.s * used + (b - k.left)
  let given := headAssign d5 rows
  let d6 := { d5 with
    srv.sail := { rows := rows, startNs := d5.time.cpNs, target := d5.srv.target.toNat, estimate := est, running := true }
    srv.sailNo := d5.srv.sailNo + 1, att.given := given, att.assign := pipeLoads given }
  -- a layer runs under its new recipe when it next begins (R136)
  layersBegin (rows.flatMap fun r => ((getCtx d6 r.ctx).map fun c => reqKeys d6 c).getD []) d6

/-! The tier round (R202–R204). -/

/-- Page index j of a layer holds a key that some row of a sailing row sees (R192). base: position of the map's page 0. -/
def pageSeen (l : LayerInfo) (r : RowSpan) (base j : Nat) : Bool :=
  r.n ≠ 0 && decide (seenIn l r r.start (r.start + r.n - 1) (base + 64 * j) (base + 64 * j + 64) ≠ 0)

/-- A page of a map was read in the sailing: some row of a context in cs sees a key of it. -/
def pageRead? (d : Dev) (rows : List SailRow) (uses : Nat → CtxSt → Bool) (cross : Bool) (base : CtxSt → Nat) (key : Nat) : Bool :=
  rows.any fun r => (getCtx d r.ctx).any fun c => uses r.ctx c && match layerOf d c (key / 16384) with
    | some l => decide (l.attKind ≠ 0) && isCross l == cross && pageSeen l (sailSpan d c (key / 16384) l r) (base c) (key % 16384)
    | none => false

/-- Heat counts the sailings in which a page was read, halved every 16 sailings. -/
def heatStep (d : Dev) : Dev :=
  let halve := decide (d.srv.sailNo % 16 = 0)
  let up : Bool → Nat × PageEnt → Nat × PageEnt := fun read e =>
    let h := if read && e.2.valid && decide (e.2.tier ≤ 1) then satAdd 16 e.2.heat.toNat 1 else e.2.heat.toNat
    (e.1, { e.2 with heat := BitVec.ofNat 16 (if halve then h / 2 else h) })
  let rows := d.srv.sail.rows
  { d with
    srv.ctxs := d.srv.ctxs.map fun c => (c.1, { c.2 with
      pages := c.2.pages.map fun e => up (pageRead? d rows (fun i _ => i = c.1) false (prefixLen d) e.1) e
      cross := c.2.cross.map fun e => up (pageRead? d rows (fun i _ => i = c.1) true (fun _ => 0) e.1) e })
    att.prefixes := d.att.prefixes.map fun p => (p.1, { p.2 with
      map := p.2.map.map fun e => up (pageRead? d rows (fun _ c => c.prefix_ = some (BitVec.ofNat 16 p.1)) false (fun _ => 0) e.1) e }) }

/-- The last own page of a layer of a decoding context. -/
def isTail (d : Dev) (k : PageKey) : Bool := k.own = 0 && (getCtx d k.id).any fun c =>
  c.state = 3 && !(c.pages.any fun e => decide (e.1 / 16384 = k.layer.toNat ∧ e.1 % 16384 > k.index.val))

/-- Hotter first; on ties tail pages of decoding contexts, prefix pages with more references, the lower context ID. -/
def hotBefore (d : Dev) (a b : PageKey × PageEnt) : Bool :=
  let refs : PageKey → Nat := fun k => if k.own = 2 then ((sFind d.att.prefixes k.id).map (·.refs)).getD 0 else 0
  let t : PageKey → Nat := fun k => if isTail d k then 0 else 1
  if a.2.heat ≠ b.2.heat then decide (a.2.heat.toNat > b.2.heat.toNat)
  else if t a.1 ≠ t b.1 then decide (t a.1 < t b.1)
  else if refs a.1 ≠ refs b.1 then decide (refs a.1 > refs b.1)
  else keyLt [a.1.id, a.1.own.val, a.1.layer.toNat, a.1.index.val] [b.1.id, b.1.own.val, b.1.layer.toNat, b.1.index.val]

/-- Start a move (R205); a page into which an append or a commit is pending waits for the next tier round. -/
def startMove (k : PageKey) (tier : Nat) (d : Dev) : Dev :=
  match getPage d k with
  | none => d
  | some e => if e.moving ∨ e.tier = tier ∨ moveBlocked d k then d else
      { setPage k { e with moving := true } d with att.moves := d.att.moves ++ [⟨k, tier⟩] }

/-- The hot store takes the hottest pages that fit, each whole in the lowest bank with room; the others leave it. -/
def hotRound (d : Dev) : Dev :=
  let ps := (allPages d).filter fun e => e.2.valid && decide (e.2.tier ≤ 1)
  let want := ((sortBy (hotBefore d) ps).foldl (fun (acc : List PageKey × List Nat) e =>
    let n := granOf d e.1
    match (List.range 4).find? fun b => decide (acc.2.getD b 0 + n ≤ hotBank) with
    | some b => (e.1 :: acc.1, acc.2.set b (acc.2.getD b 0 + n))
    | none => acc) ([], [0, 0, 0, 0])).1
  ps.foldl (fun x e => if want.contains e.1 then startMove e.1 0 x else if e.2.tier = 0 then startMove e.1 1 x else x) d

/-- Parking granules taken, those of parks under way with them. -/
def parkTaken (d : Dev) : Nat := d.att.moves.foldl (fun a m => if m.tier = 2 then a + granOf d m.key else a) (parkUsed d)

/-- Granules the rows of the next sailing may add for a tenant. -/
def nextNeed (d : Dev) (t : Nat) : Nat :=
  d.srv.sail.rows.foldl (fun a r => match getCtx d r.ctx with
    | some c => if c.tenant = t then a + ((getGen d c.model c.gen).map fun g => pageNeed d c g r.n).getD 0 else a
    | none => a) 0

/-- Free a request's room: its pages are parked while the area has room, else discarded from the last index down. -/
def freeRoom (t : Nat) (short : Nat → Dev → Nat) (i : Nat) (d : Dev) : Dev :=
  match getCtx d i with
  | none => d
  | some c =>
    let mine := ((allPages d).filter fun e => decide (e.1.own.val ≤ 1) && (ctxGroup i c).contains e.1.id && e.2.valid && decide (e.2.tier ≤ 1) && !e.2.moving)
    let parked := mine.foldl (fun (acc : Dev × Nat × Nat) e =>
      let n := granOf d e.1
      if acc.2.1 = 0 ∨ acc.2.2 + n > parkArea d then acc else (startMove e.1 2 acc.1, acc.2.1 - n, acc.2.2 + n)) (d, short t d, parkTaken d)
    if parked.2.1 = 0 then parked.1 else
      let top := (mine.filter fun e => e.1.own = 0).foldl (fun a e => max a (e.1.index.val + 1)) 0
      match (List.range top).reverse.find? fun j => short t ((ctxGroup i c).foldl (fun x k => discardFrom k j x) parked.1) = 0 with
      | some j => (ctxGroup i c).foldl (fun x k => discardFrom k j x) parked.1
      | none => (ctxGroup i c).foldl (fun x k => discardFrom k 0 x) parked.1

/-- Granules a tenant lacks: use and the sailing's need beyond the area, less what moves to the host already. -/
def shortOf (t : Nat) (d : Dev) : Nat :=
  let going := d.att.moves.foldl (fun a m => if m.tier = 2 ∧ pageTenant d m.key = t then a + granOf d m.key else a) 0
  kvUsed d t + nextNeed d t - kvArea d t - going

/-- TIER_ROUND. -/
def tierRound (d : Dev) : Dev :=
  let d1 := hotRound d
  let tenants := (d1.srv.sail.rows.filterMap fun r => (getCtx d1 r.ctx).map (·.tenant)).eraseDups
  tenants.foldl (fun x t =>
    let order := sortBy (fun (a b : Nat × CtxSt) => keyLt [3 - a.2.cls, a.2.pausedAt.toNat, a.1] [3 - b.2.cls, b.2.pausedAt.toNat, b.1])
      (x.srv.ctxs.filter fun c => isLead c.2 && decide (c.2.state = 4 ∧ c.2.tenant = t))
    order.foldl (fun y c => if shortOf t y = 0 then y else freeRoom t shortOf c.1 y) x) d1

end Sys2Proof.Machine
end

