-- ==== Sys2Proof/Machine/Requests.lean ====
section
/-! DEFINITION. Requests: the record and its checks (R244, R245, R287), acceptance (R246, R264), cancels (R263, R288), failed host
reads (R285), the deadline summary and the context query (R275). -/

namespace Sys2Proof.Machine

/-! The record (R244). Offsets are those of the submission entry: the record begins at byte 32. -/

def rSel (e : Bytes) (n : Nat) : Bool := bitAt (fld e 40 1) n
def rInKind (e : Bytes) : Nat := bits (fld e 42 1) 0 2
def rOutKind (e : Bytes) : Nat := bits (fld e 42 1) 2 2
def rMode (e : Bytes) : Nat := fld e 43 1
def rSpec (e : Bytes) : Nat := bits (fld e 83 1) 0 2
def rWidth (e : Bytes) : Nat := if rMode e = 2 then fld e 82 1 else 1
def rInLen (e : Bytes) : Nat := fld e 16 4
def rResLen (e : Bytes) : Nat := fld e 20 4

/-- An FP32 code lies in [lo, hi]. -/
def fp32In (lo hi x : Nat) : Bool := !fIsNan (fdec fp32 x) && !lt32 x lo && !lt32 hi x

/-- Every field of the record in range, every reserved field 0; ignored fields are not checked. -/
def recordValid (e : Bytes) : Bool :=
  decide (fld e 40 1 < 32 ∧ fld e 41 1 ≤ 3 ∧ rInKind e ≤ 2 ∧ rOutKind e ≤ 2 ∧ fld e 42 1 < 16 ∧ rMode e ≤ 2)
    && decide (1 ≤ fld e 52 4 ∧ fld e 52 4 ≤ 1048576)
    && (rMode e ≠ 1 || (fp32In 0x3C23D70A 0x41800000 (fld e 56 4) && fp32In 0 one32 (fld e 60 4) && lt32 0 (fld e 60 4) && decide (fld e 80 2 ≤ 256)))
    && fp32In one32 0x40800000 (fld e 64 4)
    && (rMode e ≠ 2 || (fp32In 0 0x40000000 (fld e 68 4) && decide (2 ≤ fld e 82 1 ∧ fld e 82 1 ≤ 16)))
    && decide (fld e 83 1 ≤ 2)
    && (rSpec e = 0 || decide (1 ≤ fld e 84 1 ∧ fld e 84 1 ≤ 8))
    && (rSpec e ≠ 1 || decide (1 ≤ fld e 85 1 ∧ fld e 85 1 ≤ 4 ∧ 1 + fld e 85 1 * fld e 84 1 ≤ 16))
    && (rSpec e ≠ 2 || decide (fld e 85 1 = 1))
    && decide (fld e 88 1 ≤ 4 ∧ fld e 89 1 ≤ 1) && zeros e 90 2 && zeros e 108 20

/-- Speculation is not combined with beams (check 2). -/
def specValid (e : Bytes) : Bool := rSpec e = 0 || rMode e ≠ 2

/-- The buffer rules of R287, but for the frame size. -/
def buffersOk (e : Bytes) : Bool :=
  decide (1 ≤ rInLen e ∧ 4 ≤ rResLen e)
    && (match rInKind e with
        | 0 => decide (rInLen e % 4 = 0 ∧ fld e 8 8 % 4 = 0)
        | 2 => decide (fld e 8 8 % 2 = 0)
        | _ => true)
    && (match rOutKind e with
        | 0 => decide (fld e 24 8 % 4 = 0)
        | 2 => decide (rResLen e % 8 = 0 ∧ fld e 24 8 % 8 = 0)
        | _ => true)

/-- What a request names. -/
structure ReqObjs where
  model : W16
  prefix_ : Option W16
  adapter : Option W16
  variant : Option W16
  deriving DecidableEq, Repr

/-- An object of a tenant is usable by it and, when tenant 0 owns it, by every tenant. -/
def ownerOk (owner t : Nat) : Bool := owner = t || owner = 0

/-- Model, prefix and adapter set of a request: its own, or its variant's; none for a variant that does not exist for it. -/
def reqObjs (d : Dev) (t : Nat) (e : Bytes) : Option ReqObjs :=
  let w : Nat → W16 := fun o => BitVec.ofNat 16 (fld e o 2)
  if rSel e 0 then
    match sFind d.srv.variants (fld e 32 2) with
    | none => none
    | some v =>
      if !bitAt (fld v 7 1) 0 || !ownerOk (fld v 6 1) t then none else
        let x : Nat → W16 := fun o => BitVec.ofNat 16 (fld v o 2)
        some ⟨x 0, if bitAt (fld v 7 1) 1 then some (x 2) else none, if bitAt (fld v 7 1) 2 then some (x 4) else none, some (w 32)⟩
  else some ⟨w 34, if rSel e 1 then some (w 36) else none, if rSel e 2 then some (w 38) else none, none⟩

/-- A resident model the tenant may name. -/
def modelKnown (d : Dev) (t : Nat) (m : W16) : Bool :=
  decide (1 ≤ (getModel d m).state ∧ (getModel d m).state ≤ 3) && ownerOk ((modelOwner d m).getD 0) t

/-- The generation a request is judged against: the Active one, else one that is resident. -/
def judgeGen (d : Dev) (m : W16) : Option (W16 × GenSt) := activeGen d m <|> genIn d m 1 5
def tokOf (d : Dev) (m : W16) : Bytes := ((judgeGen d m).map (·.2.tok)).getD []

/-- Token IDs of an input buffer. -/
def inputIds (inp : Bytes) : List Nat := (List.range (inp.length / 4)).map fun i => fld inp (4 * i) 4

/-- Checks of R287 and check 2 that need the model: tokens below the vocabulary size, a tokeniser table for byte input or output,
whole frames. -/
def inputFits (d : Dev) (m : W16) (e inp : Bytes) : Bool :=
  let tok := tokOf d m
  let frame : Nat := ((judgeGen d m).map (·.2.frameSize)).getD 0
  (rInKind e ≠ 0 || tok.isEmpty || (inputIds inp).all fun t => decide (t < tokV tok))
    && (!tok.isEmpty || (rInKind e ≠ 1 && rOutKind e = 0))
    && (rInKind e ≠ 2 || (decide (frame ≠ 0) && decide (inp.length % frame = 0)))

/-- Tokens and positions of the input. -/
def inputTokens (d : Dev) (m : W16) (e inp : Bytes) : List Nat :=
  match rInKind e with
  | 0 => inputIds inp
  | 1 => tokenise (tokOf d m) inp
  | _ => []
def inputPositions (d : Dev) (m : W16) (e inp : Bytes) : Nat :=
  if rInKind e = 2 then inp.length / max 1 (((judgeGen d m).map (·.2.frameSize)).getD 1) else (inputTokens d m e inp).length

/-- Contexts a tenant holds, and the descriptors a request needs. -/
def liveCount (d : Dev) : Nat := d.srv.ctxs.countP fun c => decide (1 ≤ c.2.state ∧ c.2.state ≤ 5)
def quotaHeld (d : Dev) (t : Nat) : Nat := d.srv.ctxs.countP fun c => decide (c.2.tenant = t ∧ 1 ≤ c.2.state ∧ c.2.state ≤ 5)
def ctxNeed (e : Bytes) : Nat := rWidth e + (if rSpec e = 1 then 1 else 0)

/-- The first failing check of R245; 0 where all pass. readable: the input buffer was read completely. -/
def reqStatus (d : Dev) (fn : Nat) (e inp : Bytes) (readable : Bool) : W16 :=
  if sGet 0 d.sec.slots fn = 2 then 0x6002
  else if !headerOk e 0 true || !recordValid e || !specValid e || !buffersOk e || !readable then 0x1001
  else match reqObjs d fn e with
    | none => 0x1002
    | some o =>
      let draft : W16 := BitVec.ofNat 16 (fld e 86 2)
      if modelKnown d fn o.model && !inputFits d o.model e inp then 0x1001
      else if !modelKnown d fn o.model || (rSpec e = 1 && !modelKnown d fn draft) then 0x1002
      else if rSpec e = 1 && tokOf d draft ≠ tokOf d o.model then 0x1001
      else
        let act := activeGen d o.model
        let fitsP : W16 → Bool := fun n => match getPrefix d n, act with
          | some p, some g => prefixUsable d fn o.model g.1 n && decide (p.state = 2)
          | some p, none => decide (p.state = 2 ∧ p.model = o.model) && ownerOk p.tenant fn
          | none, _ => false
        let fitsA : W16 → Bool := fun n => match sFind d.att.adapters n.toNat, act with
          | some _, some g => adapterUsable d fn o.model g.1 n
          | some a, none => decide (a.state = 2 ∧ a.model = o.model) && ownerOk a.tenant fn
          | none, _ => false
        let plen := match o.prefix_.bind (getPrefix d) with
          | some p => p.length
          | none => 0
        if o.prefix_.any fun n => !fitsP n then 0x1003
        else if o.adapter.any fun n => !fitsA n then 0x1004
        else if plen + inputPositions d o.model e inp + 1 > 1048576 || (rInKind e = 1 && decide (inp.length > 16777216)) then 0x1006
        else if quotaHeld d fn + ctxNeed e > cfgGet d 0x0301 fn || liveCount d + ctxNeed e > 1048576 then 0x1005
        else 0

/-- A request that ends before it has a context: one kind-1 entry without a token. -/
def refuseReq (fn sq : Nat) (tag : W32) (status : W16) (d : Dev) : Dev :=
  cqDeliver fn (cqOf d fn sq) { entry := entryOf tag status 1 0 0xFFFFFFFF 0 0 0 0xFFFFFFFF sq, data := [], ctx := none } d

/-- The descriptor of an accepted request (R247). -/
def newCtx (d : Dev) (fn sq : Nat) (e inp : Bytes) (o : ReqObjs) (rng : W64) : CtxSt :=
  let w : Nat → W32 := fun off => BitVec.ofNat 32 (fld e off 4)
  { tag := eTag e, state := 1, tenant := fn, cls := fld e 41 1, drop := rSel e 3, omitSpecial := rSel e 4
    variant := o.variant, model := o.model, prefix_ := o.prefix_, adapter := o.adapter, fn := fn, sq := sq, ring := cqOf d fn sq
    io := BitVec.ofNat 8 (fld e 42 1), toFill := inputPositions d o.model e inp, maxTokens := fld e 52 4, acceptedAt := d.time.cpNs
    due := if fld e 44 4 = 0 then none else some (d.time.cpNs.toNat + fld e 44 4 * 1000)
    ttft := fld e 44 4, tbt := fld e 48 4, rng := rng, temp := w 56, topP := w 60, repPen := w 64, lenPen := w 68
    topK := fld e 80 2, mode := rMode e, beamWidth := fld e 82 1, spec := rSpec e, specLen := fld e 84 1, branches := fld e 85 1
    draft := BitVec.ofNat 16 (fld e 86 2), stops := (List.range (fld e 88 1)).map fun i => fld e (92 + 4 * i) 4
    stopEnd := bitAt (fld e 89 1) 0, result := BitVec.ofNat 64 (fld e 24 8), resultLen := rResLen e
    history := inputTokens d o.model e inp, frames := if rInKind e = 2 then inp else []
    awaitHook := admitRuns d }

/-- Further contexts of a request, each under a free ID. -/
def addCtxs (c : CtxSt) : Nat → List Nat × Dev → List Nat × Dev
  | 0, st => st
  | n + 1, st => match pickFree 1048576 (fun i => (getCtx st.2 i).isSome) st.2 with
    | (some i, d) => addCtxs c n (st.1 ++ [i], growHistory i (setCtx i c d))
    | (none, d) => (st.1, d)

/-- A seed of 0 is replaced by a non-zero value from the DRBG (R264). -/
def seedOf (e : Bytes) (d : Dev) : W64 × Dev :=
  if fld e 72 8 ≠ 0 then (BitVec.ofNat 64 (fld e 72 8), d)
  else let r := drbg 8 d
       (if ofLe r.1 = 0 then 1 else BitVec.ofNat 64 (ofLe r.1), r.2)

/-- An accepted request: Queued, with its beams and its draft context; the admission program is asked (R246, R266, R273). -/
def acceptReq (fn sq : Nat) (e inp : Bytes) (o : ReqObjs) (d : Dev) : Dev :=
  let sd := seedOf e d
  let c := newCtx d fn sq e inp o sd.1
  match addCtxs c 1 ([], sd.2) with
  | ([i], d1) =>
    let b := if rMode e = 2 then addCtxs { c with beamMember := true, beamLead := some i, awaitHook := false } (rWidth e - 1) ([], d1) else ([], d1)
    let dr := if rSpec e = 1 then
        addCtxs { c with draftOf := some i, model := c.draft, prefix_ := none, adapter := none, variant := none, spec := 0, awaitHook := false } 1 ([], b.2)
      else ([], b.2)
    pushAdmitHook { hook := 3, model := o.model, gen := 0, layer := 0xFFFF, arg := i } (modCtx i (fun x => { x with beams := b.1, draftCtx := dr.1.head? }) dr.2)
  | (_, d1) => d1

/-- A submission entry of opcode 01h (R245). -/
def takeRequest (fn sq : Nat) (e input : Bytes) (readable : Bool) (d : Dev) : Dev :=
  if !canFetch d fn sq then d else
    let d1 := fetchEntry fn sq d
    let op := fld e 0 1
    if op = 2 ∨ op = 3 then d
    else if op ≠ 1 then sendCommandEntry fn sq (eTag e) 0x1001 0 0 d1
    else
      let inp := padTo (rInLen e) input
      let st := reqStatus d1 fn e inp readable
      if st = 0 then match reqObjs d1 fn e with
        | some o => acceptReq fn sq e inp o d1
        | none => d1
      else
        let d2 := if st = 0x1005 ∧ quotaHeld d1 fn + ctxNeed e > cfgGet d1 0x0301 fn then
            srvEv 0xB004 1 fn [(16, 4, cfgGet d1 0x0301 fn), (20, 4, 1)] d1
          else d1
        refuseReq fn sq (eTag e) st d2

/-- REQUEST. -/
def execRequest (fn : FnIx) (sq : RingIx) (entry input : Bytes) (s : State) : Out := run (takeRequest fn sq entry input true) s

/-- A submission entry of opcode 02h (R288). -/
def takeCancel (fn sq : Nat) (e : Bytes) (d : Dev) : Dev :=
  if !canFetch d fn sq || decide (fld e 0 1 ≠ 2) then d else
    let d1 := fetchEntry fn sq d
    if !headerOk e 0 false || !zeros e 32 96 then sendCommandEntry fn sq (eTag e) 0x1001 0 0 d1
    else sendCommandEntry fn sq (eTag e) 0x0000 0 0 (cancelTag fn (eTag e) d1)

/-- CANCEL. -/
def execCancelEntry (fn : FnIx) (sq : RingIx) (entry : Bytes) (s : State) : Out := run (takeCancel fn sq entry) s

/-- A host read fails: an entry that cannot be fetched stops its ring with cause 2; an input buffer ends its request; a parked page
or an image part is handled by the command that awaits it (R206, R230). -/
def readFailed (fn sq target result : Nat) (addr : W64) (e : Bytes) (d : Dev) : Dev :=
  let ev := hostReadFailed fn target result addr
  match target with
  | 1 => if canFetch d fn sq then ringStop fn sq false 2 0 (ev d) else d
  | 2 => takeRequest fn sq e [] false (ev d)
  | _ => ev d

/-- HOST_READ_FAILED (R285, R287). -/
def execHostReadFailed (fn : FnIx) (sq : RingIx) (target result : Nat) (addr : W64) (entry : Bytes) (s : State) : Out :=
  run (readFailed fn sq target result addr entry) s

/-- SAILING_OVERRUN (R251): B002h once a sailing. -/
def sailingOverrun (us : Nat) (d : Dev) : Dev :=
  if !d.srv.sail.running || d.srv.sail.told || decide (2 * us ≤ 3 * d.srv.sail.target) then d
  else srvEv 0xB002 2 0 [(16, 4, us), (20, 4, d.srv.sail.estimate.floor.toNat)] { d with srv.sail.told := true }
def execSailingOverrun (us : W32) (s : State) : Out := run (sailingOverrun us.toNat) s

/-- DEADLINE_SUMMARY (R275): B005h of each tenant, and SRV_RATE over the second that ends. -/
def deadlineSummary (d : Dev) : Dev :=
  let sec := d.srv.second
  let total : Nat → Nat := fun k => (sec.filter fun e => e.1 % 4 = k).foldl (fun a e => a + e.2) 0
  let d1 := (List.range 64).foldl (fun x t =>
    let l := sGet 0 sec (4 * t + 1)
    let m := sGet 0 sec (4 * t + 2)
    if l + m = 0 then x else srvEv 0xB005 1 t [(16, 4, l), (20, 4, m)] x) d
  { d1 with
    srv.rate := BitVec.ofNat 64 (min (total 0) (2 ^ 32 - 1) + min (total 1) 65535 * 2 ^ 32 + min (total 2) 65535 * 2 ^ 48)
    srv.second := [] }
def execDeadlineSummary (s : State) : Out := run deadlineSummary s

/-- SRV_CTX_QUERY: the result matches the last write. -/
def execSrvCtxQuery (v : W32) (s : State) : Out :=
  run (fun d => { d with srv.query := v.truncate 20, srv.queryValid := true }) s

end Sys2Proof.Machine
end

