-- ==== Sys2Proof/Machine/Serving.lean ====
section
/-! DEFINITION. The end of a sailing: what its rows yield (R264–R270), recomputes (R342–R344), end causes (R261, R262), delivery
(R257, R258, R272, R291–R293), beams (R266, R267), layer tallies (R133, R134, R138), coefficients (R255). -/

namespace Sys2Proof.Machine

/-! Layer outputs (R335, R344). -/

/-- A row's RMS lies outside the band of the layer's recipe, or is non-finite. -/
def rmsFlag (r : Recipe) (x : Nat) : Bool :=
  decide (r.rmsHi ≠ 0) && (decide (x % 2 ^ 31 ≥ 0x7F800000) || lt32 x (r.rmsLo.toNat * 65536) || lt32 (r.rmsHi.toNat * 65536) x)

/-- Every plane that served the layer is to be checked against its candle, every core that ran it to be cross-checked (R344). -/
def suspectLayer (lk : Nat) (d : Dev) : Dev :=
  let hs := layerHandles d lk
  let planes := (d.arr.planes.filter fun p => p.2.segs.any fun s => hs.contains s.2.handle).map (·.1)
  let cores := ((d.grid.ran.filter fun e => layerKey e.2.model e.2.gen e.2.layer = lk).map fun e => uCore e.1).eraseDups
  let d1 := planes.foldl (fun x p => candleDue p x) d
  { d1 with rel.xchkDue := d1.rel.xchkDue ++ cores.filter fun u => !d1.rel.xchkDue.contains u }

/-- The plausibility check of one row. -/
def rmsCheck (r : RmsOut) (d : Dev) : Dev :=
  let lk := lkOf r.key
  if !rmsFlag (recipeNow d lk) r.rms.toNat then d else
    suspectLayer lk (markRecompute 2 [r.ctx] (detect 1
      (raise 0x400C 2 0 uDevice (pay [(16, 2, r.key.model.toNat), (18, 2, r.key.layer.toNat), (20, 4, r.rms.toNat)]) d)))

/-! Rows of a request. -/

def logitsOf (m : SailingMeas) (i node : Nat) : List Nat :=
  ((m.rows.find? fun r => r.ctx = i && r.node = node).map fun r => r.z.map (·.toNat)).getD []

/-- Committed positions and positions to fill move by n and k. -/
def advance (n k : Nat) (i : Nat) (d : Dev) : Dev :=
  windowFree i (modCtx i (fun c => { c with length := c.length + n, toFill := c.toFill - k }) d)

/-- What the sailing yields for a request: the device with its work committed, tokens in order, and for beams the status of the
request's end; none where a row yields no token. -/
abbrev Yield := Option (Dev × List Nat × Option W16)

/-- The token of a row, without candidates. -/
def sampleRow (m : SailingMeas) (i : Nat) (d : Dev) : Yield :=
  match getCtx d i with
  | none => none
  | some c => match acceptTokens { c with cands := [] } (logitsOf m i) with
    | none => none
    | some (_, t, s) => some (modCtx i (fun x => { x with rng := s }) d, [t], none)

/-- State of a request after a chunk. -/
def filledState (i : Nat) (d : Dev) : Dev := match getCtx d i with
  | none => d
  | some c => if c.state = 4 then d else
      if c.toFill = 0 then setCtx i { c with state := 3 } d
      else if c.state = 5 ∧ !anyParked d i c ∧ !anyDiscarded d i c then setCtx i { c with state := 2 } d
      else if c.state = 1 then setCtx i { c with state := 2 } d else d

/-- A request that is no beam request: a chunk, a decode row or a verify call. -/
def plainRun (m : SailingMeas) (i : Nat) (c : CtxSt) (r : SailRow) (d : Dev) : Yield :=
  let grp := i :: c.draftCtx.toList
  if r.kind = 0 then
    let d1 := grp.foldl (fun x j => advance r.n r.n j x) d
    let d2 := filledState i (modCtx i (fun x => { x with lastChunk := r.n }) d1)
    if c.toFill ≤ r.n ∧ c.pending.isNone then sampleRow m i d2 else some (d2, [], none)
  else
    match acceptTokens c (logitsOf m i) with
    | none => none
    | some (acc, t, s) =>
      let nodes := 0 :: acc.map (· + 1)
      let d1 := if r.kind = 2 then grp.foldl (fun x j => specCommit j nodes x) d else d
      let d2 := grp.foldl (fun x j => advance nodes.length 0 j x) d1
      let up : W32 → Nat → W32 := fun a n => BitVec.ofNat 32 (satAdd 32 a.toNat n)
      some (modCtx i (fun x => { x with
        rng := s, specProp := up x.specProp c.cands.length, specAcc := up x.specAcc acc.length, cands := [] }) d2,
        acc.map (fun j => ((c.cands[j]?).map (·.tok)).getD 0) ++ [t], none)

/-! Beams (R266, R267). -/

/-- Pages as a further context takes them: full pages by reference. -/
def sharedPages (p : Store PageEnt) : Store PageEnt := p.map fun e => (e.1, { e.2 with shared := e.2.shared || decide (e.2.fill = 64) })

/-- Token ends a hypothesis or a request. -/
def isStop (c : CtxSt) (tok : Bytes) (t : Nat) : Bool := c.stops.contains t || (c.stopEnd && !tok.isEmpty && decide (t = tokEnd tok))

/-- Tokens a beam has generated, with one more. -/
def beamTokens (c : CtxSt) (n t : Nat) : List Nat := c.history.drop (c.history.length - n) ++ [t]

def hypScore (score : W32) (n : Nat) (pen : W32) : W32 := BitVec.ofNat 32 (div32 score.toNat (Config.lenPow n pen).toNat)

/-- Best hypothesis: the highest score, ties to the lower beam index. -/
def bestHyp (l : List (Nat × W32 × List Nat)) : List Nat :=
  (l.foldl (fun (b : Option (Nat × W32 × List Nat)) h => match b with
    | none => some h
    | some x => if lt32 x.2.1.toNat h.2.1.toNat || (!lt32 h.2.1.toNat x.2.1.toNat && decide (h.1 < x.1)) then some h else b) none).elim [] (·.2.2)

/-- One step of the beams whose rows ran. -/
def beamStep (m : SailingMeas) (i : Nat) (c : CtxSt) (tok : Bytes) (d : Dev) : Yield :=
  let live := liveBeams i c
  if live.any fun j => rowBad (logitsOf m j 0) then none else
    let width := c.beamWidth
    let props := (List.range live.length).flatMap fun b => match getCtx d (live.getD b 0) with
      | some x => beamProposals width b x.score.toNat c.repPen.toNat x.history (logitsOf m (live.getD b 0) 0)
      | none => []
    let best := (props.foldl (fun acc e => insBeam e acc) []).take (width - c.finished.length)
    let parent : BeamCand → CtxSt := fun e => (getCtx d (live.getD e.beam 0)).getD c
    let fin := best.filter fun e => isStop c tok e.tok
    let go := best.filter fun e => !isStop c tok e.tok
    let n := c.generated + 1
    let finished := c.finished ++ fin.map fun e =>
      (e.beam, hypScore (BitVec.ofNat 32 e.score) n c.lenPen, beamTokens (parent e) c.generated e.tok)
    let slots := i :: c.beams
    let d1 := (List.range slots.length).foldl (fun x k =>
      modCtx (slots.getD k 0) (fun y => match go[k]? with
        | some e =>
          let p := parent e
          { y with score := BitVec.ofNat 32 e.score, history := p.history ++ [e.tok], pending := some e.tok, length := p.length, toFill := 0
                   pages := if live.getD e.beam 0 = slots.getD k 0 then p.pages else sharedPages p.pages, cross := p.cross }
        | none => { y with pages := [], pending := none }) x) d
    let d2 := modCtx i (fun y => { y with generated := n, finished := finished }) d1
    let done_ := decide (finished.length ≥ width)
    if done_ || decide (n ≥ c.maxTokens) || decide (c.length ≥ 1048576) then
      let rest := if done_ then [] else (List.range go.length).map fun k =>
        let e := go.getD k ⟨0, 0, 0⟩
        (k, hypScore (BitVec.ofNat 32 e.score) n c.lenPen, beamTokens (parent e) c.generated e.tok)
      some (d2, bestHyp (finished ++ rest), some (if done_ then 0x0000 else 0x0002))
    else some (d2, [], none)

/-- A beam request: its chunk on every context, then a step. -/
def beamRun (m : SailingMeas) (i : Nat) (c : CtxSt) (r : SailRow) (tok : Bytes) (d : Dev) : Yield :=
  let grp := i :: c.beams
  if r.kind = 0 then
    let d1 := filledState i (grp.foldl (fun x j => advance r.n r.n j x) (modCtx i (fun x => { x with lastChunk := r.n }) d))
    if c.toFill ≤ r.n ∧ c.pending.isNone then match getCtx d1 i with
      | some c1 => beamStep m i c1 tok d1
      | none => none
    else some (d1, [], none)
  else
    let d1 := (liveBeams i c).foldl (fun x j => advance 1 0 j x) d
    match getCtx d1 i with
    | some c1 => beamStep m i c1 tok d1
    | none => none

/-! Recomputes (R342, R343). -/

/-- Entries at or above the positions a context holds are dropped. -/
def cutPages (n : Nat) (p : Store PageEnt) : Store PageEnt :=
  p.filterMap fun e =>
    let keep := min e.2.fill (n - e.1 % 16384 * 64)
    if e.2.tier = 3 then some e
    else if keep = 0 then none
    else some (e.1, { e.2 with fill := keep, data := e.2.data.take (e.2.data.length / max 1 e.2.fill * keep) })

def cutCtx (d : Dev) (c : CtxSt) : CtxSt :=
  { c with pages := cutPages (c.length - prefixLen d c - encPos d c) c.pages, specPage := []
           cross := if bits c.io.toNat 0 2 = 2 then cutPages (min (encPos d c) (c.length - prefixLen d c)) c.cross else c.cross }

/-- A level-3 trigger: the request's work is dropped and done again, or, in a recompute of its own making, the request ends with
COMPUTE_FAULT (level 4). Triggers 7 and 8 are not counted, and a recompute that one of them interrupts is still one (log entry 194). -/
def recompute (i : Nat) (c : CtxSt) (trigger : Nat) (d : Dev) : Dev :=
  let counted := decide (trigger ≠ 7 ∧ trigger ≠ 8)
  if counted && c.redone then modCtx i (fun x => endsWith 0x4001 { x with redone := false }) d
  else
    let d1 := raise 0x400D 1 0 uDevice (pay [(16, 4, i), (20, 1, trigger)]) d
    let d2 := (ctxGroup i c).foldl (fun x j => modCtx j (cutCtx x) x) d1
    modCtx i (fun x => { x with redone := counted || c.redone }) d2

/-- What the sailing did for a request: tokens to deliver, and a beam request's end. -/
def requestRun (m : SailingMeas) (i : Nat) (d : Dev) : Dev × List Nat × Option W16 :=
  match getCtx d i with
  | none => (d, [], none)
  | some c =>
    let grp := ctxGroup i c
    match d.srv.sail.rows.find? fun r => grp.contains r.ctx with
    | none => (d, [], none)
    | some r =>
      let tok := ((genFor d c).map (·.2.tok)).getD []
      match grp.findSome? fun j => sFind d.rel.marks j with
      | some t => (recompute i c t d, [], none)
      | none => match (if c.mode = 2 then beamRun m i c r tok d else plainRun m i c r d) with
        | none => (recompute i c 4 d, [], none)
        | some (d1, ts, st) => (modCtx i (fun x => { x with redone := false, sailings := x.sailings + 1 }) d1, ts, st)

/-! Delivery. -/

/-- Room of the result buffer for token IDs and for bytes, and where the bytes begin (R293). -/
def idRoom (c : CtxSt) : Nat := match bits c.io.toNat 2 2 with
  | 0 => c.resultLen
  | 1 => 0
  | _ => c.resultLen / 2
def byteRoom (c : CtxSt) : Nat := match bits c.io.toNat 2 2 with
  | 0 => 0
  | 1 => c.resultLen
  | _ => c.resultLen / 2
def byteBase (c : CtxSt) : Nat := if bits c.io.toNat 2 2 = 2 then c.resultLen / 2 else 0
def wantsIds (c : CtxSt) : Bool := bits c.io.toNat 2 2 ≠ 1
def wantsBytes (c : CtxSt) : Bool := bits c.io.toNat 2 2 ≠ 0

/-- Tokens up to and with the first that ends the request (R262): some true where it is a stop token, some false at a limit. len is
L with every token of the sailing committed. -/
def cutTokens (c : CtxSt) (tok : Bytes) (len : Nat) : List Nat → Nat → List Nat × Option Bool
  | [], _ => ([], none)
  | t :: r, n =>
    if isStop c tok t then ([t], some true)
    else if n + 1 ≥ c.maxTokens ∨ len - r.length ≥ 1048576 then ([t], some false)
    else let x := cutTokens c tok len r (n + 1)
         (t :: x.1, x.2)

/-- Tokens put into the result buffer while they fit: the context, IDs, bytes, and how many fitted. -/
def putTokens (tok : Bytes) : List Nat → CtxSt → Bytes → Bytes → Nat → CtxSt × Bytes × Bytes × Nat
  | [], c, ids, txt, n => (c, ids, txt, n)
  | t :: r, c, ids, txt, n =>
    let x := detokenise tok c.omitSpecial c.held t
    if (wantsIds c && decide (c.idsUsed + 4 > idRoom c)) || (wantsBytes c && decide (c.bytesUsed + x.1.length > byteRoom c)) then (c, ids, txt, n)
    else
      let i := if wantsIds c then toLe 4 t else []
      let b := if wantsBytes c then x.1 else []
      putTokens tok r { c with
        idsUsed := c.idsUsed + i.length, bytesUsed := c.bytesUsed + b.length, held := if wantsBytes c then x.2 else []
        generated := c.generated + 1, firstDone := true } (ids ++ i) (txt ++ b) (n + 1)

/-- Held bytes at the end of a request are written as EF BF BDh where they fit (R272). -/
def flushHeld (c : CtxSt) : CtxSt × Bytes :=
  if c.held.isEmpty then (c, [])
  else if c.bytesUsed + 3 > byteRoom c then ({ c with held := [] }, [])
  else ({ c with held := [], bytesUsed := c.bytesUsed + 3 }, badSeq)

/-- Counters of delivered tokens (R275, R375). -/
def countTokens (c : CtxSt) (n : Nat) (late missed : Bool) (d : Dev) : Dev :=
  let add : Nat → Nat → Store Nat → Store Nat := fun k v m => if v = 0 then m else sSet m k (sGet 0 m k + v)
  let k := 4 * c.tenant
  { d with
    srv.second := add (k + 2) (b2n missed) (add (k + 1) (if late then n else 0) (add k n d.srv.second))
    srv.tok100 := add c.fn n d.srv.tok100 }

/-- Tokens generated as an entry states them: a beam request has delivered none until it ends. -/
def shownGenerated (c : CtxSt) : Nat := if c.mode = 2 then 0 else c.generated

/-- A request ends: its pages are freed, a migration of it ends (R249, R330). -/
def endCtx (i : Nat) (d : Dev) : Dev :=
  let y := migrEnd i d
  if isGuest y i then dropGuest i y else endGroup i y

/-- Body of a type 22h frame (log entry 23): context at home, status, final, late, tokens. -/
def relayBody (home : Nat) (status : W16) (final late : Bool) (ts : List Nat) : Bytes :=
  toLe 4 home ++ toLe 2 status.toNat ++ toLe 1 (b2n final) ++ toLe 1 (b2n late) ++ toLe 2 ts.length ++ ts.flatMap fun t => toLe 4 t

/-- Deliver tokens of a request, and its final status where it ends. A context served for another member sends them home. -/
def deliver (i : Nat) (tok : Bytes) (ts : List Nat) (final : Option W16) (late : Bool) (d : Dev) : Dev :=
  match getCtx d i with
  | none => d
  | some c0 =>
    let c := if c0.mode = 2 then { c0 with generated := 0 } else c0
    let p := putTokens tok ts c [] [] 0
    let given := ts.take p.2.2.2
    let st : Option W16 := if p.2.2.2 < ts.length then some 0x0002 else final
    if given.isEmpty && st.isNone then d else
    let fl := if st.isSome && st ≠ some 0x6002 then flushHeld p.1 else (p.1, [])
    let lateN := late && !given.isEmpty
    let c1 := { fl.1 with
      late := fl.1.late + (if lateN then given.length else 0)
      pending := if given.isEmpty then c0.pending else given.getLast?
      history := if c0.mode = 2 then c0.history else c0.history ++ given
      due := if given.isEmpty then c0.due else if c0.tbt = 0 then none else some (d.time.cpNs.toNat + c0.tbt * 1000) }
    let status : W16 := st.getD (if late then 0x0001 else 0x0000)
    let d2 := match sFind d.fab.guests i with
      | some home => sendMsg 0x22 1 (tagOf d i) (home / 2 ^ 32) [] (relayBody (home % 2 ^ 32) status st.isSome lateN given) (setCtx i c1 d)
      | none =>
        let txt := p.2.2.1 ++ fl.2
        let data := (if p.2.1.isEmpty then [] else [(c0.result + BitVec.ofNat 64 c0.idsUsed, p.2.1)])
          ++ (if txt.isEmpty then [] else [(c0.result + BitVec.ofNat 64 (byteBase c0 + c0.bytesUsed), txt)])
        cqDeliver c0.fn c0.ring
          { entry := entryOf c0.tag status (b2n st.isSome) given.length i c1.generated c1.idsUsed c1.bytesUsed
              (given.getLast?.getD 0xFFFFFFFF) c0.sq
            data := data, ctx := some i, before := (c.generated, c0.idsUsed, c0.bytesUsed) } (setCtx i c1 (countTokens c0 given.length lateN (st == some 0x2001) d))
    if st.isSome then endCtx i d2 else d2

/-! End causes (R261). -/

/-- The generation a request is pinned to is Retiring, Retired or gone. -/
def genGone (d : Dev) (c : CtxSt) : Bool := c.gen ≠ 0 && match getGen d c.model c.gen with
  | some g => decide (g.state ≥ 5)
  | none => true

/-- The first of causes 1–6; late judges the sailing's end, step whether tokens may be due: a beam request is judged at its end. -/
def endCause (d : Dev) (i : Nat) (c : CtxSt) (late : Bool) : Option W16 :=
  if sGet 0 d.sec.slots c.tenant = 2 then some 0x6002
  else match c.endWith.filter isFaultEnd with
    | some s => some s
    | none =>
      if servedAway d i then none
      else if genGone d c then some 0x3001
      else if c.cancelled then some 0x2002
      else match c.endWith with
        | some s => some s
        | none =>
          if c.state = 1 ∧ ((getModel d c.model).state = 0 ∨ (getModel d c.model).state = 4) then some 0x1002
          else if c.state = 1 ∧ c.drop ∧ (activeGen d c.model).isNone then some 0x3002
          else if c.drop ∧ late then some 0x2001 else none

/-- Candidates of the next sailing (R268). -/
def nextCands (m : SailingMeas) (i : Nat) (d : Dev) : Dev :=
  match getCtx d i with
  | none => d
  | some c =>
    if c.state ≠ 3 ∨ c.spec = 0 then d
    else
      let cs := if c.spec = 2 then lookupCands c.history c.specLen
        else match m.drafts.find? fun x => x.ctx = i with
          | some x => draftCands c (x.z.map fun z => z.map (·.toNat))
          | none => []
      setCtx i { c with cands := cs } d

/-- PAUSED entry of a request the composition of this sailing paused (R249, R292, R296). -/
def pausedEntry (i : Nat) (d : Dev) : Dev :=
  match getCtx d i with
  | none => d
  | some c =>
    if !c.justPaused || decide (c.state ≠ 4) || ringHeld d c || (sFind d.fab.guests i).isSome then d
    else cqDeliver c.fn c.ring
      { entry := entryOf c.tag 0x0010 2 0 i (shownGenerated c) c.idsUsed c.bytesUsed 0xFFFFFFFF c.sq, data := [], ctx := some i
        before := (shownGenerated c, c.idsUsed, c.bytesUsed) } d

/-- Steps 6 and 7 for one request: its rows, its end, its tokens. -/
def requestEnd (m : SailingMeas) (i : Nat) (d : Dev) : Dev :=
  match getCtx d i with
  | none => d
  | some c0 =>
    if !isLead c0 || decide (c0.state < 1 ∨ 5 < c0.state) then d else
      let run_ := requestRun m i d
      let d1 := run_.1
      match getCtx d1 i with
      | none => d1
      | some c =>
        let tok := ((genFor d1 c).map (·.2.tok)).getD []
        let late := c.due.any fun t => decide (d1.time.cpNs.toNat > t)
        let held := c.mode = 2 ∧ run_.2.2.isNone ∧ (ctxGroup i c).any fun j => d1.srv.sail.rows.any fun r => r.ctx = j
        match endCause d1 i c (late && !decide held) with
        | some st =>
          let d2 := if isFaultEnd st then
              srvEv 0xB008 3 c.tenant [(16, 4, c.tag.toNat), (20, 2, st.toNat), (22, 4, i)] d1
            else d1
          deliver i tok [] (some st) false d2
        | none =>
          if c.mode = 2 then match run_.2.2 with
            | some st => deliver i tok run_.2.1 (some (if st = 0 ∧ late then 0x0001 else st)) late d1
            | none => pausedEntry i (syncGroup i d1)
          else
            let cut := cutTokens c tok c.length run_.2.1 c.generated
            let fin : Option W16 := cut.2.map fun stop => if !stop then 0x0002 else if late then 0x0001 else 0x0000
            pausedEntry i (syncGroup i (nextCands m i (deliver i tok cut.1 fin late d1)))

/-- Requests that end because their generation retired, by generation: 900Eh; the record of a Retired one that waited for them
goes. -/
def retiredEvents (d0 d : Dev) : Dev :=
  d0.plc.gens.foldl (fun y g =>
    if g.2.state < 5 then y else
      let x := if g.2.state = 6 ∧ g.2.keepGolden = false then { y with plc.gens := sDel y.plc.gens g.1 } else y
      let m : W16 := BitVec.ofNat 16 (g.1 / 65536)
      let n : W16 := BitVec.ofNat 16 (g.1 % 65536)
      let k := d0.srv.ctxs.countP fun c => isLead c.2 && c.2.model = m && c.2.gen = n && decide (2 ≤ c.2.state ∧ c.2.state ≤ 5) && ((getCtx d c.1).map (·.state)).getD 6 = 6
      if k = 0 then x else loadEv 0x900E 2 g.2.owner m n [(20, 4, k)] x) d

/-! Tallies (R133, R134, R138). -/

/-- Flags of a closed tally. -/
def tallyFlags (r : Recipe) (t : Tally) : Nat :=
  b2n (decide (t.overflow > 0 ∨ t.residualSat > 0)) + 2 * b2n (decide (t.saturated * 1000000 > r.satLimit.toNat * t.elements))
    + 4 * b2n (decide (t.zeroed * 1000000 > r.zeroedLimit.toNat * t.elements)) + 8 * b2n (decide (t.underflow > 0))
    + 16 * b2n (decide (t.scaleOvf > 0)) + 32 * b2n (decide (t.nonFinite > 0)) + 64 * b2n (decide (t.invalid > 0))

/-- Close one layer's tally: events, SRV_NUM_FLAGS, the hook, the default policy. -/
def closeTally (lk : Nat) (t : Tally) (d : Dev) : Dev :=
  let r := recipeNow d lk
  let f := tallyFlags r t
  let idx := currentRecipe d lk
  let c32 : Nat → Nat := fun n => min n (2 ^ 32 - 1)
  let ev : Nat → W16 → List (Nat × Nat × Nat) → Dev → Dev := fun b code fs x =>
    if bitAt f b then layerNum code 1 lk ([(22, 1, idx)] ++ fs) x else x
  let d1 := ev 0 0x2008 [(24, 4, t.overflow), (28, 4, t.residualSat)] d
  let d2 := ev 3 0x200A [(24, 4, t.underflow)] (ev 4 0x2009 [(24, 4, t.scaleOvf)] d1)
  let d3 := ev 2 0x200C [(24, 4, t.zeroed), (28, 4, c32 t.elements)] (ev 1 0x200B [(24, 4, t.saturated), (28, 4, c32 t.elements)] d2)
  let runs := if f % 8 = 0 then 0 else sGet 0 d3.num.flaggedRuns lk + 1
  let d4 := { d3 with num.flags := d3.num.flags ||| BitVec.ofNat 7 f, num.flaggedRuns := sPut 0 d3.num.flaggedRuns lk runs }
  let d5 := if f % 32 = 0 then d4 else pushHook
    { hook := 0, model := keyModel lk, gen := keyGen lk, layer := keyLayer lk, arg := f, recipe := idx, tally := t } d4
  if !policyRuns d5 && !d5.num.policy.defaultOff && decide (runs ≥ r.persist.toNat ∧ 0 < runs ∧ r.next ≠ 0xFF) && (sFind d5.num.pending lk).isNone then
    (requestSwitch lk r.next.toNat 1 d5).2
  else d5

def closeTallies (d : Dev) : Dev := d.num.tallies.foldl (fun x e => closeTally e.1 e.2 x) { d with num.tallies := [] }

/-! Estimates (R255). -/

/-- Estimated work of a generation in the sailing, before the common factor. -/
def genWork (d : Dev) (model gen : W16) (g : GenSt) : Rat :=
  d.srv.sail.rows.foldl (fun a r => match getCtx d r.ctx with
    | some c =>
      if c.model ≠ model ∨ c.gen ≠ gen then a
      else if r.kind = 0 then a + chunkCost 1 g r.start r.n
      else a + (r.n : Rat) * tokenCost g r.start
    | none => a) g.f

/-- SRV_SAIL_STAT, the common factor and the coefficients after a sailing. -/
def sailStats (m : SailingMeas) (d : Dev) : Dev :=
  let sl := d.srv.sail
  let sat : Nat → W16 := fun n => BitVec.ofNat 16 (min n 65535)
  let d1 := { d with
    srv.measured := sat m.us, srv.estimate := sat sl.estimate.floor.toNat
    srv.sequences := BitVec.ofNat 13 (sl.rows.countP fun r => decide (r.kind ≠ 0))
    srv.prefill := BitVec.ofNat 14 ((sl.rows.filter fun r => r.kind = 0).foldl (fun a r => a + r.n) 0)
    srv.s := if sl.estimate > 0 then d.srv.s + ((m.us : Rat) / sl.estimate - d.srv.s) / 8 else d.srv.s }
  m.shares.foldl (fun x s => match getGen d s.1 s.2.1 with
    | none => x
    | some g =>
      let e := d.srv.s * genWork d s.1 s.2.1 g
      if e ≤ 0 then x else
        let k : Rat := 1 + ((s.2.2 : Rat) / e - 1) / 8
        modGen s.1 s.2.1 (fun y => { y with f := y.f * k, r := y.r * k, a := y.a * k }) x) d1

/-! The sailing end. -/

/-- Counts per class of queued, live and paused requests, as on_sailing receives them (R273). -/
def sailCounts (d : Dev) : Nat :=
  let n : Nat → (Nat → Bool) → Nat := fun k p => d.srv.ctxs.countP fun c => isLead c.2 && decide (c.2.cls = k) && p c.2.state
  ((List.range 4).flatMap fun k =>
    [n k (fun s => decide (s = 1)), n k (fun s => decide (2 ≤ s ∧ s ≤ 3)), n k (fun s => decide (4 ≤ s ∧ s ≤ 5))]).foldl (fun a x => a * 2 ^ 21 + x) 0

/-- Reports of Draining flotilla-wide generations (R329). -/
def drainReports (d : Dev) : Dev :=
  if standalone d then d else
    d.plc.gens.foldl (fun x g => if g.2.flotilla && decide (g.2.state = 4) then
      (let m : W16 := BitVec.ofNat 16 (g.1 / 65536)
       let n : W16 := BitVec.ofNat 16 (g.1 % 65536)
       flood 0x14 [] (genReport m n 3 (pinned x m n)) x) else x) d

/-- What the sailing's measurements say of units and requests, before its requests are judged. -/
def takeMeas (m : SailingMeas) (d : Dev) : Dev :=
  let d0 := d.rel.layersDue.foldl (fun x lk => suspectLayer lk x) { d with rel.layersDue := [] }
  let d1 := m.rms.foldl (fun x r => rmsCheck r x) d0
  let d2 := m.lost.foldl (fun x l => endWork l.2 [leadOf x l.1] x) d1
  let d3 := endWork 0x4001 ((d2.grid.faulted.map fun f => leadOf d2 f.1).eraseDups) { d2 with grid.faulted := [] }
  let d4 := d3.grid.refused.foldl (fun x r => endWork r.2 [leadOf x r.1] x) { d3 with grid.refused := [], grid.faultCalls := [] }
  m.experts.foldl (fun x e =>
    let key := lkOf e.1 * 65536 + e.2.1
    { x with plc.experts := sSet x.plc.experts key (sGet 0 x.plc.experts key + e.2.2) }) d4

/-- Steps 4–7 of the sailing in progress. -/
def closeSailing (m : SailingMeas) (d : Dev) : Dev :=
  let d1 := takeMeas m d
  let d2 := sailStats m d1
  let d3 := (d2.srv.ctxs.map (·.1)).foldl (fun x i => requestEnd m i x) d2
  let d4 := closeTallies (retiredEvents d2 d3)
  let sailed := d4.plc.calledNow.foldl (fun x i => sPut 0 x i (sGet 0 x i + 1)) d4.plc.sailed
  heatStep { growHistories d4 with
    rel.marks := [], grid.ran := d4.grid.ran.filter fun e => (getCore d4 e.1).job = some e.2
    srv.servedUs := m.servedUs, srv.sail.running := false
    plc.sailed := sailed, plc.calledNow := [], plc.sailings := d4.plc.sailings + 1 }

/-- SAILING_END (R250, R261): the sailing in progress is judged and the next one composed; a sailing hold leaves none in progress
(R389). -/
def sailingEnd (m : SailingMeas) (d : Dev) : Dev :=
  if d.pwr.mode ≠ 3 then d else
    let d1 := if d.srv.sail.running then closeSailing m d else d
    let d2 := pushAdmitHook { hook := 4, model := 0, gen := 0, layer := 0xFFFF, arg := sailCounts d1 } d1
    let d3 := activateReady (drainAll (drainReports d2))
    if d3.pwr.hold then { d3 with srv.sail := {}, att.given := [] }
    else
      let d4 := tierRound (composeSailing d3)
      m.ferries.foldl (fun x r => startFerries r x) d4

def execSailingEnd (m : SailingMeas) (s : State) : Out := run (sailingEnd m) s

end Sys2Proof.Machine
end

