-- ==== Sys2Proof/Machine/Migrate.lean ====
section
/-! DEFINITION. Context migrations (R330): the descriptor and what it names as bytes (R247, log entry 23), frames of types 21h and 22h,
the operator's migrate command. -/

namespace Sys2Proof.Machine

/-! A context as bytes. -/

/-- An optional ID, its valid bit at 31. -/
def optId (o : Option Nat) : Nat := match o with
  | some i => i + 2 ^ 31
  | none => 0

/-- Descriptor of R247. -/
def descBytes (c : CtxSt) : Bytes :=
  let w2 : Option W16 → Bytes := fun o => toLe 2 ((o.map (·.toNat)).getD 0)
  let flags := fields [(0, 1, b2n c.drop), (1, 1, b2n (c.spec ≠ 0)), (2, 1, b2n (c.mode = 2)), (3, 1, b2n c.prefix_.isSome),
    (4, 1, b2n c.adapter.isSome), (5, 1, b2n c.firstDone), (6, 1, b2n c.variant.isSome)]
  toLe 4 c.tag.toNat ++ toLe 1 c.state ++ toLe 1 c.tenant ++ toLe 1 c.cls ++ toLe 1 flags
    ++ toLe 2 c.model.toNat ++ toLe 2 c.gen.toNat ++ w2 c.prefix_ ++ w2 c.adapter ++ w2 c.variant ++ toLe 1 c.fn ++ toLe 1 c.io.toNat
    ++ toLe 4 c.length ++ toLe 4 c.toFill ++ toLe 4 c.generated ++ toLe 4 c.maxTokens ++ toLe 4 (c.pending.getD 0xFFFFFFFF)
    ++ toLe 8 c.kvMap.toNat ++ toLe 8 (c.extents.headD 0) ++ toLe 8 c.acceptedAt.toNat ++ toLe 8 (c.due.getD (2 ^ 64 - 1))
    ++ toLe 4 c.ttft ++ toLe 4 c.tbt ++ toLe 8 c.pausedAt.toNat ++ toLe 8 c.rng.toNat
    ++ toLe 4 c.temp.toNat ++ toLe 4 c.topP.toNat ++ toLe 4 c.repPen.toNat ++ toLe 4 c.lenPen.toNat ++ toLe 2 c.topK
    ++ toLe 1 c.mode ++ toLe 1 c.beamWidth ++ toLe 1 c.spec ++ toLe 1 c.specLen ++ toLe 1 c.branches ++ toLe 1 c.stops.length
    ++ padTo 16 (c.stops.flatMap fun t => toLe 4 t) ++ toLe 4 (optId c.draftCtx) ++ toLe 4 (optId c.beamLead)
    ++ toLe 8 c.result.toNat ++ toLe 4 c.resultLen ++ toLe 4 (c.idsUsed + c.bytesUsed) ++ toLe 1 c.ring
    ++ toLe 1 c.held.length ++ padTo 3 c.held ++ toLe 1 (b2n c.stopEnd) ++ toLe 2 0 ++ toLe 8 c.sailings
    ++ toLe 4 c.late ++ toLe 4 c.specProp.toNat ++ toLe 4 c.specAcc.toNat ++ List.replicate 68 0

/-- An instant of the home's clock on this module's. -/
def rebase (home now v : Nat) : Nat := v + now - home

/-- The context of a descriptor, its instants moved from the home's clock to this one's. -/
def descRead (home now : Nat) (b : Bytes) : CtxSt :=
  let f := fld b 7 1
  let w : Nat → W32 := fun o => BitVec.ofNat 32 (fld b o 4)
  let opt : Nat → Nat → Option W16 := fun bit o => if bitAt f bit then some (BitVec.ofNat 16 (fld b o 2)) else none
  { tag := w 0, state := 4, tenant := fld b 5 1, cls := fld b 6 1, drop := bitAt f 0, omitSpecial := false, firstDone := bitAt f 5
    prefix_ := opt 3 12, adapter := opt 4 14, variant := opt 6 16, model := BitVec.ofNat 16 (fld b 8 2), gen := BitVec.ofNat 16 (fld b 10 2)
    fn := fld b 18 1, sq := 0, ring := fld b 160 1, io := BitVec.ofNat 8 (fld b 19 1), length := fld b 20 4, toFill := fld b 24 4
    generated := fld b 28 4, maxTokens := fld b 32 4, pending := if fld b 36 4 = 0xFFFFFFFF then none else some (fld b 36 4)
    acceptedAt := BitVec.ofNat 64 (rebase home now (fld b 56 8))
    due := if fld b 64 8 = 2 ^ 64 - 1 then none else some (rebase home now (fld b 64 8))
    ttft := fld b 72 4, tbt := fld b 76 4, pausedAt := BitVec.ofNat 64 (rebase home now (fld b 80 8)), rng := BitVec.ofNat 64 (fld b 88 8)
    temp := w 96, topP := w 100, repPen := w 104, lenPen := w 108, topK := fld b 112 2, mode := fld b 114 1, beamWidth := fld b 115 1
    spec := fld b 116 1, specLen := fld b 117 1, branches := fld b 118 1, draft := 0
    stops := (List.range (fld b 119 1)).map fun i => fld b (120 + 4 * i) 4, stopEnd := bitAt (fld b 165 1) 0
    result := BitVec.ofNat 64 (fld b 144 8), resultLen := fld b 152 4, held := ((b.drop 162).take 3).take (fld b 161 1)
    sailings := fld b 168 8, late := fld b 176 4, specProp := w 180, specAcc := w 184 }

/-- A byte string behind its length, and strings read so. -/
def lenStr (b : Bytes) : Bytes := toLe 4 b.length ++ b
def takeStr (b : Bytes) : Bytes × Bytes := ((b.drop 4).take (fld b 0 4), b.drop (4 + fld b 0 4))
def takeStrs : Nat → Bytes → List Bytes
  | 0, _ => []
  | n + 1, b => (takeStr b).1 :: takeStrs n (takeStr b).2

def words4 (b : Bytes) : List Nat := (List.range (b.length / 4)).map fun i => fld b (4 * i) 4

/-- A page of a map: key, fill, tier, shared, heat, contents; one of tier 2 or 3 goes without contents, as discarded; tier code 4 marks
one that R193 has freed. -/
def pageBytes (e : Nat × PageEnt) : Bytes :=
  let live := e.2.valid && decide (e.2.tier ≤ 1)
  let freed := !e.2.valid && decide (e.2.tier ≠ 3)
  toLe 4 e.1 ++ toLe 1 (if live || freed then e.2.fill else 0) ++ toLe 1 (if live then 1 else if freed then 4 else 3) ++ toLe 1 (b2n e.2.shared) ++ toLe 2 e.2.heat.toNat
    ++ (if live then e.2.data else [])
def pageRead (b : Bytes) : Nat × PageEnt :=
  (fld b 0 4, { fill := fld b 4 1, tier := if fld b 5 1 = 4 then 1 else fld b 5 1, valid := fld b 5 1 ≠ 4, shared := fld b 6 1 ≠ 0, heat := BitVec.ofNat 16 (fld b 7 2), data := b.drop 9 })

def mapBytes (m : Store PageEnt) : Bytes := toLe 4 m.length ++ m.flatMap fun e => lenStr (pageBytes e)
def mapRead (b : Bytes) : Store PageEnt := (takeStrs (fld b 0 4) (b.drop 4)).map pageRead

/-- A finished hypothesis of a beam request. -/
def hypBytes (h : Nat × W32 × List Nat) : Bytes := toLe 4 h.1 ++ toLe 4 h.2.1.toNat ++ h.2.2.flatMap fun t => toLe 4 t
def hypRead (b : Bytes) : Nat × W32 × List Nat := (fld b 0 4, BitVec.ofNat 32 (fld b 4 4), words4 (b.drop 8))

/-- One context: descriptor, what the descriptor does not hold, history, frames, hypotheses, pages. -/
def ctxBlob (c : CtxSt) : Bytes :=
  let extra := toLe 1 (b2n c.omitSpecial) ++ toLe 1 (b2n c.specTold) ++ toLe 4 c.score.toNat ++ toLe 4 c.lastChunk ++ toLe 4 c.idsUsed
    ++ toLe 4 c.bytesUsed ++ toLe 2 c.draft.toNat
  lenStr (descBytes c) ++ lenStr extra ++ lenStr (c.history.flatMap fun t => toLe 4 t) ++ lenStr c.frames
    ++ lenStr (toLe 4 c.finished.length ++ c.finished.flatMap fun h => lenStr (hypBytes h)) ++ lenStr (mapBytes c.pages) ++ lenStr (mapBytes c.cross)

def ctxOfBlob (home now : Nat) (b : Bytes) : CtxSt :=
  let p := takeStrs 7 b
  let x := p.getD 1 []
  let h := p.getD 4 []
  { descRead home now (p.getD 0 []) with
    omitSpecial := fld x 0 1 ≠ 0, specTold := fld x 1 1 ≠ 0, score := BitVec.ofNat 32 (fld x 2 4), lastChunk := fld x 6 4
    idsUsed := fld x 10 4, bytesUsed := fld x 14 4, draft := BitVec.ofNat 16 (fld x 18 2)
    history := words4 (p.getD 2 []), frames := p.getD 3 [], finished := (takeStrs (fld h 0 4) (h.drop 4)).map hypRead
    pages := mapRead (p.getD 5 []), cross := mapRead (p.getD 6 []) }

/-! The transfer. -/

/-- Descriptor, history and pages of every context of a request: kind 1. -/
def transferBody (i : Nat) (c : CtxSt) (d : Dev) : Bytes :=
  let grp := ctxGroup i c
  toLe 1 1 ++ toLe 4 i ++ toLe 8 d.time.cpNs.toNat ++ toLe 1 grp.length ++ toLe 1 c.beams.length
    ++ grp.flatMap fun j => ((getCtx d j).map fun x => lenStr (ctxBlob x)).getD []

/-- Every condition of R330 on the member that is to serve the request. -/
def admitsGuest (cs : List CtxSt) (d : Dev) : Bool :=
  cs.all (fun c =>
    decide (sGet 0 d.sec.slots c.tenant ≠ 2)
      && ((getGen d c.model c.gen).any fun g => decide (g.state = 3 ∨ g.state = 4))
      && !(c.prefix_.any fun n => !prefixUsable d c.tenant c.model c.gen n)
      && !(c.adapter.any fun n => !adapterUsable d c.tenant c.model c.gen n)
      && decide (quotaHeld d c.tenant + cs.length ≤ cfgGet d 0x0301 c.tenant))
    && decide (liveCount d + cs.length ≤ 1048576) && !cs.isEmpty

/-- Pages that did not travel are discarded here from the first of them on (R207, R248). -/
def settlePages (i : Nat) (d : Dev) : Dev :=
  let first : Store PageEnt → Option Nat := fun m => ((m.filter fun e => e.2.tier = 3).map fun e => e.1 % 16384).min?
  match getCtx d i with
  | none => d
  | some c =>
    let d1 := match first c.pages with
      | some j => discardFrom i j d
      | none => d
    match first c.cross with
      | some j => discardCross i j d1
      | none => d1

/-- A context arrives: a reference to its prefix, and pages where this member has room for them. -/
def placeGuest (c : CtxSt) (i : Nat) (d : Dev) : Dev :=
  let none_ := setCtx i { c with pages := [], cross := [] } d
  let gran : Nat → Nat := fun key => ((layerOf d c (key / 16384)).map pageGran).getD 0
  let put : Bool → Nat × PageEnt → Dev → Dev := fun own e x =>
    let f := if e.2.valid && decide (e.2.tier = 1) then newFrame 1 c.tenant (gran e.1) x else (0, x)
    modCtx i (fun y => if own then { y with pages := sSet y.pages e.1 { e.2 with loc := f.1 } }
      else { y with cross := sSet y.cross e.1 { e.2 with loc := f.1 } }) f.2
  let d1 := growHistory i (mapGrow i (c.cross.foldl (fun x e => put false e x) (c.pages.foldl (fun x e => put true e x) none_)))
  settlePages i (match c.prefix_.bind fun n => (getPrefix d1 n).map fun q => (n, q) with
    | some (n, q) => { d1 with att.prefixes := sSet d1.att.prefixes n.toNat { q with refs := q.refs + 1 } }
    | none => d1)

/-- Contexts under free IDs, in the order they came. -/
def addGuests (cs : List CtxSt) (d : Dev) : List Nat × Dev :=
  cs.foldl (fun (a : List Nat × Dev) c =>
    let r := addCtxs c 1 ([], a.2)
    match r.1 with
    | [i] => (a.1 ++ [i], placeGuest c i r.2)
    | _ => (a.1, r.2)) ([], d)

/-- Kind 1 at the target: the request is admitted as Paused and acknowledged (kind 2), or refused (kind 3). -/
def guestArrive (f : Frame) (d : Dev) : Dev :=
  let b := f.payload
  let home := fld b 1 4
  let cs := (takeStrs (fld b 13 1) (b.drop 15)).map (ctxOfBlob (fld b 5 8) d.time.cpNs.toNat)
  if !admitsGuest cs d then sendMsg 0x21 1 (fTenant f) (fSrc f) [] (toLe 1 3 ++ toLe 4 home) d
  else
    let r := addGuests cs d
    match r.1 with
    | [] => r.2
    | i :: rest =>
      let nb := fld b 14 1
      let beams := rest.take nb
      let dr := (rest.drop nb).head?
      let d1 := modCtx i (fun x => { x with beams := beams, draftCtx := dr }) r.2
      let d2 := beams.foldl (fun y j => modCtx j (fun x => { x with beamMember := true, beamLead := some i }) y) d1
      let d3 := dr.toList.foldl (fun y j => modCtx j (fun x => { x with draftOf := some i }) y) d2
      sendMsg 0x21 1 (fTenant f) (fSrc f) [] (toLe 1 2 ++ toLe 4 home ++ toLe 4 i)
        { d3 with fab.guests := sSet d3.fab.guests i (fSrc f * 2 ^ 32 + home) }

/-- Kinds 2 and 3 at the home: its own pages are freed and the command ends; or it has failed. -/
def homeAnswer (f : Frame) (d : Dev) : Dev :=
  let i := fld f.payload 1 4
  match d.fab.migrs.find? fun m => m.ctx = i && m.target = fSrc f && !m.admitted with
  | none => if fld f.payload 0 1 = 2 ∧ !(d.fab.migrs.any fun m => m.ctx = i && m.target = fSrc f) then
      sendMsg 0x21 1 (tagOf d i) (fSrc f) [] (toLe 1 5 ++ toLe 4 i) d else d
  | some m =>
    if fld f.payload 0 1 = 3 then migrFail m 1 d else
      let grp := ((getCtx d i).map (ctxGroup i)).getD []
      let d1 := grp.foldl (fun x j => modCtx j (fun c => { c with pages := [], cross := [], specPage := [] }) x)
        { d with
          fab.migrs := d.fab.migrs.map (fun x => if x.ctx = i then { x with admitted := true, origin := none } else x)
          att.moves := d.att.moves.filter (fun x => x.key.own = 2 || !grp.contains x.key.id) }
      match m.origin with
      | some (.mgmt sid id) => reply (some sid) 0x14 id done true [] d1
      | _ => d1

/-- The guest of a home's context. -/
def guestFor (src home : Nat) (d : Dev) : Option Nat := (d.fab.guests.find? fun g => g.2 = src * 2 ^ 32 + home).map (·.1)

/-- Type 21h. Kinds: 1 transfer, 2 admitted, 3 refused, 4 cancel, 5 the request has ended at home. -/
def migrationTake (f : Frame) (d : Dev) : Dev :=
  match fld f.payload 0 1 with
  | 1 => guestArrive f d
  | 2 => homeAnswer f d
  | 3 => homeAnswer f d
  | 4 => (guestFor (fSrc f) (fld f.payload 1 4) d).elim d fun i => modCtx i (fun c => { c with cancelled := true }) d
  | 5 => (guestFor (fSrc f) (fld f.payload 1 4) d).elim d fun i => dropGuest i d
  | _ => d

/-- CONTEXT_MIGRATION. -/
def execContextMigration (p : PortIx) (f : Frame) (s : State) : Out := runP p (fun n => takeMsg n 0x21 f (migrationTake f)) s

/-- Type 22h at the home, which alone writes completions and result data. -/
def relayCompletion (f : Frame) (d : Dev) : Dev :=
  let b := f.payload
  let i := fld b 0 4
  let st : W16 := BitVec.ofNat 16 (fld b 4 2)
  match d.fab.migrs.find? fun m => m.ctx = i && m.target = fSrc f && m.admitted with
  | none => d
  | some _ =>
    let final := decide (fld b 6 1 = 1)
    let ts := words4 ((b.drop 10).take (4 * fld b 8 2))
    let tok := (((getCtx d i).bind (genFor d)).map (·.2.tok)).getD []
    let d1 := if final then { d with fab.migrs := d.fab.migrs.filter fun m => m.ctx ≠ i } else d
    deliver i tok ts (if final then some st else none) (decide (fld b 7 1 = 1)) d1

/-- COMPLETION_RELAY. -/
def execCompletionRelay (p : PortIx) (f : Frame) (s : State) : Out := runP p (fun n => takeMsg n 0x22 f (relayCompletion f)) s

/-! The command. -/

/-- migrate (R330): a Paused request; an unreachable member fails it at once. -/
def migrateCmd (id : W32) (i target : Nat) (sid : Option Nat) (d : Dev) : Dev :=
  match getCtx d i, sid with
  | some c, some n =>
    if !isLead c || decide (c.state ≠ 4) || migrating d i || isGuest d i || decide (target = selfMember d) then reply sid 0x14 id refusedNow true [] d
    else
      let d1 := reply sid 0x14 id accepted false [] (addPend sid { id := id, code := 0x14 } d)
      let m : MigrSt := { ctx := i, target := target, origin := some (.mgmt n id) }
      if !inView d1 target then migrFail m 3 d1
      else if (firstHop d1 true target).isNone then migrFail m 2 d1
      else
        sendMsg 0x21 1 (tagOf d1 i) target [] (transferBody i c d1) { d1 with fab.migrs := d1.fab.migrs ++ [m] }
  | _, _ => reply sid 0x14 id refusedNow true [] d

/-- MIGRATE. -/
def execMigrate (mc : MgmtCmd) (ctx : W32) (target : Nat) (s : State) : Out :=
  run (mgmtGate mc 0x14 1 .serving (decide (ctx.toNat < 1048576 ∧ target < 64)) (migrateCmd mc.id ctx.toNat target)) s

end Sys2Proof.Machine
end

