-- ==== Sys2Proof/Machine/Spdm.lean ====
section
/-! DEFINITION. Attestation: measurement blocks (R357) and the SPDM 1.2 messages of R358. The layout of the messages is that of
SPDM 1.2 (log entry 32). -/

namespace Sys2Proof.Machine

/-! Measurement blocks. -/

/-- The configuration block as read at start-up or last applied live. -/
def blockInForce (d : Dev) : Bytes := if d.nor.usable then (let b := norHalf d d.nor.half; b.take (48 + cfgLen b)) else []

/-- Loaded policy programs; 32 bytes of 0 when none is loaded. -/
def policyDigest (d : Dev) : Bytes :=
  if !d.num.policy.loaded && !d.srv.adm.loaded then List.replicate 32 0
  else sm3 ((if d.num.policy.loaded then d.num.policy.prog else []) ++ (if d.srv.adm.loaded then d.srv.adm.prog else []))

/-- Highest debug level open. -/
def highestLevel (d : Dev) : Nat := d.sec.debugs.foldl (fun a x => max a x.level) 0

/-- A measurement block: whether it is a raw value, and its bytes. -/
def measureBlock (d : Dev) (i : Nat) : Bool × Bytes :=
  match i with
  | 8 => (false, sm3 (blockInForce d))
  | 9 => (true, toLe 1 d.sec.lifecycle ++ toLe 2 d.sec.fwRollback ++ toLe 1 d.sec.lanternRollback)
  | 10 => (false, policyDigest d)
  | 11 => (false, sm3 ((watchProg d.lmp.watch).flatMap fun w => toLe 2 w.toNat))
  | 12 => (true, (List.range 3).flatMap (fun l => toLe 2 (sGet 0 d.sec.opened (l + 1))) ++ toLe 1 (highestLevel d))
  | 13 => (false, sm3 (enrolBytes d))
  | c => (false, runDigest d c)

/-- Number of measurement blocks. -/
def blockCountM : Nat := 13

/-- A block as an SPDM measurement record: index, specification, size, value type, value size, value. -/
def measureRec (d : Dev) (i : Nat) : Bytes :=
  let b := measureBlock d i
  toLe 1 i ++ toLe 1 1 ++ toLe 2 (3 + b.2.length) ++ toLe 1 ((if i ≤ 7 then 1 else if i = 8 then 3 else 4) + 128 * b2n b.1)
    ++ toLe 2 b.2.length ++ b.2

/-! Transports. -/

inductive SpdmFrom where
  | doe
  | smbus
  | session (mc : MgmtCmd)

def spdmKey : SpdmFrom → Nat
  | .doe => 0
  | .smbus => 1
  | .session mc => 2 + mc.sid.getD 0

def spdmSend (v : SpdmFrom) (bytes : Bytes) (d : Dev) : Dev :=
  match v with
  | .doe => emit (.spdm 0 bytes) d
  | .smbus => emit (.smbus bytes) d
  | .session mc => replyLong mc.sid 0x90 mc.id bytes d

/-- ERROR with a code: 01h invalid request, 04h unexpected request, 07h unsupported request. -/
def spdmError (v : SpdmFrom) (code data : Nat) (d : Dev) : Dev := spdmSend v (toLe 1 0x12 ++ toLe 1 0x7F ++ toLe 1 code ++ toLe 1 data) d

/-- Answer a request: the transport's stage and the transcript of both messages follow. -/
def spdmAnswer (v : SpdmFrom) (stage : Nat) (msg resp : Bytes) (restart : Bool) (d : Dev) : Dev :=
  let k := spdmKey v
  let x := sGet {} d.sec.spdm k
  spdmSend v resp { d with sec.spdm := sPut {} d.sec.spdm k { stage := stage, log := (if restart then [] else x.log) ++ msg ++ resp } }

def stageOf (v : SpdmFrom) (d : Dev) : Nat := (sGet {} d.sec.spdm (spdmKey v)).stage

/-- The certificate chain of slot 0. -/
def slotChain (d : Dev) : Bytes :=
  Config.certDer 0 d.sec.cert d.sec.seed (runDigest d 1) ++ Config.certDer 1 d.sec.cert d.sec.seed (runDigest d 1)

/-- Sign the transcript with a message whose signature is still missing. -/
def spdmSign (v : SpdmFrom) (msg resp : Bytes) (d : Dev) : Bytes × Dev :=
  signAk (sm3 ((sGet {} d.sec.spdm (spdmKey v)).log ++ msg ++ resp)) d

def hdr12 (code p1 p2 : Nat) : Bytes := toLe 1 0x12 ++ toLe 1 code ++ toLe 1 p1 ++ toLe 1 p2

/-- GET_VERSION: version 1.2. -/
def spdmVersion (v : SpdmFrom) (msg : Bytes) (d : Dev) : Dev :=
  spdmAnswer v 1 msg (toLe 1 0x10 ++ toLe 1 0x04 ++ toLe 2 0 ++ toLe 1 0 ++ toLe 1 1 ++ toLe 2 0x1200) true d

/-- GET_CAPABILITIES: CERT_CAP, CHAL_CAP, MEAS_CAP with signature; timing and sizes are free. -/
def spdmCaps (v : SpdmFrom) (msg : Bytes) (d : Dev) : Dev :=
  if stageOf v d < 1 then spdmError v 4 0 d
  else
    let r := fresh 8 d
    let z := fresh 64 r.2
    spdmAnswer v 2 msg (hdr12 0x61 0 0 ++ toLe 1 0 ++ toLe 1 r.1.toNat ++ toLe 2 0 ++ toLe 4 0x16 ++ toLe 8 z.1.toNat) false z.2

/-- NEGOTIATE_ALGORITHMS: SM2 and SM3 only. -/
def spdmAlgs (v : SpdmFrom) (msg : Bytes) (d : Dev) : Dev :=
  if stageOf v d < 2 then spdmError v 4 0 d
  else
    let asym := if bitAt (fld msg 8 4) 9 then 0x200 else 0
    let hash := if bitAt (fld msg 12 4) 6 then 0x40 else 0
    spdmAnswer v 3 msg (hdr12 0x63 0 0 ++ toLe 2 36 ++ toLe 1 1 ++ toLe 1 0 ++ toLe 4 0x80 ++ toLe 4 asym ++ toLe 4 hash
      ++ List.replicate 16 0) false d

/-- GET_DIGESTS: slot 0. -/
def spdmDigests (v : SpdmFrom) (msg : Bytes) (d : Dev) : Dev :=
  if stageOf v d < 3 then spdmError v 4 0 d else spdmAnswer v 3 msg (hdr12 0x01 0 1 ++ sm3 (slotChain d)) false d

/-- GET_CERTIFICATE: a part of slot 0's chain. -/
def spdmCert (v : SpdmFrom) (msg : Bytes) (d : Dev) : Dev :=
  if stageOf v d < 3 then spdmError v 4 0 d
  else if fld msg 2 1 ≠ 0 ∨ fld msg 4 2 ≥ (slotChain d).length then spdmError v 1 0 d
  else
    let part := ((slotChain d).drop (fld msg 4 2)).take (fld msg 6 2)
    spdmAnswer v 3 msg (hdr12 0x02 0 0 ++ toLe 2 part.length ++ toLe 2 ((slotChain d).length - fld msg 4 2 - part.length) ++ part) false d

/-- CHALLENGE: the chain's digest, a nonce, the measurement summary where asked for, a signature over the transcript. -/
def spdmChallenge (v : SpdmFrom) (msg : Bytes) (d : Dev) : Dev :=
  if stageOf v d < 3 then spdmError v 4 0 d
  else if fld msg 2 1 ≠ 0 then spdmError v 1 0 d
  else
    let n := drbg 32 d
    let all := if fld msg 3 1 = 0 then [] else sm3 ((List.range blockCountM).flatMap fun i => measureRec d (i + 1))
    let resp := hdr12 0x03 0 1 ++ sm3 (slotChain d) ++ n.1 ++ all ++ toLe 2 0
    let s := spdmSign v msg resp n.2
    spdmAnswer v 3 msg (resp ++ s.1) false s.2

/-- GET_MEASUREMENTS: the number of blocks, one block, or all of them, signed where asked for. -/
def spdmMeasure (v : SpdmFrom) (msg : Bytes) (d : Dev) : Dev :=
  if stageOf v d < 3 then spdmError v 4 0 d
  else
    let op := fld msg 3 1
    if op > blockCountM ∧ op ≠ 0xFF then spdmError v 1 0 d
    else
      let is := if op = 0 then [] else if op = 0xFF then (List.range blockCountM).map (· + 1) else [op]
      let recs := is.flatMap (measureRec d)
      let n := drbg 32 d
      let resp := hdr12 0x60 (if op = 0 then blockCountM else 0) 0 ++ toLe 1 is.length ++ toLe 3 recs.length ++ recs ++ n.1 ++ toLe 2 0
      if bitAt (fld msg 2 1) 0 then (let s := spdmSign v msg resp n.2; spdmAnswer v 3 msg (resp ++ s.1) false s.2)
      else spdmAnswer v 3 msg resp false n.2

/-- The Lantern answers from the end of start step 2, outside Blank (R355). -/
def attests (d : Dev) : Bool := lanternUp d && decide (d.sec.lifecycle ≠ 0)

/-- A request of a transport; a code other than the row's is one that is not supported. -/
def spdmRow (via_ : SpdmVia) (code : Nat) (f : SpdmFrom → Bytes → Dev → Dev) (msg : Bytes) (d : Dev) : Dev :=
  let v : SpdmFrom := match via_ with
    | .doe => .doe
    | .smbus => .smbus
  if !attests d || (decide (via_ = .doe) && !fnPresent d 0) then d
  else if msg.length < 4 then spdmError v 1 0 d
  else if fld msg 1 1 ≠ code then spdmError v 7 (fld msg 1 1) d
  else f v msg d

/-- GET_VERSION. -/
def execGetVersion (via : SpdmVia) (msg : Bytes) (s : State) : Out := run (spdmRow via 0x84 spdmVersion msg) s
/-- GET_CAPABILITIES. -/
def execGetCapabilities (via : SpdmVia) (msg : Bytes) (s : State) : Out := run (spdmRow via 0xE1 spdmCaps msg) s
/-- NEGOTIATE_ALGORITHMS. -/
def execNegotiateAlgorithms (via : SpdmVia) (msg : Bytes) (s : State) : Out := run (spdmRow via 0xE3 spdmAlgs msg) s
/-- GET_DIGESTS. -/
def execGetDigests (via : SpdmVia) (msg : Bytes) (s : State) : Out := run (spdmRow via 0x81 spdmDigests msg) s
/-- GET_CERTIFICATE. -/
def execGetCertificate (via : SpdmVia) (msg : Bytes) (s : State) : Out := run (spdmRow via 0x82 spdmCert msg) s
/-- CHALLENGE. -/
def execChallenge (via : SpdmVia) (msg : Bytes) (s : State) : Out := run (spdmRow via 0x83 spdmChallenge msg) s
/-- GET_MEASUREMENTS. -/
def execGetMeasurements (via : SpdmVia) (msg : Bytes) (s : State) : Out := run (spdmRow via 0xE0 spdmMeasure msg) s

/-- A request carried by a management session. -/
def spdmSession (mc : MgmtCmd) (msg : Bytes) (d : Dev) : Dev :=
  let v := SpdmFrom.session mc
  if !attests d then reply mc.sid 0x90 mc.id refusedNow true [] d
  else match fld msg 1 1 with
    | 0x84 => spdmVersion v msg d
    | 0xE1 => spdmCaps v msg d
    | 0xE3 => spdmAlgs v msg d
    | 0x81 => spdmDigests v msg d
    | 0x82 => spdmCert v msg d
    | 0x83 => spdmChallenge v msg d
    | 0xE0 => spdmMeasure v msg d
    | c => spdmError v 7 c d

/-- SPDM. -/
def execSpdm (mc : MgmtCmd) (msg : Bytes) (s : State) : Out :=
  run (mgmtGate mc 0x90 2 .lantern (decide (4 ≤ msg.length)) fun _ => spdmSession mc msg) s

end Sys2Proof.Machine
end

