-- ==== Sys2Proof/Machine/Dispatch.lean ====
section
/-! DEFINITION. One arm per command: the meaning it calls. -/

namespace Sys2Proof.Machine

def exec (i : Instr) (s : State) : Host.Outcome State Fault Refusal :=
  match i with
  | .regWrite fn bar2 off wide v => Sys2Proof.Machine.execRegWrite fn bar2 off wide v s
  | .regReadLowHalf fn bar2 off => Sys2Proof.Machine.execRegReadLowHalf fn bar2 off s
  | .clkcorrSample => Sys2Proof.Machine.execClkcorrSample s
  | .clkcorrSampleDone unc => Sys2Proof.Machine.execClkcorrSampleDone unc s
  | .islandFreqChange isl units => Sys2Proof.Machine.execIslandFreqChange isl units s
  | .islandWakeOnRequest isl => Sys2Proof.Machine.execIslandWakeOnRequest isl s
  | .rngReseed u => Sys2Proof.Machine.execRngReseed u s
  | .add k f => Sys2Proof.Machine.execAdd k f s
  | .sub k f => Sys2Proof.Machine.execSub k f s
  | .mul k f => Sys2Proof.Machine.execMul k f s
  | .mulhu k f => Sys2Proof.Machine.execMulhu k f s
  | .andr k f => Sys2Proof.Machine.execAndr k f s
  | .orr k f => Sys2Proof.Machine.execOrr k f s
  | .xorr k f => Sys2Proof.Machine.execXorr k f s
  | .shl k f => Sys2Proof.Machine.execShl k f s
  | .shr k f => Sys2Proof.Machine.execShr k f s
  | .sra k f => Sys2Proof.Machine.execSra k f s
  | .slt k f => Sys2Proof.Machine.execSlt k f s
  | .sltu k f => Sys2Proof.Machine.execSltu k f s
  | .minr k f => Sys2Proof.Machine.execMinr k f s
  | .maxr k f => Sys2Proof.Machine.execMaxr k f s
  | .addi k f => Sys2Proof.Machine.execAddi k f s
  | .subi k f => Sys2Proof.Machine.execSubi k f s
  | .muli k f => Sys2Proof.Machine.execMuli k f s
  | .mulhui k f => Sys2Proof.Machine.execMulhui k f s
  | .andi k f => Sys2Proof.Machine.execAndi k f s
  | .ori k f => Sys2Proof.Machine.execOri k f s
  | .xori k f => Sys2Proof.Machine.execXori k f s
  | .shli k f => Sys2Proof.Machine.execShli k f s
  | .shri k f => Sys2Proof.Machine.execShri k f s
  | .srai k f => Sys2Proof.Machine.execSrai k f s
  | .slti k f => Sys2Proof.Machine.execSlti k f s
  | .sltui k f => Sys2Proof.Machine.execSltui k f s
  | .mini k f => Sys2Proof.Machine.execMini k f s
  | .maxi k f => Sys2Proof.Machine.execMaxi k f s
  | .ld8u k f => Sys2Proof.Machine.execLd8u k f s
  | .ld16u k f => Sys2Proof.Machine.execLd16u k f s
  | .ld32u k f => Sys2Proof.Machine.execLd32u k f s
  | .ld64 k f => Sys2Proof.Machine.execLd64 k f s
  | .st8 k f => Sys2Proof.Machine.execSt8 k f s
  | .st16 k f => Sys2Proof.Machine.execSt16 k f s
  | .st32 k f => Sys2Proof.Machine.execSt32 k f s
  | .st64 k f => Sys2Proof.Machine.execSt64 k f s
  | .csrr k f => Sys2Proof.Machine.execCsrr k f s
  | .csrw k f => Sys2Proof.Machine.execCsrw k f s
  | .beq k f => Sys2Proof.Machine.execBeq k f s
  | .bne k f => Sys2Proof.Machine.execBne k f s
  | .blt k f => Sys2Proof.Machine.execBlt k f s
  | .bge k f => Sys2Proof.Machine.execBge k f s
  | .bltu k f => Sys2Proof.Machine.execBltu k f s
  | .bgeu k f => Sys2Proof.Machine.execBgeu k f s
  | .bp k f => Sys2Proof.Machine.execBp k f s
  | .jr k f => Sys2Proof.Machine.execJr k f s
  | .jal k f => Sys2Proof.Machine.execJal k f s
  | .vadd k f => Sys2Proof.Machine.execVadd k f s
  | .vsub k f => Sys2Proof.Machine.execVsub k f s
  | .vmul k f => Sys2Proof.Machine.execVmul k f s
  | .vfma k f => Sys2Proof.Machine.execVfma k f s
  | .vmax k f => Sys2Proof.Machine.execVmax k f s
  | .vmin k f => Sys2Proof.Machine.execVmin k f s
  | .vclt k f => Sys2Proof.Machine.execVclt k f s
  | .vceq k f => Sys2Proof.Machine.execVceq k f s
  | .vcvt k f => Sys2Proof.Machine.execVcvt k f s
  | .vexp k f => Sys2Proof.Machine.execVexp k f s
  | .vrsqrt k f => Sys2Proof.Machine.execVrsqrt k f s
  | .vbcast k f => Sys2Proof.Machine.execVbcast k f s
  | .vsel k f => Sys2Proof.Machine.execVsel k f s
  | .vperm k f => Sys2Proof.Machine.execVperm k f s
  | .vld k f => Sys2Proof.Machine.execVld k f s
  | .vst k f => Sys2Proof.Machine.execVst k f s
  | .mma k f => Sys2Proof.Machine.execMma k f s
  | .mmt k f => Sys2Proof.Machine.execMmt k f s
  | .azero k f => Sys2Proof.Machine.execAzero k f s
  | .ast k f => Sys2Proof.Machine.execAst k f s
  | .ald k f => Sys2Proof.Machine.execAld k f s
  | .qgrp k f => Sys2Proof.Machine.execQgrp k f s
  | .qfp4 k f => Sys2Proof.Machine.execQfp4 k f s
  | .rsum k f => Sys2Proof.Machine.execRsum k f s
  | .rsumsq k f => Sys2Proof.Machine.execRsumsq k f s
  | .rmv k f => Sys2Proof.Machine.execRmv k f s
  | .rabs k f => Sys2Proof.Machine.execRabs k f s
  | .rclr k f => Sys2Proof.Machine.execRclr k f s
  | .rmerge k f => Sys2Proof.Machine.execRmerge k f s
  | .rget k f => Sys2Proof.Machine.execRget k f s
  | .rput k f => Sys2Proof.Machine.execRput k f s
  | .send k f => Sys2Proof.Machine.execSend k f s
  | .sendnb k f => Sys2Proof.Machine.execSendnb k f s
  | .recv k f => Sys2Proof.Machine.execRecv k f s
  | .recvnb k f => Sys2Proof.Machine.execRecvnb k f s
  | .mfree k f => Sys2Proof.Machine.execMfree k f s
  | .chcfg k f => Sys2Proof.Machine.execChcfg k f s
  | .messageArrive k ch => Sys2Proof.Machine.execMessageArrive k ch s
  | .creditReturn k ch => Sys2Proof.Machine.execCreditReturn k ch s
  | .dmaq k f => Sys2Proof.Machine.execDmaq k f s
  | .dwait k f => Sys2Proof.Machine.execDwait k f s
  | .dcnt k f => Sys2Proof.Machine.execDcnt k f s
  | .dmaDescriptorStart k q => Sys2Proof.Machine.execDmaDescriptorStart k q s
  | .dmaDescriptorComplete k q => Sys2Proof.Machine.execDmaDescriptorComplete k q s
  | .acall k f => Sys2Proof.Machine.execAcall k f s
  | .await k f => Sys2Proof.Machine.execAwait k f s
  | .atest k f => Sys2Proof.Machine.execAtest k f s
  | .pand k f => Sys2Proof.Machine.execPand k f s
  | .por k f => Sys2Proof.Machine.execPor k f s
  | .pxor k f => Sys2Proof.Machine.execPxor k f s
  | .pnot k f => Sys2Proof.Machine.execPnot k f s
  | .pset k f => Sys2Proof.Machine.execPset k f s
  | .pget k f => Sys2Proof.Machine.execPget k f s
  | .nop k f => Sys2Proof.Machine.execNop k f s
  | .fence k f => Sys2Proof.Machine.execFence k f s
  | .halt k f => Sys2Proof.Machine.execHalt k f s
  | .trap k f => Sys2Proof.Machine.execTrap k f s
  | .rdcyc k f => Sys2Proof.Machine.execRdcyc k f s
  | .stallWatchdog k => Sys2Proof.Machine.execStallWatchdog k s
  | .kernelDispatch k tenant entry argBlock base code job => Sys2Proof.Machine.execKernelDispatch k tenant entry argBlock base code job s
  | .debugHalt k => Sys2Proof.Machine.execDebugHalt k s
  | .debugResume k => Sys2Proof.Machine.execDebugResume k s
  | .debugStep k => Sys2Proof.Machine.execDebugStep k s
  | .dbgDataAccess k wr v => Sys2Proof.Machine.execDbgDataAccess k wr v s
  | .arrayCallAccept k ticket => Sys2Proof.Machine.execArrayCallAccept k ticket s
  | .trafficQueueRoom d => Sys2Proof.Machine.execTrafficQueueRoom d s
  | .trafficStallTimeout d => Sys2Proof.Machine.execTrafficStallTimeout d s
  | .outlierStageWaitTimeout k ticket => Sys2Proof.Machine.execOutlierStageWaitTimeout k ticket s
  | .dieSlot d => Sys2Proof.Machine.execDieSlot d s
  | .passResult d m => Sys2Proof.Machine.execPassResult d m s
  | .dieTotalsSend d buf => Sys2Proof.Machine.execDieTotalsSend d buf s
  | .outlierPartial k ticket slab => Sys2Proof.Machine.execOutlierPartial k ticket slab s
  | .arrayCallComplete k ticket => Sys2Proof.Machine.execArrayCallComplete k ticket s
  | .shareRecompute => Sys2Proof.Machine.execShareRecompute s
  | .converterLockLoss d => Sys2Proof.Machine.execConverterLockLoss d s
  | .converterLockReturn d us => Sys2Proof.Machine.execConverterLockReturn d us s
  | .lockLossTimeout d => Sys2Proof.Machine.execLockLossTimeout d s
  | .replacementHoldTimeout k ticket seg us => Sys2Proof.Machine.execReplacementHoldTimeout k ticket seg us s
  | .tilQuery unit => Sys2Proof.Machine.execTilQuery unit s
  | .nullPassDue d tile plane => Sys2Proof.Machine.execNullPassDue d tile plane s
  | .candleCheckDue tp => Sys2Proof.Machine.execCandleCheckDue tp s
  | .candleCheckResult t plane => Sys2Proof.Machine.execCandleCheckResult t plane s
  | .candleOverdue tp hours => Sys2Proof.Machine.execCandleOverdue tp hours s
  | .defectScanComplete tp pair found => Sys2Proof.Machine.execDefectScanComplete tp pair found s
  | .flagPoll => Sys2Proof.Machine.execFlagPoll s
  | .corrRecordCopy d => Sys2Proof.Machine.execCorrRecordCopy d s
  | .shadowRetry tp => Sys2Proof.Machine.execShadowRetry tp s
  | .programVerifyComplete tp r => Sys2Proof.Machine.execProgramVerifyComplete tp r s
  | .refreshStepComplete tp => Sys2Proof.Machine.execRefreshStepComplete tp s
  | .storeScrubDue tp codeword corrections readable copyHealthy => Sys2Proof.Machine.execStoreScrubDue tp codeword corrections readable copyHealthy s
  | .swapTokenAccrue seconds => Sys2Proof.Machine.execSwapTokenAccrue seconds s
  | .recipeSwitch l idx => Sys2Proof.Machine.execRecipeSwitch l idx s
  | .recipeCurrent l => Sys2Proof.Machine.execRecipeCurrent l s
  | .recipeList l => Sys2Proof.Machine.execRecipeList l s
  | .report code payload => Sys2Proof.Machine.execReport code payload s
  | .hookInvoke p adm => Sys2Proof.Machine.execHookInvoke p adm s
  | .hookAbort p => Sys2Proof.Machine.execHookAbort p s
  | .numHoldEnd key => Sys2Proof.Machine.execNumHoldEnd key s
  | .policyReenable => Sys2Proof.Machine.execPolicyReenable s
  | .admitReenable => Sys2Proof.Machine.execAdmitReenable s
  | .attCall k => Sys2Proof.Machine.execAttCall k s
  | .attWait k => Sys2Proof.Machine.execAttWait k s
  | .attItemComplete p m => Sys2Proof.Machine.execAttItemComplete p m s
  | .attMerge p m => Sys2Proof.Machine.execAttMerge p m s
  | .attCallComplete k ticket => Sys2Proof.Machine.execAttCallComplete k ticket s
  | .pageMoveComplete pg => Sys2Proof.Machine.execPageMoveComplete pg s
  | .pageFetchComplete pg r => Sys2Proof.Machine.execPageFetchComplete pg r s
  | .loadModel o rec => Sys2Proof.Machine.execLoadModel o rec s
  | .activate o model gen => Sys2Proof.Machine.execActivate o model gen s
  | .retire o model gen force => Sys2Proof.Machine.execRetire o model gen force s
  | .unload o model keepGolden force => Sys2Proof.Machine.execUnload o model keepGolden force s
  | .cancelLoad o model => Sys2Proof.Machine.execCancelLoad o model s
  | .hint o rec => Sys2Proof.Machine.execHint o rec s
  | .shardReceive model index frame => Sys2Proof.Machine.execShardReceive model index frame s
  | .shardFetchTimeout model index => Sys2Proof.Machine.execShardFetchTimeout model index s
  | .blockDecode model => Sys2Proof.Machine.execBlockDecode model s
  | .dtabWaitTimeout model table us => Sys2Proof.Machine.execDtabWaitTimeout model table us s
  | .dtabInstall model table => Sys2Proof.Machine.execDtabInstall model table s
  | .dryPassComplete model => Sys2Proof.Machine.execDryPassComplete model s
  | .drainLimitExpire model gen => Sys2Proof.Machine.execDrainLimitExpire model gen s
  | .epochBoundary => Sys2Proof.Machine.execEpochBoundary s
  | .planComputed plan checked => Sys2Proof.Machine.execPlanComputed plan checked s
  | .migrationComplete index => Sys2Proof.Machine.execMigrationComplete index s
  | .plcGenQuery v => Sys2Proof.Machine.execPlcGenQuery v s
  | .plcAttQuery v => Sys2Proof.Machine.execPlcAttQuery v s
  | .request fn sq entry input => Sys2Proof.Machine.execRequest fn sq entry input s
  | .cancelEntry fn sq entry => Sys2Proof.Machine.execCancelEntry fn sq entry s
  | .sailingEnd m => Sys2Proof.Machine.execSailingEnd m s
  | .sailingOverrun us => Sys2Proof.Machine.execSailingOverrun us s
  | .setClassCap cls share => Sys2Proof.Machine.execSetClassCap cls share s
  | .admitReport code payload => Sys2Proof.Machine.execAdmitReport code payload s
  | .deadlineSummary => Sys2Proof.Machine.execDeadlineSummary s
  | .srvCtxQuery v => Sys2Proof.Machine.execSrvCtxQuery v s
  | .sqTailDoorbell fn n v => Sys2Proof.Machine.execSqTailDoorbell fn n v s
  | .cqHeadDoorbell fn n v => Sys2Proof.Machine.execCqHeadDoorbell fn n v s
  | .evtDoorbell fn v => Sys2Proof.Machine.execEvtDoorbell fn v s
  | .sqEnable fn n v => Sys2Proof.Machine.execSqEnable fn n v s
  | .sqDisable fn n v => Sys2Proof.Machine.execSqDisable fn n v s
  | .cqEnable fn n v => Sys2Proof.Machine.execCqEnable fn n v s
  | .cqDisable fn n v => Sys2Proof.Machine.execCqDisable fn n v s
  | .evtWindowEnable fn v => Sys2Proof.Machine.execEvtWindowEnable fn v s
  | .cqAggTimeout fn n => Sys2Proof.Machine.execCqAggTimeout fn n s
  | .flrVf fn => Sys2Proof.Machine.execFlrVf fn s
  | .flrPf => Sys2Proof.Machine.execFlrPf s
  | .perstNAssert => Sys2Proof.Machine.execPerstNAssert s
  | .d3hotEnter fn => Sys2Proof.Machine.execD3hotEnter fn s
  | .d3hotExit fn => Sys2Proof.Machine.execD3hotExit fn s
  | .linkRetrain rate width flit => Sys2Proof.Machine.execLinkRetrain rate width flit s
  | .configRequest fn wr off v => Sys2Proof.Machine.execConfigRequest fn wr off v s
  | .getVersion via msg => Sys2Proof.Machine.execGetVersion via msg s
  | .getCapabilities via msg => Sys2Proof.Machine.execGetCapabilities via msg s
  | .negotiateAlgorithms via msg => Sys2Proof.Machine.execNegotiateAlgorithms via msg s
  | .getDigests via msg => Sys2Proof.Machine.execGetDigests via msg s
  | .getCertificate via msg => Sys2Proof.Machine.execGetCertificate via msg s
  | .challenge via msg => Sys2Proof.Machine.execChallenge via msg s
  | .getMeasurements via msg => Sys2Proof.Machine.execGetMeasurements via msg s
  | .ackAndCredit p f => Sys2Proof.Machine.execAckAndCredit p f s
  | .heartbeat p f => Sys2Proof.Machine.execHeartbeat p f s
  | .heartbeatEcho p f now => Sys2Proof.Machine.execHeartbeatEcho p f now s
  | .nak p f => Sys2Proof.Machine.execNak p f s
  | .frameReceive p f => Sys2Proof.Machine.execFrameReceive p f s
  | .heartbeatSend p now => Sys2Proof.Machine.execHeartbeatSend p now s
  | .heartbeatTimeout p => Sys2Proof.Machine.execHeartbeatTimeout p s
  | .resendTimeout p => Sys2Proof.Machine.execResendTimeout p s
  | .ackTimer p => Sys2Proof.Machine.execAckTimer p s
  | .pcsLockLoss p => Sys2Proof.Machine.execPcsLockLoss p s
  | .fecErrorRate p uncorr => Sys2Proof.Machine.execFecErrorRate p uncorr s
  | .portTrained p => Sys2Proof.Machine.execPortTrained p s
  | .trainingRetry p => Sys2Proof.Machine.execTrainingRetry p s
  | .spareReturn p => Sys2Proof.Machine.execSpareReturn p s
  | .joinRec p f => Sys2Proof.Machine.execJoinRec p f s
  | .joinSend p => Sys2Proof.Machine.execJoinSend p s
  | .linkStateAnnouncement p f => Sys2Proof.Machine.execLinkStateAnnouncement p f s
  | .lsaSend => Sys2Proof.Machine.execLsaSend s
  | .statisticsGossip p f => Sys2Proof.Machine.execStatisticsGossip p f s
  | .planComputeStart => Sys2Proof.Machine.execPlanComputeStart s
  | .epochPlan p f => Sys2Proof.Machine.execEpochPlan p f s
  | .generationState p f => Sys2Proof.Machine.execGenerationState p f s
  | .loadStatus p f => Sys2Proof.Machine.execLoadStatus p f s
  | .managementRelay p f => Sys2Proof.Machine.execManagementRelay p f s
  | .contextMigration p f => Sys2Proof.Machine.execContextMigration p f s
  | .completionRelay p f => Sys2Proof.Machine.execCompletionRelay p f s
  | .ferryDispatch p f out => Sys2Proof.Machine.execFerryDispatch p f out s
  | .ferryReturn p f => Sys2Proof.Machine.execFerryReturn p f s
  | .ferryTimeout ferry => Sys2Proof.Machine.execFerryTimeout ferry s
  | .shard p f => Sys2Proof.Machine.execShard p f s
  | .shardRequest p f => Sys2Proof.Machine.execShardRequest p f s
  | .crossCheckDue a b => Sys2Proof.Machine.execCrossCheckDue a b s
  | .crossCheckResult d1 d2 third => Sys2Proof.Machine.execCrossCheckResult d1 d2 third s
  | .arbitrationResult d3 => Sys2Proof.Machine.execArbitrationResult d3 s
  | .arbitrationTimeout => Sys2Proof.Machine.execArbitrationTimeout s
  | .cpSelfTest cp ok => Sys2Proof.Machine.execCpSelfTest cp ok s
  | .cpWatchdog cp => Sys2Proof.Machine.execCpWatchdog cp s
  | .cpRestart cp => Sys2Proof.Machine.execCpRestart cp s
  | .unitTestComplete unit ok => Sys2Proof.Machine.execUnitTestComplete unit ok s
  | .memoryUncorrectable e => Sys2Proof.Machine.execMemoryUncorrectable e s
  | .hbmPatrolScrub hot corrected => Sys2Proof.Machine.execHbmPatrolScrub hot corrected s
  | .ledgerCheckpoint => Sys2Proof.Machine.execLedgerCheckpoint s
  | .ledgerHourEnd => Sys2Proof.Machine.execLedgerHourEnd s
  | .goalEstimate => Sys2Proof.Machine.execGoalEstimate s
  | .mgtUnitQuery unit => Sys2Proof.Machine.execMgtUnitQuery unit s
  | .xchkRunNow => Sys2Proof.Machine.execXchkRunNow s
  | .clientHello conn via payload => Sys2Proof.Machine.execClientHello conn via payload s
  | .clientFinish sid payload => Sys2Proof.Machine.execClientFinish sid payload s
  | .dataRec sid seq tagOk id off bytes => Sys2Proof.Machine.execDataRec sid seq tagOk id off bytes s
  | .closeRec sid seq tagOk => Sys2Proof.Machine.execCloseRec sid seq tagOk s
  | .keepAlive sid seq tagOk => Sys2Proof.Machine.execKeepAlive sid seq tagOk s
  | .sessionIdleTimeout sid => Sys2Proof.Machine.execSessionIdleTimeout sid s
  | .sessionRekey sid => Sys2Proof.Machine.execSessionRekey sid s
  | .lockoutEnd => Sys2Proof.Machine.execLockoutEnd s
  | .mgmtRead mc off len => Sys2Proof.Machine.execMgmtRead mc off len s
  | .mgmtWrite mc off width v => Sys2Proof.Machine.execMgmtWrite mc off width v s
  | .readLog mc first count => Sys2Proof.Machine.execReadLog mc first count s
  | .modelCommand mc sub payload => Sys2Proof.Machine.execModelCommand mc sub payload s
  | .cancelRequest mc fn tag => Sys2Proof.Machine.execCancelRequest mc fn tag s
  | .writeVariant mc variant entry => Sys2Proof.Machine.execWriteVariant mc variant entry s
  | .readVariant mc variant => Sys2Proof.Machine.execReadVariant mc variant s
  | .migrate mc ctx target => Sys2Proof.Machine.execMigrate mc ctx target s
  | .loadPolicyProgram mc kind len => Sys2Proof.Machine.execLoadPolicyProgram mc kind len s
  | .unloadPolicyProgram mc kind => Sys2Proof.Machine.execUnloadPolicyProgram mc kind s
  | .reconfigure mc len writeOk => Sys2Proof.Machine.execReconfigure mc len writeOk s
  | .standby mc force => Sys2Proof.Machine.execStandby mc force s
  | .wakeCmd mc dom => Sys2Proof.Machine.execWakeCmd mc dom s
  | .firmwareBegin mc hdr => Sys2Proof.Machine.execFirmwareBegin mc hdr s
  | .firmwareData mc off bytes => Sys2Proof.Machine.execFirmwareData mc off bytes s
  | .firmwareEnd mc plain => Sys2Proof.Machine.execFirmwareEnd mc plain s
  | .activateFirmware mc => Sys2Proof.Machine.execActivateFirmware mc s
  | .abortUpdate mc => Sys2Proof.Machine.execAbortUpdate mc s
  | .loadWatchProgram mc n words => Sys2Proof.Machine.execLoadWatchProgram mc n words s
  | .stopWatchProgram mc => Sys2Proof.Machine.execStopWatchProgram mc s
  | .startWatchProgram mc => Sys2Proof.Machine.execStartWatchProgram mc s
  | .debugOpen mc level scope auth => Sys2Proof.Machine.execDebugOpen mc level scope auth s
  | .debugClose mc dbg => Sys2Proof.Machine.execDebugClose mc dbg s
  | .planeReadback mc dbg unit pos cells => Sys2Proof.Machine.execPlaneReadback mc dbg unit pos cells s
  | .assignTenant mc slot source blob => Sys2Proof.Machine.execAssignTenant mc slot source blob s
  | .releaseTenant mc slot => Sys2Proof.Machine.execReleaseTenant mc slot s
  | .scrubStepComplete slot => Sys2Proof.Machine.execScrubStepComplete slot s
  | .readAudit mc first count => Sys2Proof.Machine.execReadAudit mc first count s
  | .acknowledgeAudit mc seq => Sys2Proof.Machine.execAcknowledgeAudit mc seq s
  | .addKey mc idx role key label => Sys2Proof.Machine.execAddKey mc idx role key label s
  | .removeKey mc idx => Sys2Proof.Machine.execRemoveKey mc idx s
  | .changeRole mc idx role => Sys2Proof.Machine.execChangeRole mc idx role s
  | .readEnrolment mc => Sys2Proof.Machine.execReadEnrolment mc s
  | .requestNonce mc action => Sys2Proof.Machine.execRequestNonce mc action s
  | .lifecycle mc target auth => Sys2Proof.Machine.execLifecycle mc target auth s
  | .spdm mc msg => Sys2Proof.Machine.execSpdm mc msg s
  | .readCertificate mc which => Sys2Proof.Machine.execReadCertificate mc which s
  | .provision cert => Sys2Proof.Machine.execProvision cert s
  | .secMboxWrite v => Sys2Proof.Machine.execSecMboxWrite v s
  | .secSlotQuery v => Sys2Proof.Machine.execSecSlotQuery v s
  | .debugAttachedClear => Sys2Proof.Machine.execDebugAttachedClear s
  | .capacityEval => Sys2Proof.Machine.execCapacityEval s
  | .counterPublish => Sys2Proof.Machine.execCounterPublish s
  | .ping st => Sys2Proof.Machine.execPing st s
  | .setV st mv => Sys2Proof.Machine.execSetV st mv s
  | .enable st mv => Sys2Proof.Machine.execEnable st mv s
  | .disable st => Sys2Proof.Machine.execDisable st s
  | .wickRead st item => Sys2Proof.Machine.execWickRead st item s
  | .setIlim st lim => Sys2Proof.Machine.execSetIlim st lim s
  | .clearFault st => Sys2Proof.Machine.execClearFault st s
  | .wickTimeout st cmd cause => Sys2Proof.Machine.execWickTimeout st cmd cause s
  | .faultyStagePing st ok => Sys2Proof.Machine.execFaultyStagePing st ok s
  | .stageAlert status => Sys2Proof.Machine.execStageAlert status s
  | .phaseFailure st phase => Sys2Proof.Machine.execPhaseFailure st phase s
  | .windowEnd m => Sys2Proof.Machine.execWindowEnd m s
  | .thermalLimitEval fast => Sys2Proof.Machine.execThermalLimitEval fast s
  | .domainIdleTimeout dom tgt => Sys2Proof.Machine.execDomainIdleTimeout dom tgt s
  | .domainWake dom source => Sys2Proof.Machine.execDomainWake dom source s
  | .wakeStepComplete dom ready => Sys2Proof.Machine.execWakeStepComplete dom ready s
  | .wakeStepTimeout dom => Sys2Proof.Machine.execWakeStepTimeout dom s
  | .vinBelow38v v => Sys2Proof.Machine.execVinBelow38v v s
  | .vinUvlo v => Sys2Proof.Machine.execVinUvlo v s
  | .vstbyLoss v => Sys2Proof.Machine.execVstbyLoss v s
  | .vinHigh v => Sys2Proof.Machine.execVinHigh v s
  | .vinRecover v => Sys2Proof.Machine.execVinRecover v s
  | .wakeNAssert => Sys2Proof.Machine.execWakeNAssert s
  | .smbusAddressMatch addr => Sys2Proof.Machine.execSmbusAddressMatch addr s
  | .alertResponseRead => Sys2Proof.Machine.execAlertResponseRead s
  | .tripRestart => Sys2Proof.Machine.execTripRestart s
  | .thmTripClear => Sys2Proof.Machine.execThmTripClear s
  | .pwrDomainQuery v => Sys2Proof.Machine.execPwrDomainQuery v s
  | .thmSensorQuery v => Sys2Proof.Machine.execThmSensorQuery v s
  | .sensorSweep m => Sys2Proof.Machine.execSensorSweep m s
  | .conversionComplete m => Sys2Proof.Machine.execConversionComplete m s
  | .listPeriod => Sys2Proof.Machine.execListPeriod s
  | .loopDelayExpire => Sys2Proof.Machine.execLoopDelayExpire s
  | .adcListTrigger => Sys2Proof.Machine.execAdcListTrigger s
  | .adcConfigChange reg v => Sys2Proof.Machine.execAdcConfigChange reg v s
  | .adcUrgent v => Sys2Proof.Machine.execAdcUrgent v s
  | .extRefTimeout => Sys2Proof.Machine.execExtRefTimeout s
  | .adcSelfCheck codes => Sys2Proof.Machine.execAdcSelfCheck codes s
  | .tachUpdate pulses => Sys2Proof.Machine.execTachUpdate pulses s
  | .progCtlStart => Sys2Proof.Machine.execProgCtlStart s
  | .progCtlStop => Sys2Proof.Machine.execProgCtlStop s
  | .watchAdd d a b => Sys2Proof.Machine.execWatchAdd d a b s
  | .watchSub d a b => Sys2Proof.Machine.execWatchSub d a b s
  | .watchAnd d a b => Sys2Proof.Machine.execWatchAnd d a b s
  | .watchOr d a b => Sys2Proof.Machine.execWatchOr d a b s
  | .watchXor d a b => Sys2Proof.Machine.execWatchXor d a b s
  | .watchShl d a b => Sys2Proof.Machine.execWatchShl d a b s
  | .watchShr d a b => Sys2Proof.Machine.execWatchShr d a b s
  | .watchSra d a b => Sys2Proof.Machine.execWatchSra d a b s
  | .watchAddi d a imm => Sys2Proof.Machine.execWatchAddi d a imm s
  | .watchLdi d imm => Sys2Proof.Machine.execWatchLdi d imm s
  | .watchLui d z imm => Sys2Proof.Machine.execWatchLui d z imm s
  | .watchLd d a imm => Sys2Proof.Machine.execWatchLd d a imm s
  | .watchSt d a imm => Sys2Proof.Machine.execWatchSt d a imm s
  | .watchB off => Sys2Proof.Machine.execWatchB off s
  | .watchBZ off => Sys2Proof.Machine.execWatchBZ off s
  | .watchBNz off => Sys2Proof.Machine.execWatchBNz off s
  | .watchBN off => Sys2Proof.Machine.execWatchBN off s
  | .watchBNn off => Sys2Proof.Machine.execWatchBNn off s
  | .watchBC off => Sys2Proof.Machine.execWatchBC off s
  | .watchBNc off => Sys2Proof.Machine.execWatchBNc off s
  | .watchCall off => Sys2Proof.Machine.execWatchCall off s
  | .watchJr a z => Sys2Proof.Machine.execWatchJr a z s
  | .watchWait mask => Sys2Proof.Machine.execWatchWait mask s
  | .watchWaitReturn src => Sys2Proof.Machine.execWatchWaitReturn src s
  | .watchConv d a z => Sys2Proof.Machine.execWatchConv d a z s
  | .watchNote a b z => Sys2Proof.Machine.execWatchNote a b z s
  | .watchWake a b z => Sys2Proof.Machine.execWatchWake a b z s
  | .limdn a b z => Sys2Proof.Machine.execLimdn a b z s
  | .limup a b z => Sys2Proof.Machine.execLimup a b z s
  | .watchTrip a b z => Sys2Proof.Machine.execWatchTrip a b z s
  | .stby a b z => Sys2Proof.Machine.execStby a b z s
  | .pwm a b z => Sys2Proof.Machine.execPwm a b z s
  | .tmr a b z => Sys2Proof.Machine.execTmr a b z s
  | .actList a b z => Sys2Proof.Machine.execActList a b z s
  | .watchTimer => Sys2Proof.Machine.execWatchTimer s
  | .watchWatchdog => Sys2Proof.Machine.execWatchWatchdog s
  | .vstbyRise => Sys2Proof.Machine.execVstbyRise s
  | .startStepComplete m => Sys2Proof.Machine.execStartStepComplete m s
  | .firmwareHandover pauseUs => Sys2Proof.Machine.execFirmwareHandover pauseUs s
  | .componentConfirm c ms => Sys2Proof.Machine.execComponentConfirm c ms s
  | .confirmTimeout c broken => Sys2Proof.Machine.execConfirmTimeout c broken s
  | .clockIslandIdle i1 => Sys2Proof.Machine.execClockIslandIdle i1 s
  | .domainEntryStepComplete dom => Sys2Proof.Machine.execDomainEntryStepComplete dom s
  | .digitalEntryProduct k ticket seg => Sys2Proof.Machine.execDigitalEntryProduct k ticket seg s
  | .hostReadFailed fn sq target result addr entry => Sys2Proof.Machine.execHostReadFailed fn sq target result addr entry s
  | .perstNDeassert => Sys2Proof.Machine.execPerstNDeassert s
  | .aerErrorLogged uncorr status hdr => Sys2Proof.Machine.execAerErrorLogged uncorr status hdr s
  | .msixVectorUnmask fn vec => Sys2Proof.Machine.execMsixVectorUnmask fn vec s
  | .imageHeaderReceive model hdr sect => Sys2Proof.Machine.execImageHeaderReceive model hdr sect s
  | .referenceReady ext => Sys2Proof.Machine.execReferenceReady ext s
  | .mgtPhyResetRelease => Sys2Proof.Machine.execMgtPhyResetRelease s

end Sys2Proof.Machine
end

