-- ==== Sys2Proof/WellFormed.lean ====
section
/-! DEFINITION. Commands whose operands have the sizes the spec gives them; what an operand's type bounds needs no check. -/

namespace Sys2Proof

/-- Side counts: so many, each of 12 bits (R67). -/
def countsOk (n : Nat) (l : List Nat) : Bool := decide (l.length = n) && l.all fun c => decide (c ≤ 4095)

/-- The side counts of a pass: 520 pairs (R67). -/
def PassMeas.wf (m : PassMeas) : Bool := countsOk 520 m.cntP && countsOk 520 m.cntN

/-- A header of 32 bytes (R308). -/
def Frame.wf (f : Frame) : Bool := decide (f.hdr.length = 32)

/-- A frame on a link: its payload is at most 9,180 bytes (R308). -/
def Frame.wfLink (f : Frame) : Bool := f.wf && decide (f.payload.length ≤ 9180)

/-- A submission entry is 128 bytes (chapter "Host interface", R283). -/
def entryWf (e : List (BitVec 8)) : Bool := decide (e.length = 128)

/-- A 32-bit register lies at a multiple of 4 of its window, a 64-bit one at a multiple of 8 (R15). -/
def offWf (wide : Bool) (off : Nat) : Bool := decide (off < 2 ^ 32 ∧ off % (if wide then 8 else 4) = 0)

/-- Readings of every stage and every sensor (R388, R416). -/
def WindowMeas.wf (m : WindowMeas) : Bool := decide (m.stages.length = 12)
def SweepMeas.wf (m : SweepMeas) : Bool := decide (m.counts.length = 360 ∧ m.hbm.length = 4)

/-- Origin of a model command. -/
def Origin.wf : Origin → Bool
  | .host _ _ e => entryWf e
  | .mgmt _ _ => true
  | .peer _ => true

/-- The command's operands have the sizes the spec gives them. -/
def Instr.wf : Instr → Bool
  | .regWrite _ _ off wide _ => offWf wide off
  | .regReadLowHalf _ _ off => offWf off.wide off.off
  | .passResult _ m => m.wf
  | .loadModel o _ => o.wf
  | .activate o _ _ => o.wf
  | .retire o _ _ _ => o.wf
  | .unload o _ _ _ => o.wf
  | .cancelLoad o _ => o.wf
  | .hint o _ => o.wf
  | .request _ _ e _ => entryWf e
  | .cancelEntry _ _ e => entryWf e
  | .hostReadFailed _ _ target _ _ e => decide (target ≠ 1 ∧ target ≠ 2) || entryWf e
  | .configRequest _ _ off _ => decide (off < 4096 ∧ off % 4 = 0)
  | .ackAndCredit _ f => f.wfLink
  | .heartbeat _ f => f.wfLink
  | .heartbeatEcho _ f _ => f.wfLink
  | .nak _ f => f.wfLink
  | .frameReceive _ f => f.wfLink
  | .joinRec _ f => f.wf
  | .linkStateAnnouncement _ f => f.wf
  | .statisticsGossip _ f => f.wf
  | .epochPlan _ f => f.wf
  | .generationState _ f => f.wf
  | .loadStatus _ f => f.wf
  | .managementRelay _ f => f.wf
  | .contextMigration _ f => f.wf
  | .completionRelay _ f => f.wf
  | .ferryDispatch _ f _ => f.wf
  | .ferryReturn _ f => f.wf
  | .shard _ f => f.wf
  | .shardRequest _ f => f.wf
  | .stageAlert st => decide (st.length = 12)
  | .windowEnd m => m.wf
  | .sensorSweep m => m.wf
  | .adcSelfCheck codes => decide (codes.length = 6)
  | _ => true

end Sys2Proof
end

