-- ==== Sys2Proof/Safety.lean ====
section
/-! DEFINITION. The terms the statements are made in: a command that completes, a core that may run an instruction, what an
instruction leaves as it was, states that are well kept. -/

namespace Sys2Proof.Machine

/-- The command completes: it answers a next state whose device satisfies P, and the commands that wait are as before. -/
def Gives (c : Instr) (s : State) (P : Dev → Prop) : Prop :=
  ∃ d : Dev, exec c s = .next { s with dev := d } ∧ P d

/-! Core instructions. -/

/-- The core may run an instruction of len bytes at its program counter: it is not retired, its runtime or a kernel runs, its clock does
not change frequency, no debugger stops it there, and the instruction lies inside the executable map. -/
def CoreReady (d : Dev) (k : CoreIx) (len : Nat) : Prop :=
  let c := getCore d k
  (c.state = 0 ∨ c.state = 1) ∧ coreRetired d k = false ∧ c.relock = false ∧ c.stepping = false ∧ brkHit c = false
  ∧ c.pc.toNat + len ≤ sramHi

/-- Ready, and the instruction's guard lets it run (R162). -/
def GuardedReady (d : Dev) (k : CoreIx) (f : RForm) : Prop :=
  CoreReady d k 4 ∧ guardOn (getCore d k) f.guard f.neg = true

/-- The same of the I format and the long form, whose mod field is unused here. -/
def ImmReady (d : Dev) (k : CoreIx) (f : ImmForm) : Prop :=
  CoreReady d k (immLen f) ∧ immLegal f = true ∧ immGuard (getCore d k) f = true

/-- The core goes on at pc, blocked by nothing. -/
def atPc (pc : Nat) (c : CoreSt) : CoreSt :=
  { c with pc := BitVec.ofNat 22 pc, stalled := false, cause := 0, brkSkip := false }

/-- The core moves past an instruction of len bytes. -/
def moved (len : Nat) (c : CoreSt) : CoreSt := atPc (c.pc.toNat + len) c

/-- In the core grid only core k changed, and nothing outside the cores did. -/
def OnlyCore (k : Nat) (d d' : Dev) : Prop :=
  (∀ j, j ≠ k → getCore d' j = getCore d j) ∧ d' = { d with grid := { d.grid with cores := d'.grid.cores } }

/-- The whole effect of an instruction: g on its own core, which goes on behind it. Every other core, and everything else of
the block, is as before. -/
def CoreGives (i : Instr) (k : CoreIx) (len : Nat) (g : CoreSt → CoreSt) (s : State) : Prop :=
  Gives i s fun d => getCore d k = moved len (g (getCore s.dev k)) ∧ OnlyCore k s.dev d

/-- The same of an instruction that jumps to pc: a jump may leave a trace record (R178). -/
def CoreJumps (i : Instr) (k : CoreIx) (pc : Nat) (g : CoreSt → CoreSt) (s : State) : Prop :=
  Gives i s fun d => getCore d k = atPc pc (addTrace s.dev 0 (g (getCore s.dev k))) ∧ OnlyCore k s.dev d

/-- The core takes a fault at the instruction (R177). -/
def CoreFaults (i : Instr) (k : CoreIx) (code : W8) (addr : Nat) (s : State) : Prop :=
  exec i s = .next { s with dev := coreFault k (getCore s.dev k).pc code addr s.dev }

/-- The core blocks on a cause and keeps everything else. -/
def CoreStalls (i : Instr) (k : CoreIx) (cause : BitVec 3) (s : State) : Prop :=
  let c : CoreSt := { getCore s.dev k with stalled := true, cause := cause, brkSkip := true }
  exec i s = .next { s with dev := setCore k c s.dev }

/-- c with the status bits of arithmetic that c' has (COR_ACC_STAT). -/
def statusOf (c' c : CoreSt) : CoreSt :=
  { c with infMade := c'.infMade, nanMade := c'.nanMade, infCount := c'.infCount, nanCount := c'.nanCount }

/-- Everything but the core grid, the places where events are recorded, and what a non-finite result makes due (marks for a
recompute, cross-checks, candle checks: R342, R344) is as before. -/
def OnlyCoresAndEvents (d d' : Dev) : Prop :=
  d' = { d with grid := { d.grid with cores := d'.grid.cores }, num := { d.num with holds := d'.num.holds }, log := d'.log,
                rel := { d.rel with marks := d'.rel.marks, xchkDue := d'.rel.xchkDue, layersDue := d'.rel.layersDue },
                pins := d'.pins, hif := d'.hif, out := d'.out }

/-- The effect of an instruction that computes with floating-point numbers: g on its own core, which goes on behind it, up to
the core's arithmetic status; events may be recorded, and nothing else changes. -/
def CoreComputes (i : Instr) (k : CoreIx) (len : Nat) (g : CoreSt → CoreSt) (s : State) : Prop :=
  Gives i s fun d =>
    getCore d k = statusOf (getCore d k) (moved len (g (getCore s.dev k)))
    ∧ (∀ j, j ≠ k.val → getCore d j = getCore s.dev j) ∧ OnlyCoresAndEvents s.dev d

/-- An access of local memory that the map and the alignment allow and no watchpoint stops (R163, R178). -/
def MayAccess (c : CoreSt) (a n align : Nat) (write : Bool) : Prop :=
  accessFault a n align write = none ∧ wpHit c a n write = false

/-! Stores, and the tiles that matrix instructions still read (R168). -/

/-- c with the accumulators, and the tiles in use for them, that c' has. -/
def accsOf (c' c : CoreSt) : CoreSt := { c with acc := c'.acc, mma := c'.mma }

/-- No range of bytes meets a tile that the matrix instruction of accumulator m still reads. -/
def TileClear (c : CoreSt) (m : Nat) (rs : List (Nat × Nat)) : Prop :=
  ∀ e ∈ c.mma, e.1 = m → ∀ t ∈ e.2, ∀ r ∈ rs, r.1 + r.2 ≤ t.1 ∨ t.1 + t.2 ≤ r.1

/-- Accumulators of c' after stores to ranges by a core that is otherwise left as x: those whose tiles no store meets are as they were; the
others hold values that R168 leaves undefined. -/
def AccsKept (x c' : CoreSt) (rs : List (Nat × Nat)) : Prop :=
  (∀ m e, e < 1024 → TileClear x m rs → ra c' (m * 1024 + e) = ra x (m * 1024 + e))
  ∧ ((∀ m, TileClear x m rs) → c'.acc = x.acc ∧ c'.mma = x.mma)

/-- The whole effect of an instruction that stores to ranges of bytes: g on its own core but for accumulators whose tiles it meets. -/
def CoreStores (i : Instr) (k : CoreIx) (len : Nat) (rs : List (Nat × Nat)) (g : CoreSt → CoreSt) (s : State) : Prop :=
  Gives i s fun d =>
    let x := moved len (g (getCore s.dev k))
    getCore d k = accsOf (getCore d k) x ∧ AccsKept x (getCore d k) rs ∧ (∀ j, j ≠ k.val → getCore d j = getCore s.dev j)
    ∧ d = { s.dev with grid := { s.dev.grid with cores := d.grid.cores }, freeCtr := d.freeCtr
                       num := { s.dev.num with rng := d.num.rng } }

/-- The same of one that may report arithmetic cases. -/
def CoreStoresMade (i : Instr) (k : CoreIx) (len : Nat) (rs : List (Nat × Nat)) (g : CoreSt → CoreSt) (s : State) : Prop :=
  Gives i s fun d =>
    let x := statusOf (getCore d k) (moved len (g (getCore s.dev k)))
    getCore d k = accsOf (getCore d k) x ∧ AccsKept x (getCore d k) rs ∧ (∀ j, j ≠ k.val → getCore d j = getCore s.dev j)
    ∧ OnlyCoresAndEvents { s.dev with freeCtr := d.freeCtr } d

/-- A byte of a core's kernel SRAM or runtime area. -/
def byteOf (d : Dev) (k : CoreIx) (a : Nat) : W8 := sGet 0 (getCore d k).sram a

/-- Every memory of the block is in its canonical form: the cores' local memories and HBM. -/
def MemoryKept (d : Dev) : Prop := Memory.wf d.hbm ∧ ∀ k : Nat, Memory.wf (getCore d k).sram

/-- Nothing that planes are programmed for has lost one to reliability: planes of loads and shadows of refreshes are analogue planes in service,
and no entry of the plan is under way. -/
def NoneTaken (d : Dev) : Prop :=
  (∀ l ∈ d.plc.loads, ∀ q ∈ l.planes, pkPlane q < 160 ∧ planeState d q ≠ 7)
  ∧ (∀ e ∈ d.arr.refreshes, ∀ q, e.2.shadow = some q → pkPlane q < 160 ∧ planeState d q ≠ 7)
  ∧ ∀ r ∈ d.plc.plan, r.done = true ∨ r.withdrawn = true ∨ 6 ≤ r.entry.kind.val

/-! The instructions of R165 in groups of one shape. -/

/-- Class 0h but the shifts: s_d = s_a op s_b. slt, min and max compare as signed words (log entry 11). -/
def aluRows : List ((CoreIx → RForm → Instr) × (W64 → W64 → W64)) :=
  [(.add, fun x y => x + y), (.sub, fun x y => x - y), (.mul, fun x y => x * y),
   (.mulhu, fun x y => BitVec.ofNat 64 (x.toNat * y.toNat / 2 ^ 64)), (.andr, fun x y => x &&& y),
   (.orr, fun x y => x ||| y), (.xorr, fun x y => x ^^^ y), (.slt, fun x y => if x.toInt < y.toInt then 1 else 0),
   (.sltu, fun x y => if x.toNat < y.toNat then 1 else 0), (.minr, fun x y => if y.toInt < x.toInt then y else x),
   (.maxr, fun x y => if x.toInt < y.toInt then y else x)]

/-- The shifts of class 0h. -/
def shiftRows : List ((CoreIx → RForm → Instr) × (W64 → Nat → W64)) :=
  [(.shl, fun x n => x <<< n), (.shr, fun x n => x >>> n), (.sra, fun x n => x.sshiftRight n)]

/-- Class 1h: the immediate, sign-extended, in place of s_b; a shift takes its bits [5:0]. -/
def aluImmRows : List ((CoreIx → ImmForm → Instr) × (W64 → W64 → W64)) :=
  [(.addi, fun x y => x + y), (.subi, fun x y => x - y), (.muli, fun x y => x * y),
   (.mulhui, fun x y => BitVec.ofNat 64 (x.toNat * y.toNat / 2 ^ 64)), (.andi, fun x y => x &&& y),
   (.ori, fun x y => x ||| y), (.xori, fun x y => x ^^^ y), (.slti, fun x y => if x.toInt < y.toInt then 1 else 0),
   (.sltui, fun x y => if x.toNat < y.toNat then 1 else 0), (.mini, fun x y => if y.toInt < x.toInt then y else x),
   (.maxi, fun x y => if x.toInt < y.toInt then y else x), (.shli, fun x y => x <<< (y.toNat % 64)),
   (.shri, fun x y => x >>> (y.toNat % 64)), (.srai, fun x y => x.sshiftRight (y.toNat % 64))]

/-- Class 2h: loads and stores with their widths in bytes. -/
def loadRows : List ((CoreIx → ImmForm → Instr) × Nat) := [(.ld8u, 1), (.ld16u, 2), (.ld32u, 4), (.ld64, 8)]
def storeRows : List ((CoreIx → ImmForm → Instr) × Nat) := [(.st8, 1), (.st16, 2), (.st32, 4), (.st64, 8)]

/-- Class 3h: compare and branch. -/
def branchRows : List ((CoreIx → BForm → Instr) × (W64 → W64 → Prop)) :=
  [(.beq, fun x y => x = y), (.bne, fun x y => x ≠ y), (.blt, fun x y => x.toInt < y.toInt), (.bge, fun x y => y.toInt ≤ x.toInt),
   (.bltu, fun x y => x.toNat < y.toNat), (.bgeu, fun x y => y.toNat ≤ x.toNat)]

/-- Class 4h, arithmetic: the operation on decoded floats and on signed integers, each of old v_d, v_a and v_b. -/
def vectorRows : List ((CoreIx → RForm → Instr) × (FVal → FVal → FVal → FVal) × (Int → Int → Int → Int)) :=
  [(.vadd, fun _ a b => faddV a b, fun _ a b => a + b), (.vsub, fun _ a b => faddV a (fnegV b), fun _ a b => a - b),
   (.vmul, fun _ a b => fmulV a b, fun _ a b => a * b), (.vfma, fun x a b => faddV x (fmulV a b), fun x a b => x + a * b),
   (.vmax, fun _ a b => fmaxV a b, fun _ a b => max a b), (.vmin, fun _ a b => fminV a b, fun _ a b => min a b)]

/-- Class Ch: p_d = p_a op p_b. -/
def predRows : List ((CoreIx → RForm → Instr) × (W32 → W32 → W32)) :=
  [(.pand, fun x y => x &&& y), (.por, fun x y => x ||| y), (.pxor, fun x y => x ^^^ y)]

/-- Class 8h: the operation on the elements of a chunk, none where a lane is masked, with the cases it makes. -/
def reduceRows : List ((CoreIx → RForm → Instr) × (List (Option Nat) → RedCtx → RedCtx × Made)) :=
  [(.rsum, sumCtxM mv), (.rsumsq, sumCtxM fun x => mop mul32 (mv x) (mv x)), (.rmv, mvCtxM), (.rabs, absCtxM)]

/-- A row: the instruction and the use its encoding makes of the fields, false where a field the instruction does not use is not
0, or a used field is out of its range (R165). -/
abbrev GuardRow := (CoreIx → RForm → Instr) × (RForm → Bool)

/-- Predicates and the system class. -/
def guardedSystem : List GuardRow :=
  [(.pnot, fun f => decide (f.d.val < 8 ∧ f.a.val < 8 ∧ f.b = 0 ∧ f.mod = 0)),
   (.pset, fun f => decide (f.d.val < 8 ∧ f.b = 0 ∧ f.mod = 0)),
   (.pget, fun f => decide (f.a.val < 8 ∧ f.b = 0 ∧ f.mod = 0)),
   (.nop, fun f => decide (f.d = 0 ∧ f.a = 0 ∧ f.b = 0 ∧ f.mod = 0)),
   (.fence, fun f => decide (f.d = 0 ∧ f.a = 0 ∧ f.b = 0)),
   (.halt, fun f => decide (f.d = 0 ∧ f.a = 0 ∧ f.b = 0 ∧ f.mod = 0)),
   (.trap, fun f => decide (f.d = 0 ∧ f.a = 0 ∧ f.b = 0 ∧ f.mod = 0)),
   (.rdcyc, fun f => decide (f.a = 0 ∧ f.b = 0 ∧ f.mod = 0))]

/-- The matrix engine and the quantiser. -/
def guardedMatrix : List GuardRow :=
  [(.mma, fun f => decide (f.d.val < 4 ∧ f.mod.val < 7)),
   (.mmt, fun f => decide (f.d.val < 4 ∧ f.mod.val < 2)),
   (.azero, fun f => decide (f.d.val < 4 ∧ f.a = 0 ∧ f.b = 0 ∧ f.mod = 0)),
   (.ast, fun f => decide (f.d.val < 4 ∧ f.b = 0 ∧ f.mod.val < 2)),
   (.ald, fun f => decide (f.d.val < 4 ∧ f.b = 0 ∧ f.mod = 0)),
   (.qgrp, fun f => decide (f.d = 0 ∧ f.b = 0 ∧ f.mod = 0)),
   (.qfp4, fun f => decide (f.mod.val < 2))]

/-- Reduction contexts. -/
def guardedReduce : List GuardRow :=
  [(.rclr, fun f => decide (f.d.val < 4 ∧ f.a = 0 ∧ f.b = 0 ∧ f.mod = 0)),
   (.rmerge, fun f => decide (f.d.val < 4 ∧ f.b = 0 ∧ f.mod.val < 3)),
   (.rget, fun f => decide (f.a.val < 4 ∧ f.b = 0 ∧ f.mod.val < 5)),
   (.rput, fun f => decide (f.d = 0 ∧ f.a.val < 4 ∧ f.mod = 0))]

/-- Messages and DMA. -/
def guardedMessage : List GuardRow :=
  [(.send, fun f => decide (f.d.val < 16 ∧ f.mod = 0)),
   (.sendnb, fun f => decide (f.d.val < 16)),
   (.recv, fun f => decide (f.d.val % 2 = 0 ∧ f.a.val < 16 ∧ f.b = 0 ∧ f.mod = 0)),
   (.recvnb, fun f => decide (f.d.val % 2 = 0 ∧ f.a.val < 16 ∧ f.b = 0)),
   (.mfree, fun f => decide (f.d = 0 ∧ f.a.val < 16 ∧ f.b = 0 ∧ f.mod = 0)),
   (.chcfg, fun f => decide (f.d.val < 16 ∧ f.b = 0 ∧ f.mod = 0)),
   (.dmaq, fun f => decide (f.d.val < 4 ∧ f.b = 0 ∧ f.mod = 0)),
   (.dwait, fun f => decide (f.d.val < 4 ∧ f.b = 0 ∧ f.mod = 0)),
   (.dcnt, fun f => decide (f.a.val < 4 ∧ f.b = 0 ∧ f.mod = 0))]

/-- Array calls. -/
def guardedCall : List GuardRow :=
  [(.acall, fun f => decide (f.b = 0 ∧ f.mod = 0)),
   (.await, fun f => decide (f.d = 0 ∧ f.b = 0 ∧ f.mod = 0)),
   (.atest, fun f => decide (f.d = 0 ∧ f.b = 0))]

/-- Vector instructions with uses of their own. -/
def laneVector : List GuardRow :=
  [(.vclt, fun f => decide (f.d.val < 8 ∧ f.a.val < 16 ∧ f.b.val < 16) && tyArith f.mod),
   (.vceq, fun f => decide (f.d.val < 8 ∧ f.a.val < 16 ∧ f.b.val < 16) && tyArith f.mod),
   (.vcvt, fun f => decide (f.d.val < 16 ∧ f.a.val < 16 ∧ f.b.val < 7 ∧ f.mod.val < 7)),
   (.vexp, fun f => decide (f.d.val < 16 ∧ f.a.val < 16 ∧ f.b = 0) && tyArith f.mod),
   (.vrsqrt, fun f => decide (f.d.val < 16 ∧ f.a.val < 16 ∧ f.b = 0) && tyArith f.mod),
   (.vbcast, fun f => decide (f.d.val < 16 ∧ f.b = 0) && tyArith f.mod),
   (.vsel, fun f => decide (f.d.val < 16 ∧ f.a.val < 16 ∧ f.b.val < 8) && tyArith f.mod),
   (.vperm, fun f => decide (f.d.val < 16 ∧ f.a.val < 16 ∧ f.b.val < 16) && tyArith f.mod)]

/-- Every R-format instruction that runs under its guard as a whole (R162). -/
def guardedRows : List GuardRow :=
  let alu : List GuardRow := aluRows.map fun r => (r.1, fun f => decide (f.mod = 0))
  let shift : List GuardRow := shiftRows.map fun r => (r.1, fun f => decide (f.mod = 0))
  let pred : List GuardRow := predRows.map fun r => (r.1, fun f => decide (f.d.val < 8 ∧ f.a.val < 8 ∧ f.b.val < 8 ∧ f.mod = 0))
  alu ++ shift ++ pred ++ guardedSystem ++ guardedMatrix ++ guardedReduce ++ guardedMessage ++ guardedCall

/-- Every vector instruction of the R format: its guard acts on each lane (R162). -/
def laneRows : List GuardRow :=
  let vec : List GuardRow := vectorRows.map fun r =>
    (r.1, fun f => decide (f.d.val < 16 ∧ f.a.val < 16 ∧ f.b.val < 16) && tyArith f.mod)
  let red : List GuardRow := reduceRows.map fun r => (r.1, fun f => decide (f.d.val < 4 ∧ f.a.val < 16 ∧ f.b = 0 ∧ f.mod.val < 5))
  vec ++ laneVector ++ red

/-- The word at a core's program counter, and the one behind it. -/
def wordsAtPc (c : CoreSt) : Nat × Nat := (localNat c c.pc.toNat 4, localNat c (c.pc.toNat + 4) 4)

/-- A debug session of level 2 or 3 covers the core, and the audit ring has room for the records of one action (R370, R373). -/
def MayDebug (d : Dev) (k : CoreIx) : Prop := (dbgFor d 2 (uCore k)).isSome = true ∧ 9 < auditFree d

/-- The event is recorded in d, with the severity, tenant, unit and payload of its occurrence, and nothing else happens. -/
def Raised (code : W16) (d d' : Dev) : Prop := ∃ sev tenant unit p, d' = raise code sev tenant unit p d

/-! Management commands (R359, R361, R363). -/

/-- A direct, established session n in state x sends a command record that the gate lets through to its meaning: tag and sequence
are right, fewer than 16 commands are outstanding, the role suffices, the part of the device that answers has started, every
reserved byte is 0. -/
def Admitted (mc : MgmtCmd) (code role : Nat) (need : Need) (d : Dev) (n : Nat) (x : SessSt) : Prop :=
  mc.sid = some n ∧ getSess d n = some x ∧ x.established = true ∧ x.target = none ∧ mc.tagOk = true ∧ mc.seq = x.rx
  ∧ x.cmds.length < 16 ∧ x.role ≤ role ∧ (d.pwr.mode ≠ 4 ∨ (0x30 ≤ code ∧ code ≤ 0x34)) ∧ needMet d need = true
  ∧ mc.clean = true

/-- The device when the record has been taken: the session expects the next sequence. -/
def taken (n : Nat) (x : SessSt) (d : Dev) : Dev :=
  setSess n { x with rx := x.rx + 1, lastUs := d.time.stampUs } d

/-! Model commands (R286–R290). -/

/-- A command of a host function is fetched and passes the checks of its header and its unused bytes from `used` on; one of a
management session has passed the gate. -/
def Commanded (o : Origin) (sub used : Nat) (d : Dev) : Prop :=
  match o with
  | .host fn sq e => canFetch d fn.val sq.val = true ∧ sGet 0 d.sec.slots fn.val ≠ 2 ∧ fld e 0 1 = 3 ∧ headerOk e sub false = true
      ∧ zeros e used (128 - used) = true ∧ outstanding d fn.val < 16
  | .mgmt _ _ => True
  | .peer _ => False

/-- The device once the entry of a command has been fetched. -/
def fetched (o : Origin) (d : Dev) : Dev :=
  match o with
  | .host fn sq _ => fetchEntry fn.val sq.val d
  | _ => d

/-! The fabric. -/

/-- A link frame of a type arrives good on a port in whose state the type is carried, and nothing waits there to be sent. -/
def LinkFrame (p : PortIx) (type : Nat) (f : Frame) (d : Dev) : Prop :=
  stateCarries (getPort d p).state type = true ∧ crcGood f = true ∧ fType f = type ∧ fVl f = 7 ∧ (getPort d p).waitQ = []

/-- Only ports changed. -/
def OnlyPorts (d d' : Dev) : Prop := d' = { d with fab := { d.fab with ports := d'.fab.ports } }

/-- A frame as the port hands it to the serialiser. -/
def frameOut (p : PortIx) (f : Frame) : Output :=
  .frame p (fType f) (fVl f) (fSeq f).toNat (f.hdr ++ f.payload ++ toLe 4 f.crc.toNat)

/-- Port p in state x resends: every frame of its queue, stamped with what it expects next. -/
def Resends (p : PortIx) (x : PortSt) (d d' : Dev) : Prop :=
  let q := x.txQ.map fun f => withCrc (hdrSeq f.hdr (fSeq f) x.rxNext) f.payload
  getPort d' p = { x with txQ := q, resends := x.resends + 1, unacked := 0
                          resendCnt := BitVec.ofNat 16 (min (x.resendCnt.toNat + 1) 65535) }
  ∧ d'.out = d.out ++ q.map (frameOut p)

/-- A whole message of a type waits on a port; it is taken. -/
def Holds (p : PortIx) (type : Nat) (f : Frame) (d : Dev) : Prop := fType f = type ∧ (p.val, f) ∈ d.fab.accepted
def takenMsg (p : PortIx) (f : Frame) (d : Dev) : Dev := { d with fab := { d.fab with accepted := d.fab.accepted.erase (p.val, f) } }

/-! Firmware. -/

/-- The boot header's sequence is not about to wrap. -/
def SeqRoom (d : Dev) : Prop := (bootHdr d).seq.toNat + 8 < 2 ^ 32

/-- Session n is answered: the device is what the reply leaves of one in which the session stands as in t. -/
def Answers (n code : Nat) (id : W32) (status : W16) (final : Bool) (data : Bytes) (t d : Dev) : Prop :=
  ∃ e : Dev, getSess e n = getSess t n ∧ d = reply (some n) code id status final data e

/-! The watch processor (R417–R421). -/

/-- A program runs and waits for nothing. -/
def WatchReady (d : Dev) : Prop := d.lmp.watch.mode ≠ 0 ∧ d.lmp.watch.waiting = none ∧ d.lmp.watch.conv = none

/-- The instruction leaves the watch processor as w, and everything else of the block as it was. -/
def WatchGives (i : Instr) (w : WatchSt) (s : State) : Prop :=
  Gives i s fun d => d = { s.dev with lmp := { s.dev.lmp with watch := w } }

/-- The program faults with a cause (R421): an operator program gives way to the default one, a default program to safe mode;
both start at address 0, outputs return to their failsafe duty, and note 0001h is written. -/
def WatchFaults (i : Instr) (cause : Nat) (s : State) : Prop :=
  let w := s.dev.lmp.watch
  Gives i s fun d =>
    d.lmp.watch.faulted = true ∧ d.lmp.watch.cause = cause ∧ d.lmp.watch.mode = (if w.mode = 2 then 1 else 0)
    ∧ d.lmp.watch.pc = 0 ∧ d.lmp.watch.w = [] ∧ d.lmp.watch.data = [] ∧ d.lmp.duty = [] ∧ d.lmp.noteCnt = s.dev.lmp.noteCnt + 1
    ∧ (d.lmp.notes.getLast?.map fun x => (x.code, x.source)) = some (1, if w.mode = 2 then 2 else 1)

/-! The host interface. -/

/-- The PF may reach BAR2: configuration has begun (R452). -/
def PfPresent (d : Dev) : Prop := fnPresent d 0 = true

/-- A register of BAR2 that a read reaches as a register: aligned, outside the windows of R303 and R304, its block awake, no debug
data register. -/
def PlainReg (d : Dev) (off : Nat) : Prop :=
  off % 4 = 0 ∧ off < 0x800000 ∧ regAsleep d off = false ∧ dbgDataCore off = none

/-- An interrupt vector signalled: a message where the vector is unmasked, its pending bit where it is masked (R297). -/
def SignalledAs (fn : FnIx) (vec : Nat) (d d' : Dev) : Prop :=
  if (sGet {} (getFn d fn).msix vec).masked then (getFn d' fn).pba = (getFn d fn).pba ||| (1 <<< vec) ∧ d'.out = d.out
  else (getFn d' fn).pba = (getFn d fn).pba ∧ d'.out = d.out ++ [.msix fn vec]

end Sys2Proof.Machine
end

