-- ==== Sys2Proof/Certificates/Slice0/Obligations.lean ====
section
/-! DEFINITION. The statements for the provers: what the rules of the spec say of the commands and of the block's state. -/

section

open Sys2Proof Sys2Proof.Machine

/-- One step of a state with c in front is exec of c at the state with the queue's rest. -/
def Obligations.StepRunsFront : Prop :=
  ∀ (c : Instr) (s : State), step { s with pending := c :: s.pending } = exec c s

/-- On an empty queue time passes, and nothing else happens (log entry 1). -/
def Obligations.IdleStep : Prop :=
  ∀ s : State, s.pending = [] → ∃ d : Dev, step s = .next { s with dev := d }
    ∧ (s.dev.pwr.mode = 0 → d = s.dev)
    ∧ (s.dev.pwr.mode ≠ 0 → d.time.stampUs = s.dev.time.stampUs + 1
        ∧ (s.dev.pwr.mode = 1 ∨ (getDom s.dev 344).state = 4 → d.time.cpNs = s.dev.time.cpNs)
        ∧ (s.dev.pwr.mode ≠ 1 ∧ (getDom s.dev 344).state ≠ 4 → d.time.cpNs = s.dev.time.cpNs + 1000)
        ∧ d = { s.dev with time := { s.dev.time with stampUs := d.time.stampUs, cpNs := d.time.cpNs } })

/-- The queue of well-formed commands is served in order, and stays well-formed.
Every command of the table has an effect: exec answers a next state with the queue untouched. -/
def Obligations.StepKeepsWellFormedQueue : Prop :=
  (∀ s t : State, (∀ c ∈ s.pending, c.wf = true) → step s = .next t →
     t.pending = s.pending.tail ∧ ∀ c ∈ t.pending, c.wf = true)
  ∧ (∀ (c : Instr) (s : State), ∃ d : Dev, exec c s = .next { s with dev := d })

/-- Decoding an encoded core instruction gives it back, every operand with it. -/
def Obligations.CoreWordsRoundTrip : Prop :=
  ∀ (i : Instr) (k : CoreIx), coreOf i = some k →
    ∃ w v : Nat, coreEncode i = some (w, v) ∧ w < 2 ^ 32 ∧ v < 2 ^ 32 ∧ coreDecode k w v = some i

/-- Words of three formats, written out bit by bit from the tables of R165. -/
def Obligations.CoreWordExamples : Prop :=
  ∀ k : CoreIx,
    coreDecode k 0x60024280 0 = some (.mma k { d := 1, a := 4, b := 5, guard := 0, neg := false, mod := 0 })
    ∧ coreDecode k 0x40043258 0 = some (.vadd k { d := 2, a := 3, b := 4, guard := 5, neg := true, mod := 0 })
    ∧ coreDecode k 0xF100E000 0x12345
        = some (.addi k (.long { d := 7, a := 0, guard := 0, neg := false, mod := 0, imm := 0x12345 }))
    ∧ coreDecode k 0xFFFFFFFF 0 = none

/-- The register files: hard-wired s0 and p0, and read after write. -/
def Obligations.CoreRegistersRead : Prop :=
  ∀ (c : CoreSt) (i j : Nat),
    (∀ v : W64, rs (ws 0 v c) j = rs c j ∧ rs c 0 = 0 ∧ (i ≠ 0 → rs (ws i v c) i = v) ∧ (j ≠ i → rs (ws i v c) j = rs c j))
    ∧ (∀ v : W32, rp (wp 0 v c) j = rp c j ∧ rp c 0 = 0xFFFFFFFF ∧ (i ≠ 0 → rp (wp i v c) i = v)
        ∧ (j ≠ i → rp (wp i v c) j = rp c j))
    ∧ (∀ v : BitVec 1024, rv (wv i v c) i = v ∧ (j ≠ i → rv (wv i v c) j = rv c j))
    ∧ (∀ v : RedCtx, rc (wc i v c) i = v ∧ (j ≠ i → rc (wc i v c) j = rc c j))

/-- Class 0h. The signed comparison is log entry 11; a shift by 64 or more has a free result, log entry 12.
Class 1h in both formats. -/
def Obligations.ScalarArithmetic : Prop :=
  ((∀ r ∈ aluRows, ∀ (k : CoreIx) (f : RForm) (s : State), f.mod = 0 → GuardedReady s.dev k f →
     CoreGives (r.1 k f) k 4 (fun c => ws f.d (r.2 (rs c f.a) (rs c f.b)) c) s)
   ∧ (∀ r ∈ shiftRows, ∀ (k : CoreIx) (f : RForm) (s : State), f.mod = 0 → GuardedReady s.dev k f →
     ((rs (getCore s.dev k) f.b).toNat < 64 →
       CoreGives (r.1 k f) k 4 (fun c => ws f.d (r.2 (rs c f.a) (rs c f.b).toNat) c) s)
     ∧ (64 ≤ (rs (getCore s.dev k) f.b).toNat → ∃ v : W64, CoreGives (r.1 k f) k 4 (ws f.d v) s)))
  ∧ (∀ r ∈ aluImmRows, ∀ (k : CoreIx) (f : ImmForm) (s : State), ImmReady s.dev k f →
     CoreGives (r.1 k f) k (immLen f) (fun c => ws (immD f) (r.2 (rs c (immA f)) (immOf f)) c) s)

/-- ld8u, ld16u, ld32u and ld64.
st8, st16, st32 and st64: bytes written, bytes left.
R163's order of checks, and that loads and stores of every width take the fault. -/
def Obligations.LoadsAndStores : Prop :=
  (∀ r ∈ loadRows, ∀ (k : CoreIx) (f : ImmForm) (s : State), ImmReady s.dev k f →
     MayAccess (getCore s.dev k) (memAddr (getCore s.dev k) f) r.2 r.2 false →
     CoreGives (r.1 k f) k (immLen f)
       (fun c => ws (immD f) (BitVec.ofNat 64 (ofLe (localBytes c (rs c (immA f) + immOf f).toNat r.2))) c) s)
  ∧ (∀ r ∈ storeRows, ∀ (k : CoreIx) (f : ImmForm) (s : State), ImmReady s.dev k f →
     MayAccess (getCore s.dev k) (memAddr (getCore s.dev k) f) r.2 r.2 true →
     CoreStores (r.1 k f) k (immLen f) [(memAddr (getCore s.dev k) f, r.2)]
       (fun c => { c with sram := putBytes c.sram (memAddr c f) (toLe r.2 (rs c (immD f)).toNat) }) s
     ∧ Gives (r.1 k f) s fun d => ∀ p : Nat,
         (p < memAddr (getCore s.dev k) f ∨ memAddr (getCore s.dev k) f + r.2 ≤ p → byteOf d k p = byteOf s.dev k p)
         ∧ (∀ j, j < r.2 → byteOf d k (memAddr (getCore s.dev k) f + j)
             = BitVec.ofNat 8 ((rs (getCore s.dev k) (immD f)).toNat / 256 ^ j)))
  ∧ ((∀ (a n al : Nat) (wr : Bool),
     let mapped := (sramLo ≤ a ∧ a + n ≤ sramHi) ∨ (wr = false ∧ (a + n ≤ sramHi ∨ (0x201000 ≤ a ∧ a + n ≤ 0x201400)))
     (¬mapped → accessFault a n al wr = some 3) ∧ (mapped → a % al ≠ 0 → accessFault a n al wr = some 2)
     ∧ (mapped → a % al = 0 → accessFault a n al wr = none))
   ∧ (∀ r ∈ loadRows, ∀ (k : CoreIx) (f : ImmForm) (s : State) (code : W8), ImmReady s.dev k f →
       accessFault (memAddr (getCore s.dev k) f) r.2 r.2 false = some code →
       CoreFaults (r.1 k f) k code (memAddr (getCore s.dev k) f) s)
   ∧ (∀ r ∈ storeRows, ∀ (k : CoreIx) (f : ImmForm) (s : State) (code : W8), ImmReady s.dev k f →
       accessFault (memAddr (getCore s.dev k) f) r.2 r.2 true = some code →
       CoreFaults (r.1 k f) k code (memAddr (getCore s.dev k) f) s))

/-- Class 3h and jal; the fault of a misaligned target is log entry 11. -/
def Obligations.BranchesAndJumps : Prop :=
  (∀ r ∈ branchRows, ∀ (k : CoreIx) (f : BForm) (s : State), CoreReady s.dev k 4 →
    let c := getCore s.dev k
    (r.2 (rs c f.a) (rs c f.b) → CoreJumps (r.1 k f) k (c.pc + (f.off.signExtend 22 <<< 2)).toNat (fun c => c) s)
    ∧ (¬r.2 (rs c f.a) (rs c f.b) → CoreGives (r.1 k f) k 4 (fun c => c) s))
  ∧ (∀ (k : CoreIx) (f : BForm) (s : State), f.a.val < 8 → f.b = 0 → CoreReady s.dev k 4 →
    let c := getCore s.dev k
    ((rp c f.a).getLsbD 0 = true → CoreJumps (.bp k f) k (c.pc + (f.off.signExtend 22 <<< 2)).toNat (fun c => c) s)
    ∧ ((rp c f.a).getLsbD 0 = false → CoreGives (.bp k f) k 4 (fun c => c) s))
  ∧ (∀ (k : CoreIx) (f : BForm) (s : State), f.off = 0 → CoreReady s.dev k 4 →
    let a := (rs (getCore s.dev k) f.a).toNat
    (a % 4 = 0 → CoreJumps (.jr k f) k (a % 2 ^ 22) (fun c => ws f.b (BitVec.ofNat 64 (c.pc.toNat + 4)) c) s)
    ∧ (a % 4 ≠ 0 → CoreFaults (.jr k f) k 2 a s))
  ∧ (∀ (k : CoreIx) (f : LForm) (s : State), f.a = 0 → f.mod = 0 → CoreReady s.dev k 8 →
      guardOn (getCore s.dev k) f.guard f.neg = true →
    (f.imm.toNat % 4 = 0 →
      CoreJumps (.jal k f) k (f.imm.toNat % 2 ^ 22) (fun c => ws f.d (BitVec.ofNat 64 (c.pc.toNat + 8)) c) s)
    ∧ (f.imm.toNat % 4 ≠ 0 → CoreFaults (.jal k f) k 2 f.imm.toNat s))

/-- csrr and csrw; an index without a register is log entry 11. -/
def Obligations.CoreControlRegisters : Prop :=
  ∀ (k : CoreIx) (f : ImmForm) (s : State), ImmReady s.dev k f →
    let c := getCore s.dev k
    let i := (immOf f).toNat
    (immA f = 0 →
      (∀ v, csrVal s.dev k c i = some v → CoreGives (.csrr k f) k (immLen f) (ws (immD f) v) s)
      ∧ (6 ≤ i → CoreFaults (.csrr k f) k 1 0 s)
      ∧ (i = 2 → csrVal s.dev k c i = some (c.tenant.zeroExtend 64)) ∧ (i = 4 → csrVal s.dev k c i = some (coreCycles s.dev c)))
    ∧ (immD f = 0 →
      let v := rs c (immA f)
      (i = 0 ∨ i = 2 ∨ i = 4 → CoreGives (.csrw k f) k (immLen f) (fun c => c) s)
      ∧ (i = 1 → CoreGives (.csrw k f) k (immLen f)
          (fun c => let q := clampNat 24 72 (v.toNat % 128)
                    { c with req := BitVec.ofNat 7 q, changing := decide (min q (clkCeil s.dev k) ≠ c.actual.toNat)
                             relock := decide (c.actual ≠ 0) && decide (coreMay s.dev k q ≠ c.actual.toNat) }) s)
      ∧ (i = 3 → CoreGives (.csrw k f) k (immLen f)
          (fun c => { c with infMade := c.infMade && !v.getLsbD 0, nanMade := c.nanMade && !v.getLsbD 1, empty := c.empty && !v.getLsbD 2 }) s)
      ∧ (i = 5 → CoreGives (.csrw k f) k (immLen f) (fun c => { c with faultValid := c.faultValid && !v.getLsbD 52 }) s)
      ∧ (6 ≤ i → CoreFaults (.csrw k f) k 1 0 s))

/-- Classes Ch and Dh but halt. -/
def Obligations.PredicatesAndSystem : Prop :=
  ∀ (k : CoreIx) (f : RForm) (s : State), GuardedReady s.dev k f →
    let c := getCore s.dev k
    (∀ r ∈ predRows, f.d.val < 8 → f.a.val < 8 → f.b.val < 8 → f.mod = 0 →
      CoreGives (r.1 k f) k 4 (fun c => wp f.d (r.2 (rp c f.a) (rp c f.b)) c) s)
    ∧ (f.d.val < 8 → f.a.val < 8 → f.b = 0 → f.mod = 0 → CoreGives (.pnot k f) k 4 (fun c => wp f.d (~~~(rp c f.a)) c) s)
    ∧ (f.d.val < 8 → f.b = 0 → f.mod = 0 → CoreGives (.pset k f) k 4 (fun c => wp f.d ((rs c f.a).truncate 32) c) s)
    ∧ (f.a.val < 8 → f.b = 0 → f.mod = 0 → CoreGives (.pget k f) k 4 (fun c => ws f.d ((rp c f.a).zeroExtend 64) c) s)
    ∧ (f.a = 0 → f.b = 0 → f.mod = 0 → CoreGives (.rdcyc k f) k 4 (fun c => ws f.d (coreCycles s.dev c) c) s)
    ∧ (f.d = 0 → f.a = 0 → f.b = 0 →
        let out := ∃ q ∈ c.dma, ∃ e ∈ q.2.ents, fld e.desc 28 1 % 2 = 1
        (¬(f.mod.val.testBit 2 = true ∧ out) → CoreGives (.fence k f) k 4 (fun c => c) s)
        ∧ (f.mod.val.testBit 2 = true → out → CoreStalls (.fence k f) k 4 s)
        ∧ (f.mod = 0 → CoreGives (.nop k f) k 4 (fun c => c) s)
        ∧ (f.mod = 0 → c.attached = false → CoreFaults (.trap k f) k 9 0 s)
        ∧ (f.mod = 0 → c.attached = true → c.brkSkip = true → CoreGives (.trap k f) k 4 (fun c => c) s)
        ∧ (f.mod = 0 → c.attached = true → c.brkSkip = false → Gives (.trap k f) s fun d =>
            (getCore d k).state = 2 ∧ (getCore d k).pc = c.pc ∧ (getCore d k).resumeTo = c.state ∧ OnlyCore k s.dev d))

/-- Class 4h arithmetic; vfma's single rounding is log entry 11, an integer result out of range log entry 12. -/
def Obligations.VectorArithmetic : Prop :=
  ∀ r ∈ vectorRows, ∀ (k : CoreIx) (f : RForm) (s : State), f.d.val < 16 → f.a.val < 16 → f.b.val < 16 →
    tyArith f.mod = true → CoreReady s.dev k 4 → ∃ v : BitVec 1024, CoreComputes (r.1 k f) k 4 (wv f.d v) s ∧
      let c := getCore s.dev k
      let w := tyWidth f.mod
      ∀ i, i < 1024 / w →
        let x := laneOf w (rv c f.d) i
        let a := laneOf w (rv c f.a) i
        let b := laneOf w (rv c f.b) i
        (laneOn (guardBits c f.guard f.neg) w i = false → laneOf w v i = x)
        ∧ (laneOn (guardBits c f.guard f.neg) w i = true →
          (∀ m, fmtOf f.mod = some m → laneOf w v i = rnd m (r.2.1 (fdec m x) (fdec m a) (fdec m b)))
          ∧ (fmtOf f.mod = none →
            let e := r.2.2 (signed x w) (signed a w) (signed b w)
            e < 2 ^ (w - 1) → -(2 ^ (w - 1) : Int) ≤ e → laneOf w v i = wrap w e))

/-- vclt, vceq, vcvt, vexp and vrsqrt; outcomes of mixed lanes and elements beyond the source are log entry 12.
vbcast, vsel, vperm, vld and vst. -/
def Obligations.VectorLanes : Prop :=
  (∀ (k : CoreIx) (f : RForm) (s : State), CoreReady s.dev k 4 →
     let c := getCore s.dev k
     let g := guardBits c f.guard f.neg
     (∀ eq : Bool, f.d.val < 8 → f.a.val < 16 → f.b.val < 16 → tyArith f.mod = true →
       ∃ p : W32, CoreGives (if eq then .vceq k f else .vclt k f) k 4 (wp f.d p) s ∧
         let w := tyWidth f.mod
         ∀ j, j < 32 →
           (g.getLsbD j = false → p.getLsbD j = (rp c f.d).getLsbD j)
           ∧ (∀ b : Bool, g.getLsbD j = true →
               (∀ i, i * w / 32 = j → i < 1024 / w → laneCmp eq f.mod (laneOf w (rv c f.a) i) (laneOf w (rv c f.b) i) = b) →
               p.getLsbD j = b))
     ∧ (f.d.val < 16 → f.a.val < 16 → f.b.val < 7 → f.mod.val < 7 →
       ∃ v : BitVec 1024, CoreComputes (.vcvt k f) k 4 (fun c =>
           let sat := (List.range (min (1024 / tyWidth f.b) (1024 / tyWidth f.mod))).countP fun i =>
             laneOn g (tyWidth f.mod) i && cvtSat f.b f.mod (laneOf (tyWidth f.b) (rv c f.a) i)
           { wv f.d v c with op := { saturated := sat } }) s ∧
         let wsrc := tyWidth f.b
         let wd := tyWidth f.mod
         ∀ i, i < 1024 / wd →
           (laneOn g wd i = false → laneOf wd v i = laneOf wd (rv c f.d) i)
           ∧ (laneOn g wd i = true → i < 1024 / wsrc →
             let x := laneOf wsrc (rv c f.a) i
             (∀ a b, fmtOf f.b = some a → fmtOf f.mod = some b → laneOf wd v i = (cvt a b .rne x).code)
             ∧ (∀ b, fmtOf f.b = none → fmtOf f.mod = some b → laneOf wd v i = intF b (signed x wsrc))
             ∧ (fmtOf f.b = none → fmtOf f.mod = none → -(2 ^ (wd - 1) : Int) ≤ signed x wsrc → signed x wsrc < 2 ^ (wd - 1) →
                 laneOf wd v i = wrap wd (signed x wsrc))))
     ∧ (∀ fn : Fin 2, f.d.val < 16 → f.a.val < 16 → f.b = 0 → tyArith f.mod = true →
       ∃ v : BitVec 1024, CoreComputes (if fn = 0 then .vexp k f else .vrsqrt k f) k 4 (wv f.d v) s ∧
         let w := tyWidth f.mod
         ∀ i, i < 1024 / w →
           (laneOn g w i = false → laneOf w v i = laneOf w (rv c f.d) i)
           ∧ (laneOn g w i = true → ∀ m, fmtOf f.mod = some m →
               laneOf w v i = (if fn = 0 then expF m f.mod (laneOf w (rv c f.a) i) else rsqrtF m f.mod (laneOf w (rv c f.a) i)) % 2 ^ w)))
  ∧ ((∀ (k : CoreIx) (f : RForm) (s : State), CoreReady s.dev k 4 → f.d.val < 16 → tyArith f.mod = true →
     let c := getCore s.dev k
     let w := tyWidth f.mod
     let g := guardBits c f.guard f.neg
     (f.b = 0 → ∃ v : BitVec 1024, CoreGives (.vbcast k f) k 4 (wv f.d v) s ∧ ∀ i, i < 1024 / w →
       laneOf w v i = if laneOn g w i then (rs c f.a).toNat % 2 ^ w else laneOf w (rv c f.d) i)
     ∧ (f.a.val < 16 → f.b.val < 8 → ∃ v : BitVec 1024, CoreGives (.vsel k f) k 4 (wv f.d v) s ∧ ∀ i, i < 1024 / w →
       laneOf w v i = if laneOn g w i && laneOn (rp c f.b) w i then laneOf w (rv c f.a) i else laneOf w (rv c f.d) i)
     ∧ (f.a.val < 16 → f.b.val < 16 → ∃ v : BitVec 1024, CoreGives (.vperm k f) k 4 (wv f.d v) s ∧ ∀ i, i < 1024 / w →
       (laneOn g w i = false → laneOf w v i = laneOf w (rv c f.d) i)
       ∧ (laneOn g w i = true → laneOf w (rv c f.b) i < 1024 / w → laneOf w v i = laneOf w (rv c f.a) (laneOf w (rv c f.b) i))))
   ∧ (∀ (k : CoreIx) (f : IForm) (s : State), CoreReady s.dev k 4 → f.d.val < 16 →
     let c := getCore s.dev k
     let a := (rs c f.a + (f.imm.signExtend 64 <<< 7)).toNat
     (MayAccess c a 128 128 false →
       CoreGives (.vld k f) k 4 (fun c => wv f.d (BitVec.ofNat 1024 (ofLe (localBytes c a 128))) c) s)
     ∧ (MayAccess c a 128 128 true →
       CoreStores (.vst k f) k 4 [(a, 128)] (fun c => { c with sram := putBytes c.sram a (toLe 128 (rv c f.d).toNat) }) s
       ∧ Gives (.vst k f) s fun d => ∀ p : Nat, p < a ∨ a + 128 ≤ p → byteOf d k p = byteOf s.dev k p)))

/-- mma, mmt, azero, ast and ald.
The accumulator file under a whole write. -/
def Obligations.MatrixInstructions : Prop :=
  (∀ (k : CoreIx) (f : RForm) (s : State), GuardedReady s.dev k f → f.d.val < 4 →
     let c := getCore s.dev k
     let a := (rs c f.a).toNat
     let b := (rs c f.b).toNat
     -- the accumulator takes the sums, and its tiles count as being read from here on
     let sum := fun (n m : Nat) (v : Nat → Nat → FVal) (c : CoreSt) =>
       let y := setAcc f.d (fun e => BitVec.ofNat 32 (add32 (ra c (f.d.val * 1024 + e)).toNat (rnd fp32 (v (e / 32) (e % 32))))) c
       { y with mma := sSet y.mma f.d [(a, n), (b, m)] }
     (f.a = 0 → f.b = 0 → f.mod = 0 → CoreGives (.azero k f) k 4 (fun c => accIdle f.d (setAcc f.d (fun _ => 0) c)) s)
     ∧ (f.b = 0 → f.mod = 0 → MayAccess c a 4096 32 false →
         CoreGives (.ald k f) k 4 (fun c => accIdle f.d (setAcc f.d (fun e => BitVec.ofNat 32 (fld (localBytes c a 4096) (4 * e) 4)) c)) s)
     ∧ (f.b = 0 → f.mod = 0 → MayAccess c a 4096 32 true →
         CoreStoresMade (.ast k f) k 4 [(a, 4096)] (fun x =>
           accIdle f.d (putLocal a ((List.range 1024).flatMap fun e => toLe 4 (ra c (f.d.val * 1024 + e)).toNat) x)) s)
     ∧ (f.b = 0 → f.mod = 1 → MayAccess c a 2048 32 true →
         CoreStoresMade (.ast k f) k 4 [(a, 2048)] (fun x => accIdle f.d (putLocal a ((List.range 1024).flatMap fun e =>
           toLe 2 (cvt fp32 bf16 .rne (ra c (f.d.val * 1024 + e)).toNat).code) x)) s)
     ∧ (f.mod.val < 4 → MayAccess c a 544 32 false → MayAccess c b 544 32 false →
         CoreComputes (.mma k f) k 4 (fun x => { sum 544 544 (blockProduct (decide (f.mod.val < 2)) (decide (f.mod.val % 2 = 0))
           (localBytes c a 544) (localBytes c b 544)) x with
             op := { badScales := badScales (localBytes c a 544) + badScales (localBytes c b 544) } }) s)
     ∧ (∀ m n, (f.mod.val = 4 ∧ m = e4m3 ∧ n = 1024) ∨ (f.mod.val = 5 ∧ m = e5m2 ∧ n = 1024) ∨ (f.mod.val = 6 ∧ m = bf16 ∧ n = 2048) →
         MayAccess c a n 32 false → MayAccess c b n 32 false →
         CoreComputes (.mma k f) k 4 (sum n n fun i j => dot (tileElem m (localBytes c a n) i) (tileElem m (localBytes c b n) j)) s)
     ∧ (∀ m, (f.mod = 0 ∧ m = e4m3) ∨ (f.mod = 1 ∧ m = e5m2) → MayAccess c a 1024 32 false → MayAccess c b 256 32 false →
         (∀ n, n < 1024 → bits (byteAt (localBytes c b 256) (n / 4)) (2 * (n % 4)) 2 ≠ 2) →
         CoreComputes (.mmt k f) k 4 (sum 1024 256 fun i j => dot (tileElem m (localBytes c a 1024) i) (ternElem (localBytes c b 256) j)) s))
  ∧ (∀ (c : CoreSt) (n m e : Nat) (f : Nat → W32), e < 1024 →
     ra (setAcc n f c) (m * 1024 + e) = (if m = n then f e else ra c (m * 1024 + e))
     ∧ setAcc n f c = { c with acc := (setAcc n f c).acc })

/-- R49, over every valid non-zero scale code and every magnitude of the block. -/
def Obligations.BlockShift : Prop :=
  ∀ (scale amax : Nat), 1 ≤ scale → scale ≤ 0x7E →
    let fits := fun m : Nat => amax < satLevel (unit32 scale m)
    blockShift scale amax ≤ 3
    ∧ (∀ m, m ≤ 3 → fits m → m ≤ blockShift scale amax)
    ∧ ((∃ m, m ≤ 3 ∧ fits m) → fits (blockShift scale amax))
    ∧ ((∀ m, m ≤ 3 → ¬fits m) → blockShift scale amax = 0)
    ∧ (amax = 0 → blockShift scale amax = 3)

/-- qgrp and qfp4 under a descriptor whose addresses are allowed. -/
def Obligations.QuantiseInstructions : Prop :=
  ∀ (k : CoreIx) (f : RForm) (s : State), GuardedReady s.dev k f →
    let c := getCore s.dev k
    let a := (rs c f.a).toNat
    (f.d = 0 → f.b = 0 → f.mod = 0 → MayAccess c a 32 32 false →
      let q := localBytes c a 32
      let src := fld q 0 4
      let rec_ := fld q 4 4
      let side := fld q 8 4
      let len := fld q 20 2
      fld q 16 4 = 0 → fld q 12 4 = 0 → 1 ≤ len → len ≤ 256 →
      MayAccess c src (4 * len) 4 false → MayAccess c rec_ 160 32 true → (side = 0 ∨ MayAccess c side 32 32 true) →
        let i : QIn := { x := (List.range len).map fun n => localNat c (src + 4 * n) 4, des := []
                         k := fld q 22 1, sto := bitAt (fld q 23 1) 0, e5 := bitAt (fld q 23 1) 4, draws := rngAt s.dev k }
        let o := quantise i
        let r1 := putBytes c.sram rec_ (recBytes o)
        CoreStores (.qgrp k f) k 4 ((rec_, 160) :: if side = 0 then [] else [(side, 32)]) (fun x => { x with
          sram := if side = 0 then r1 else putBytes r1 side (sideBytes i o (fld q 24 1))
          op := { saturated := o.sat.sum + o.fp8Sat, zeroed := o.zeroed.sum, scaleOverflow := bitAt o.flags 2, nonFinite := bitAt o.flags 3 } }) s)
    ∧ (f.mod.val < 2 → MayAccess c a 128 4 false → MayAccess c (rs c f.b).toNat 16 1 true → MayAccess c (rs c f.d).toNat 1 1 true →
        let r := fp4Stat ((List.range 32).map fun n => localNat c (a + 4 * n) 4) (if f.mod.val = 1 then some (rngAt s.dev k) else none)
        let m1 := putBytes c.sram (rs c f.b).toNat (packNibbles (r.1.1.map fun n => (n : Int)))
        CoreStores (.qfp4 k f) k 4 [((rs c f.b).toNat, 16), ((rs c f.d).toNat, 1)]
          (fun x => { x with sram := putBytes m1 (rs c f.d).toNat [BitVec.ofNat 8 r.1.2], op := r.2 }) s)

/-- Class 8h. -/
def Obligations.Reductions : Prop :=
  ∀ (k : CoreIx) (f : RForm) (s : State),
    let c := getCore s.dev k
    (∀ r ∈ reduceRows, f.d.val < 4 → f.a.val < 16 → f.b = 0 → CoreReady s.dev k 4 → ∀ m, fmtOf f.mod = some m →
      let l := chunk m (rv c f.a) (guardBits c f.guard f.neg)
      (validN l = 0 → CoreGives (r.1 k f) k 4 (fun c => c) s)
      ∧ (validN l ≠ 0 → CoreComputes (r.1 k f) k 4 (fun c => wc f.d (r.2 l (rc c f.d)).1 c) s
          ∧ (r.2 l (rc c f.d)).1.n = (rc c f.d).n + BitVec.ofNat 64 (validN l)))
    ∧ (GuardedReady s.dev k f →
      (f.d.val < 4 → f.a = 0 → f.b = 0 → f.mod = 0 → CoreGives (.rclr k f) k 4 (wc f.d { n := 0, a := 0, b := 0 }) s)
      ∧ (f.a.val < 4 → f.b = 0 → f.mod.val < 5 →
        let x := rc c f.a
        (x.n = 0 → CoreGives (.rget k f) k 4 (fun c => { ws f.d 0 c with empty := true }) s)
        ∧ (x.n ≠ 0 → f.mod.val = 0 → CoreGives (.rget k f) k 4 (ws f.d (x.a.zeroExtend 64)) s)
        ∧ (x.n ≠ 0 → f.mod.val = 1 → CoreGives (.rget k f) k 4 (ws f.d (x.b.zeroExtend 64)) s)
        ∧ (x.n ≠ 0 → f.mod.val = 2 → CoreGives (.rget k f) k 4 (ws f.d x.n) s)
        ∧ (x.n ≠ 0 → f.mod.val = 3 → CoreGives (.rget k f) k 4 (ws f.d (BitVec.ofNat 64 (div32 x.b.toNat (nat32 x.n.toNat)))) s)
        ∧ (1 < x.n.toNat → f.mod.val = 4 →
            CoreGives (.rget k f) k 4 (ws f.d (BitVec.ofNat 64 (div32 x.b.toNat (nat32 (x.n.toNat - 1))))) s)
        ∧ (x.n = 1 → f.mod.val = 4 → CoreGives (.rget k f) k 4 (fun c => { ws f.d 0 c with empty := true }) s))
      ∧ (f.d = 0 → f.a.val < 4 → f.mod = 0 → MayAccess c (rs c f.b).toNat 16 8 true →
          let bs := toLe 8 (rc c f.a).n.toNat ++ toLe 4 (rc c f.a).a.toNat ++ toLe 4 (rc c f.a).b.toNat
          CoreStores (.rput k f) k 4 [((rs c f.b).toNat, 16)] (fun c => { c with sram := putBytes c.sram (rs c f.b).toNat bs }) s)
      ∧ (f.d.val < 4 → f.b = 0 → f.mod.val < 3 → MayAccess c (rs c f.a).toNat 16 8 false →
          let y := ctxOf (localBytes c (rs c f.a).toNat 16)
          CoreComputes (.rmerge k f) k 4 (fun c => wc f.d (mergeCtxM f.mod y (rc c f.d)).1 c) s
          ∧ (y.n = 0 → (mergeCtxM f.mod y (rc c f.d)).1 = rc c f.d)))

/-- Class 9h and the two network commands. -/
def Obligations.Messages : Prop :=
  (∀ (k : CoreIx) (f : RForm) (s : State), GuardedReady s.dev k f →
    let c := getCore s.dev k
    let hd := getCh c f.d
    let ha := getCh c f.a
    let a := (rs c f.a).toNat
    let n := (rs c f.b).toNat
    let msg : Msg := ⟨k, chPeer s.dev hd, hd.peerCh.toNat, localBytes c a n⟩
    let spent := addTrace s.dev 1 (setCh f.d { hd with credits := hd.credits - 1 } c)
    let injects := fun (i : Instr) (g : CoreSt) => Gives i s fun d => getCore d k = moved 4 g
      ∧ (∀ j, j ≠ k.val → getCore d j = getCore s.dev j)
      ∧ d = { s.dev with grid := { s.dev.grid with cores := d.grid.cores, net := s.dev.grid.net ++ [msg] } }
    let sendable := f.d.val < 16 ∧ hd.enable = true ∧ hd.peer ≠ 0xFFFF ∧ 0 < n ∧ n ≤ peerSlot s.dev hd ∧ MayAccess c a n 1 false
    let got := fun (len : Nat) => addTrace s.dev 2 (ws (f.d.val + 1) (BitVec.ofNat 64 len)
      (ws f.d (BitVec.ofNat 64 (ha.ring.toNat + ha.head * 2 ^ ha.slotLog2.toNat)) (setCh f.a { ha with headRead := true } c)))
    let usable := f.a.val < 16 ∧ f.b = 0 ∧ ha.enable = true ∧ ha.peer ≠ 0xFFFF
    (sendable → f.mod = 0 → sendCredits s.dev hd ≠ 0 → injects (.send k f) spent)
    ∧ (sendable → sendCredits s.dev hd ≠ 0 → injects (.sendnb k f) (wp f.mod 1 spent))
    ∧ (sendable → f.mod = 0 → sendCredits s.dev hd = 0 → CoreStalls (.send k f) k 1 s)
    ∧ (sendable → sendCredits s.dev hd = 0 → CoreGives (.sendnb k f) k 4 (wp f.mod 0) s)
    ∧ (usable → f.d.val % 2 = 0 → f.mod = 0 → ∀ len r, ha.lens = len :: r → CoreGives (.recv k f) k 4 (fun _ => got len) s)
    ∧ (usable → f.d.val % 2 = 0 → ∀ len r, ha.lens = len :: r → CoreGives (.recvnb k f) k 4 (fun _ => wp f.mod 1 (got len)) s)
    ∧ (usable → f.d.val % 2 = 0 → f.mod = 0 → ha.lens = [] → CoreStalls (.recv k f) k 2 s)
    ∧ (usable → f.d.val % 2 = 0 → ha.lens = [] → CoreGives (.recvnb k f) k 4 (wp f.mod 0) s)
    ∧ (usable → f.d = 0 → f.mod = 0 → ∀ len r, ha.lens = len :: r → Gives (.mfree k f) s fun d =>
        let h := getCh (getCore d k) f.a
        h.lens = r ∧ h.headRead = false ∧ h.head = (ha.head + 1) % max 1 ha.slots.toNat
        ∧ (getCore d k).pc = BitVec.ofNat 22 (c.pc.toNat + 4)
        ∧ (chPeer s.dev ha < 272 → (getCh (getCore d (chPeer s.dev ha)) ha.peerCh.toNat).returning
            = (let y := getCh (getCore s.dev (chPeer s.dev ha)) ha.peerCh.toNat
               if y.grantor = sideNo k f.a then y.returning + 1 else y.returning))
        ∧ d = { s.dev with grid := { s.dev.grid with cores := d.grid.cores } })
    ∧ (f.d.val < 14 → f.b = 0 → f.mod = 0 → MayAccess c a 64 32 false →
        let b := localBytes c a 64
        let h := chanOf b
        (fld b 5 1 = 0 → inFlight s.dev k f.d = [] → Gives (.chcfg k f) s fun d =>
          (getCh (getCore d k) f.d).enable = false ∧ (getCore d k).pc = BitVec.ofNat 22 (c.pc.toNat + 4)
          ∧ (hd.enable = true → (getCh (getCore d k) f.d).lens = []))
        ∧ (fld b 5 1 = 0 ∨ fld b 5 1 = 1 ∧ chanOk b = true → inFlight s.dev k f.d ≠ [] → CoreStalls (.chcfg k f) k 2 s)
        ∧ (fld b 5 1 = 1 → chanOk b = true → inFlight s.dev k f.d = [] →
          accessFault h.ring.toNat (h.slots.toNat * 2 ^ h.slotLog2.toNat) (2 ^ h.slotLog2.toNat) true = none →
          Gives (.chcfg k f) s fun d =>
            let x := getCh (getCore d k) f.d
            x.enable = true ∧ x.peer = h.peer ∧ x.peerCh = h.peerCh ∧ x.slotLog2 = h.slotLog2 ∧ x.slots = h.slots ∧ x.ring = h.ring
            ∧ x.lens = [] ∧ (getCore d k).pc = BitVec.ofNat 22 (c.pc.toNat + 4))))
  ∧ (∀ (k : CoreIx) (ch : Fin 16) (s : State) (pre post : List Msg) (m : Msg),
      s.dev.grid.net = pre ++ m :: post → m.dst = k.val → m.ch = ch.val →
      (∀ x ∈ pre, ¬(x.dst = k.val ∧ x.ch = ch.val)) → (getCh (getCore s.dev k) ch).enable = true → domHolds s.dev k = false →
      let c := getCore s.dev k
      let h := getCh c ch
      let slot := (h.head + h.lens.length) % max 1 h.slots.toNat
      Gives (.messageArrive k ch) s fun d =>
        getCore d k = putLocal (h.ring.toNat + slot * 2 ^ h.slotLog2.toNat) m.bytes (setCh ch { h with lens := h.lens ++ [m.bytes.length] } c)
        ∧ (∀ j, j ≠ k.val → getCore d j = getCore s.dev j)
        ∧ d = { s.dev with grid := { s.dev.grid with cores := d.grid.cores, net := pre ++ post } })
  ∧ (∀ (k : CoreIx) (ch : Fin 16) (s : State), domHolds s.dev k = true →
      (inFlight s.dev k ch ≠ [] → Gives (.messageArrive k ch) s fun d => d = domAsk k s.dev)
      ∧ ((getCh (getCore s.dev k) ch).returning ≠ 0 → Gives (.creditReturn k ch) s fun d => d = domAsk k s.dev))
  ∧ (∀ (k : CoreIx) (ch : Fin 16) (s : State), (getCh (getCore s.dev k) ch).returning ≠ 0 → domHolds s.dev k = false →
      let h := getCh (getCore s.dev k) ch
      Gives (.creditReturn k ch) s fun d =>
        getCore d k = setCh ch { h with returning := h.returning - 1, credits := h.credits + 1 } (getCore s.dev k)
        ∧ OnlyCore k s.dev d)

/-- Class Ah and the two DMA commands. -/
def Obligations.DmaTransfers : Prop :=
  (∀ (k : CoreIx) (f : RForm) (s : State), GuardedReady s.dev k f →
    let c := getCore s.dev k
    let a := (rs c f.a).toNat
    (f.d.val < 4 → f.b = 0 → f.mod = 0 → MayAccess c a 32 32 false →
      ((getQ c f.d).ents.length < 32 → CoreGives (.dmaq k f) k 4
        (setQ f.d { getQ c f.d with ents := (getQ c f.d).ents ++ [⟨c.pc, localBytes c a 32⟩] }) s)
      ∧ (32 ≤ (getQ c f.d).ents.length → CoreStalls (.dmaq k f) k 5 s))
    ∧ (f.d.val < 4 → f.b = 0 → f.mod = 0 →
      (a ≤ (getQ c f.d).count.toNat → CoreGives (.dwait k f) k 4 (fun c => c) s)
      ∧ ((getQ c f.d).count.toNat < a → CoreStalls (.dwait k f) k 4 s))
    ∧ (f.a.val < 4 → f.b = 0 → f.mod = 0 → CoreGives (.dcnt k f) k 4 (ws f.d (getQ c f.a).count) s))
  ∧ (∀ (k : CoreIx) (q : Fin 4) (s : State) (e : DmaEnt), (getQ (getCore s.dev k) q).ents[(getQ (getCore s.dev k) q).started]? = some e →
      let c := getCore s.dev k
      (dmaOk s.dev c e.desc = true → Gives (.dmaDescriptorStart k q) s fun d =>
        getCore d k = setQ q { getQ c q with started := (getQ c q).started + 1 } c ∧ OnlyCore k s.dev d)
      ∧ (dmaOk s.dev c e.desc = false → Gives (.dmaDescriptorStart k q) s fun d =>
        (getCore d k).state = 3 ∧ (getCore d k).faultCode = 7 ∧ (getCore d k).faultPc = e.pc))
  ∧ (∀ (k : CoreIx) (q : Fin 4) (s : State) (e : DmaEnt) (r : List DmaEnt) (m : Nat),
      (getQ (getCore s.dev k) q).ents = e :: r → (getQ (getCore s.dev k) q).started = m + 1 →
      let c := getCore s.dev k
      let hbm := hbmKey c.tenant.toNat (fld e.desc 0 8)
      let loc := fld e.desc 8 4
      let len := fld e.desc 12 4
      let rows := fld e.desc 16 2
      let stride := fld e.desc 20 8
      Gives (.dmaDescriptorComplete k q) s fun d =>
        getQ (getCore d k) q = { ents := r, started := m, count := (getQ c q).count + 1 }
        ∧ (fld e.desc 28 1 % 2 = 0 → d.hbm = s.dev.hbm ∧ ∀ p, byteOf d k p =
            if loc ≤ p ∧ p < loc + rows * len then sGet 0 s.dev.hbm (hbm + (p - loc) / len * stride + (p - loc) % len) else byteOf s.dev k p)
        ∧ (fld e.desc 28 1 % 2 = 1 → (getCore d k).sram = c.sram
            ∧ (rows ≤ 1 ∨ len ≤ stride → ∀ i j, i < rows → j < len → sGet 0 d.hbm (hbm + i * stride + j) = byteOf s.dev k (loc + i * len + j))
            ∧ ∀ p, (∀ i j, i < rows → j < len → p ≠ hbm + i * stride + j) → sGet 0 d.hbm p = sGet 0 s.dev.hbm p))

/-- acall. -/
def Obligations.ArrayCallTickets : Prop :=
  ∀ (k : CoreIx) (f : RForm) (s : State), GuardedReady s.dev k f → f.b = 0 → f.mod = 0 →
    let c := getCore s.dev k
    let a := (rs c f.a).toNat
    MayAccess c a 64 32 false →
    let b := localBytes c a 64
    let st := fld b 28 4
    (inSram st 8 = false → CoreFaults (.acall k f) k 3 st s)
    ∧ (inSram st 8 = true → st % 8 ≠ 0 → CoreFaults (.acall k f) k 2 st s)
    ∧ (inSram st 8 = true → st % 8 = 0 → 16 ≤ c.calls.length → CoreStalls (.acall k f) k 5 s)
    ∧ (inSram st 8 = true → st % 8 = 0 → c.calls.length < 16 →
        let c1 : CoreSt := { c with calls := c.calls ++ [⟨c.nextTicket, b⟩], nextTicket := c.nextTicket + 1 }
        let c2 := addTrace s.dev 3 (ws f.d (c.nextTicket.zeroExtend 64) c1)
        let dest := fld b 20 4
        let n := 4 * slabCols (getHandle s.dev (fld b 0 4 % 2 ^ 20)) (fld b 24 2) (fld b 26 2)
        (inSram dest n = false → CoreGives (.acall k f) k 4 (fun _ => c2) s)
        ∧ (inSram dest n = true → ∃ v : Bytes, v.length = n ∧ Gives (.acall k f) s fun d =>
            getCore d k = moved 4 (putLocal dest v c2) ∧ (∀ j, j ≠ k.val → getCore d j = getCore s.dev j)
            ∧ d = { s.dev with grid := { s.dev.grid with cores := d.grid.cores }, freeCtr := s.dev.freeCtr + 1 }))

/-- R461, whole: issued tickets, tickets not issued, and the restart at a dispatch. -/
def Obligations.TicketWaits : Prop :=
  (∀ (k : CoreIx) (f : RForm) (s : State), GuardedReady s.dev k f → f.d = 0 → f.b = 0 →
    let c := getCore s.dev k
    let t : W32 := (rs c f.a).truncate 32
    let n := (c.nextTicket.toNat + 2 ^ 32 - t.toNat) % 2 ^ 32
    let isDone := ∀ x ∈ c.calls, x.ticket ≠ t
    (1 ≤ n → n ≤ 2 ^ 31 →
      (f.mod = 0 → isDone → CoreGives (.await k f) k 4 (fun c => c) s)
      ∧ (f.mod = 0 → ¬isDone → CoreStalls (.await k f) k 3 s)
      ∧ (isDone → CoreGives (.atest k f) k 4 (wp f.mod 1) s)
      ∧ (¬isDone → CoreGives (.atest k f) k 4 (wp f.mod 0) s))
    ∧ (n = 0 ∨ 2 ^ 31 < n → (f.mod = 0 → CoreFaults (.await k f) k 1 0 s) ∧ CoreFaults (.atest k f) k 1 0 s))
  ∧ (∀ (k : CoreIx) (tenant : FnIx) (entry base : BitVec 22) (arg : W32) (code : Bytes) (job : KernelJob) (s : State),
      domHolds s.dev k = false → coreRetired s.dev k = false →
      (getCore s.dev k).state = 0 → (getCore s.dev k).calls = [] → (∀ q ∈ (getCore s.dev k).dma, q.2.ents = []) → inSram base.toNat code.length = true →
      Gives (.kernelDispatch k tenant entry arg base code job) s fun d =>
        (getCore d k).nextTicket = 0 ∧ ∀ q : Nat, (getQ (getCore d k) q).count = 0)

/-- R179: kernelDispatch and halt. -/
def Obligations.KernelDispatchAndHalt : Prop :=
  (∀ (k : CoreIx) (tenant : FnIx) (entry base : BitVec 22) (arg : W32) (code : Bytes) (job : KernelJob) (s : State),
    let c := getCore s.dev k
    domHolds s.dev k = false → coreRetired s.dev k = false → c.state = 0 ∨ c.state = 3 → c.calls = [] → (∀ q ∈ c.dma, q.2.ents = []) → inSram base.toNat code.length = true →
    Gives (.kernelDispatch k tenant entry arg base code job) s fun d =>
      let x := getCore d k
      x.pc = entry ∧ x.state = 1 ∧ x.tenant = BitVec.ofNat 6 tenant ∧ rs x 1 = arg.zeroExtend 64 ∧ x.job = some job
      ∧ x.sram = putBytes c.sram base.toNat code ∧ x.ch = c.ch ∧ x.stalled = false
      ∧ (∀ i, i ≠ 0 → i ≠ 1 → rs x i = Config.freeReg x.epoch 0 i 64)
      ∧ (∀ j, j ≠ k.val → getCore d j = getCore s.dev j) ∧ (k.val, job) ∈ d.grid.ran
      ∧ d = { s.dev with grid := { s.dev.grid with cores := d.grid.cores, ran := d.grid.ran }, freeCtr := s.dev.freeCtr + 1 })
  ∧ (∀ (k : CoreIx) (tenant : FnIx) (entry base : BitVec 22) (arg : W32) (code : Bytes) (job : KernelJob) (s : State),
    domHolds s.dev k = true → Gives (.kernelDispatch k tenant entry arg base code job) s fun d =>
      d = domAsk k { s.dev with grid := { s.dev.grid with
        held := s.dev.grid.held ++ [⟨k, tenant, entry, arg, base.toNat, code, job⟩] } })
  ∧ (∀ (k : CoreIx) (f : RForm) (s : State), GuardedReady s.dev k f → f.d = 0 → f.a = 0 → f.b = 0 → f.mod = 0 →
    let c := getCore s.dev k
    (c.calls ≠ [] → CoreStalls (.halt k f) k 3 s)
    ∧ (c.calls = [] → (∃ q ∈ c.dma, q.2.ents ≠ []) → CoreStalls (.halt k f) k 4 s)
    ∧ (c.calls = [] → (∀ q ∈ c.dma, q.2.ents = []) → (∃ n, n < 14 ∧ inFlight s.dev k n ≠ []) → CoreStalls (.halt k f) k 2 s)
    ∧ (c.calls = [] → (∀ q ∈ c.dma, q.2.ents = []) → (∀ n, n < 14 → inFlight s.dev k n = []) → Gives (.halt k f) s fun d =>
        (getCore d k).state = 0 ∧ (getCore d k).job = none ∧ (getCore d k).pc = BitVec.ofNat 22 (c.pc.toNat + 4)
        ∧ ∀ n, n < 14 → (getCh (getCore d k) n).enable = false))

/-- R162, R163 and R165 over every instruction of the R format, and the immediate forms.
R172 and R177: the shared fault entry, and the watchdog that takes it. -/
def Obligations.GuardsAndEncodings : Prop :=
  ((∀ r ∈ guardedRows, ∀ (k : CoreIx) (f : RForm) (s : State), r.2 f = true → CoreReady s.dev k 4 →
     guardOn (getCore s.dev k) f.guard f.neg = false → CoreGives (r.1 k f) k 4 (fun c => c) s)
   ∧ (∀ r ∈ guardedRows ++ laneRows, ∀ (k : CoreIx) (f : RForm) (s : State),
       (r.2 f = false → CoreReady s.dev k 4 → CoreFaults (r.1 k f) k 1 0 s)
       ∧ (let c := getCore s.dev k
          (c.state = 0 ∨ c.state = 1) → coreRetired s.dev k = false → c.relock = false → c.stepping = false → brkHit c = false → sramHi < c.pc.toNat + 4 →
          CoreFaults (r.1 k f) k 3 c.pc.toNat s)
       ∧ ((getCore s.dev k).state = 2 ∨ (getCore s.dev k).state = 3 ∨ coreRetired s.dev k = true → exec (r.1 k f) s = .next s)
       ∧ ((getCore s.dev k).state = 0 ∨ (getCore s.dev k).state = 1 → coreRetired s.dev k = false → (getCore s.dev k).relock = true →
           CoreStalls (r.1 k f) k 6 s))
   ∧ (∀ r ∈ (aluImmRows.map (·.1)) ++ (loadRows.map (·.1)) ++ (storeRows.map (·.1)), ∀ (k : CoreIx) (f : ImmForm) (s : State),
       CoreReady s.dev k (immLen f) →
       (immLegal f = false → CoreFaults (r k f) k 1 0 s)
       ∧ (immLegal f = true → immGuard (getCore s.dev k) f = false → CoreGives (r k f) k (immLen f) (fun c => c) s)))
  ∧ ((∀ (k : Nat) (pc : BitVec 22) (code : W8) (addr : Nat) (d : Dev),
     let d' := coreFault k pc code addr d
     let c := getCore d k
     let x := getCore d' k
     x.faultPc = pc ∧ x.faultAddr = BitVec.ofNat 22 addr ∧ x.faultCode = code ∧ x.faultValid = true ∧ x.state = 3
     ∧ x.stalled = false ∧ x.s = c.s ∧ x.v = c.v ∧ x.p = c.p ∧ x.acc = c.acc ∧ x.ctx = c.ctx ∧ x.sram = c.sram ∧ x.pc = c.pc
     ∧ (∀ j, j ≠ k → getCore d' j = getCore d j)
     ∧ (∀ job, c.job = some job → d'.grid.faulted = d.grid.faulted ++ job.ctxs.map fun i => (i.toNat, code.toNat))
     ∧ d' = { d with grid := { d.grid with cores := d'.grid.cores, faulted := d'.grid.faulted } })
   ∧ (∀ (k : CoreIx) (s : State), (getCore s.dev k).stalled = true → (getCore s.dev k).cause ≠ 6 → (getCore s.dev k).state ≠ 2 →
       CoreFaults (.stallWatchdog k) k 6 0 s))

/-- R178, R371, R374; the step in the runtime area is log entry 36. -/
def Obligations.DebuggedCores : Prop :=
  (∀ r ∈ guardedRows ++ laneRows, ∀ (k : CoreIx) (f : RForm) (s : State),
    let c := getCore s.dev k
    c.state = 0 ∨ c.state = 1 → coreRetired s.dev k = false → c.relock = false → c.stepping = false → brkHit c = true → Gives (r.1 k f) s fun d =>
      getCore d k = { c with state := 2, resumeTo := c.state, stalled := false, cause := 0 } ∧ OnlyCore k s.dev d)
  ∧ (∀ (k : CoreIx) (s : State), MayDebug s.dev k →
    let c := getCore s.dev k
    (c.state ≠ 2 → Gives (.debugHalt k) s fun d =>
      getCore d k = { c with state := 2, resumeTo := c.state, stalled := false, cause := 0 })
    ∧ (c.state = 2 → Gives (.debugResume k) s fun d =>
      getCore d k = { c with state := c.resumeTo, brkSkip := true, stepping := false })
    ∧ (c.state = 2 →
        let up : CoreSt := { c with state := c.resumeTo, brkSkip := true, stepping := true }
        (c.pc.toNat < sramLo → Gives (.debugStep k) s fun d => getCore d k = up)
        ∧ (sramLo ≤ c.pc.toNat → ∀ i, coreDecode k (wordsAtPc c).1 (wordsAtPc c).2 = some i →
            ∃ u : Dev, getCore u k = up ∧ (∀ j, j ≠ k.val → getCore u j = getCore s.dev j)
              ∧ exec (.debugStep k) s = exec i { s with dev := u }))
    ∧ (c.state = 2 → ∀ v : W64, Gives (.dbgDataAccess k true v) s fun d => getCore d k = dbgWrite v c)
    ∧ (c.state = 2 → ∀ v : W64, Gives (.dbgDataAccess k false v) s fun d =>
        getCore d k = c ∧ d.out.getLast? = some (.readData (dbgRead c))))

/-- R7–R9, R299, R303 and R450: what raising an event does.
R299: evtWindowEnable and evtDoorbell. -/
def Obligations.EventRecords : Prop :=
  (∀ (code : W16) (sev : W8) (tenant : FnIx) (unit : W32) (p : BitVec 128) (d : Dev),
     let r : EventRec := ⟨code, sev, BitVec.ofNat 8 tenant, unit, d.time.stampUs, p⟩
     let d' := raise code sev tenant unit p d
     let f := getFn d tenant
     d' = { d with log := d'.log, hif := d'.hif, pins := d'.pins, out := d'.out }
     ∧ (d.log.ready = false → d'.log.recs = d.log.recs ∧ r ∈ d'.log.queued)
     ∧ (d.log.ready = true → f.evtEnable = false →
         d'.log.count = d.log.count + 1 ∧ d'.log.recs.getLast? = some r
         ∧ (d.log.recs.length < 65536 → d'.log.recs = d.log.recs ++ [r])
         ∧ (d.log.recs.length = 65536 → d'.log.recs = d.log.recs.tail ++ [r])
         ∧ (3 ≤ sev.toNat → d'.pins.alertN = false) ∧ (sev.toNat < 3 → d'.pins.alertN = d.pins.alertN))
     ∧ (f.evtEnable = true → f.evtWcnt - f.evtRcnt ≠ 512 →
         (getFn d' tenant).evtWcnt = f.evtWcnt + 1 ∧ sFind (getFn d' tenant).evtRecs (f.evtWcnt.toNat % 512) = some r)
     ∧ (f.evtEnable = true → f.evtWcnt - f.evtRcnt = 512 → f.evtLost.toNat + 2 < 2 ^ 32 →
         (getFn d' tenant).evtLost = f.evtLost + (if secondSince f.c007At d then 2 else 1)
         ∧ (getFn d' tenant).evtRecs = f.evtRecs ∧ (getFn d' tenant).evtWcnt = f.evtWcnt))
  ∧ (∀ (s : State) (fn : FnIx) (v : W32), fnPresent s.dev fn = true →
     let f := getFn s.dev fn
     Gives (.evtWindowEnable fn v) s (fun d =>
       let g := getFn d fn
       g.evtEnable = v.getLsbD 0 ∧ g.evtIntEn = v.getLsbD 1 ∧ g.evtVector = BitVec.ofNat 6 (v.toNat / 4 % 64)
       ∧ g.evtMinSev = BitVec.ofNat 3 (v.toNat / 256 % 8)
       ∧ (v.getLsbD 0 = false → g.evtWcnt = 0 ∧ g.evtRcnt = 0 ∧ g.evtRecs = []) ∧ g.sq = f.sq ∧ g.cq = f.cq
       ∧ d = { s.dev with hif := { s.dev.hif with fns := d.hif.fns } })
     ∧ ((v - f.evtRcnt).toNat ≤ (f.evtWcnt - f.evtRcnt).toNat → Gives (.evtDoorbell fn v) s fun d =>
         getFn d fn = { f with evtRcnt := v } ∧ d = { s.dev with hif := { s.dev.hif with fns := d.hif.fns } })
     ∧ ((f.evtWcnt - f.evtRcnt).toNat < (v - f.evtRcnt).toNat → Gives (.evtDoorbell fn v) s fun d =>
         (getFn d fn).evtRcnt = f.evtRcnt ∧ (getFn d fn).evtWcnt = f.evtWcnt ∧ (secondSince f.c008At s.dev = false → d = s.dev)))

/-- R15 and R281 on reads, of 32 and of 64 bits.
R281: reads that answer 0. -/
def Obligations.RegisterReads : Prop :=
  (∀ (s : State) (off v : Nat), PfPresent s.dev → PlainReg s.dev off →
     (off % 8 = 0 → bar2Reg s.dev off = some (true, v) → Gives (.regReadLowHalf 0 true ⟨off, false⟩) s fun d =>
       d.out = s.dev.out ++ [.readData (BitVec.ofNat 64 (v % 2 ^ 32))]
       ∧ sFind d.time.latches (latchKey 0 true (off + 4)) = some (BitVec.ofNat 32 (v / 2 ^ 32))
       ∧ d = { s.dev with out := d.out, time := { s.dev.time with latches := d.time.latches } })
     ∧ (∀ w : W32, off % 8 = 4 → bar2Reg s.dev off = none → (bar2Reg s.dev (off - 4)).any (·.1) = true →
       sFind s.dev.time.latches (latchKey 0 true off) = some w → Gives (.regReadLowHalf 0 true ⟨off, false⟩) s fun d =>
         d.out = s.dev.out ++ [.readData (w.zeroExtend 64)] ∧ sFind d.time.latches (latchKey 0 true off) = none
         ∧ d = { s.dev with out := d.out, time := { s.dev.time with latches := d.time.latches } })
     ∧ (bar2Reg s.dev off = some (false, v) → Gives (.regReadLowHalf 0 true ⟨off, false⟩) s fun d =>
       d = { s.dev with out := s.dev.out ++ [.readData (BitVec.ofNat 64 (v % 2 ^ 32))] })
     ∧ (off % 8 = 0 → bar2Reg s.dev off = some (true, v) → Gives (.regReadLowHalf 0 true ⟨off, true⟩) s fun d =>
       d = { s.dev with out := s.dev.out ++ [.readData (BitVec.ofNat 64 v)] })
     ∧ (∀ w, off % 8 = 0 → PlainReg s.dev (off + 4) → bar2Reg s.dev off = some (false, v) → bar2Reg s.dev (off + 4) = some (false, w) →
       Gives (.regReadLowHalf 0 true ⟨off, true⟩) s fun d =>
         d = { s.dev with out := s.dev.out ++ [.readData (BitVec.ofNat 64 (v % 2 ^ 32 + w % 2 ^ 32 * 2 ^ 32))] }))
  ∧ ((∀ (s : State) (off : ReadAt), PfPresent s.dev → regAsleep s.dev off.off = true → Gives (.regReadLowHalf 0 true off) s fun d =>
     d = { s.dev with out := s.dev.out ++ [.readData 0] })
   ∧ (∀ (s : State) (fn : FnIx) (off : ReadAt), fn ≠ 0 → fnPresent s.dev fn = true → Gives (.regReadLowHalf fn true off) s fun d =>
     d = { s.dev with out := s.dev.out ++ [.readData 0] }))

/-- R12 and R281 on writes, over registers of five blocks. -/
def Obligations.RegisterWrites : Prop :=
  (∀ (s : State) (v : W64), PfPresent s.dev → (getDom s.dev 344).state = 0 →
    let w := fun off : Nat => Instr.regWrite 0 true off false v
    let x := v.toNat % 2 ^ 32
    Gives (w 0x70000) s (fun d => d = { s.dev with srv := { s.dev.srv with
        target := BitVec.ofNat 15 (clampNat 2000 20000 (bits x 0 15)), share := BitVec.ofNat 7 (min 100 (bits x 15 7)),
        minChunk := BitVec.ofNat 10 (max 1 (bits x 22 10)) } })
    ∧ Gives (w 0x7002C) s (fun d => d = { s.dev with num := { s.dev.num with flags := s.dev.num.flags &&& ~~~(BitVec.ofNat 7 x) } })
    ∧ Gives (w 0x80000) s (fun d => d = { s.dev with plc := { s.dev.plc with
        seconds := BitVec.ofNat 10 (clampNat 1 600 (bits x 0 10)), migRate := BitVec.ofNat 14 (min 10000 (bits x 10 14)) } })
    ∧ Gives (w 0x90000) s (fun d => d = { s.dev with att := { s.dev.att with
        itemTarget := BitVec.ofNat 18 (clampNat 4096 262143 (bits x 0 18)) } }))
  ∧ (∀ (s : State) (v : W64), PfPresent s.dev → (getDom s.dev 374).state = 0 → Gives (.regWrite 0 true 0xC0000 false v) s fun d =>
      d = { s.dev with pwr := { s.dev.pwr with
        envW := clampNat 150 450 (bits (v.toNat % 2 ^ 32) 0 10), envB := max 1 (bits (v.toNat % 2 ^ 32) 10 16) } })
  ∧ (∀ (s : State) (fn : FnIx) (bar2 wide : Bool) (off : Nat) (v : W64),
      (off % (if wide then 8 else 4) ≠ 0 ∨ (bar2 = true ∧ fn ≠ 0) ∨ (bar2 = true ∧ regAsleep s.dev off = true ∧ wide = false ∧ off % 8 = 0)) →
      Gives (.regWrite fn bar2 off wide v) s fun d => d = s.dev)

/-- R28, R29, R31 and R56. -/
def Obligations.TimeAndIslands : Prop :=
  (∀ s : State, s.dev.time.busy = false → Gives .clkcorrSample s fun d =>
    d = { s.dev with time := { s.dev.time with busy := true, valid := false } })
  ∧ (∀ (s : State) (unc : W16), s.dev.time.busy = true → Gives (.clkcorrSampleDone unc) s fun d =>
    d = { s.dev with time := { s.dev.time with busy := false, valid := true, corrStamp := s.dev.time.stampUs, corrCp := s.dev.time.cpNs,
                                               corrUnc := BitVec.ofNat 16 (min 2000 unc.toNat) } })
  ∧ (∀ (s : State) (k : CoreIx) (units : Nat), (getDom s.dev k).state = 0 → Gives (.islandFreqChange (.core k) units) s fun d =>
    let c := getCore s.dev k
    let x := getCore d k
    x.actual = BitVec.ofNat 7 (coreTarget s.dev k) ∧ x.relock = false ∧ x.cycBase = coreCycles s.dev c ∧ x.cycFrom = s.dev.time.stampUs
    ∧ x.s = c.s ∧ x.pc = c.pc ∧ x.req = c.req ∧ OnlyCore k s.dev d)
  ∧ (∀ (s : State) (p : PipeIx) (units : Nat), (getDom s.dev (272 + p)).state = 0 → Gives (.islandFreqChange (.pipe p) units) s fun d =>
    d = setIsland (272 + p) { getIsland s.dev (272 + p) with freq := min units (pipeTarget s.dev p) } s.dev)
  ∧ (∀ (s : State) (i : Island) (units : Nat), islandRuns s.dev i = true → (∀ k, i ≠ .core k) → (∀ p, i ≠ .pipe p) →
    Gives (.islandFreqChange i units) s fun d => getIsland d (islandKey i) = { getIsland s.dev (islandKey i) with freq := units })
  ∧ (∀ (s : State) (i : Island), islandRuns s.dev i = true → Gives (.clockIslandIdle i) s fun d =>
    d = setIsland (islandKey i) { getIsland s.dev (islandKey i) with idle := true } s.dev)
  ∧ (∀ (s : State) (i : Island), Gives (.islandWakeOnRequest i) s fun d =>
    getIsland d (islandKey i) = { getIsland s.dev (islandKey i) with idle := false }
    ∧ ∀ n, islandDom i = some n → (getDom s.dev n).entry = none → (getDom s.dev n).wake = 0 → 2 ≤ (getDom s.dev n).state →
        ¬(345 ≤ n ∧ n < 349 ∧ s.dev.rel.hbmOff.contains (n - 345) = true) → (getDom d n).wake = 1)
  ∧ (∀ (s : State) (k : CoreIx), Gives (.rngReseed (.core k)) s fun d =>
    sGet {} d.num.rng k = ⟨BitVec.ofNat 128 (ofLe (padTo 16 (Config.drbg s.dev.freeCtr))), 0⟩ ∧ d.freeCtr = s.dev.freeCtr + 1
    ∧ d = { s.dev with num := { s.dev.num with rng := d.num.rng }, freeCtr := d.freeCtr })

/-- R283, R284 and R297. -/
def Obligations.HostRings : Prop :=
  ∀ (s : State) (fn : FnIx) (n : RingIx) (v : W32), fnPresent s.dev fn = true →
    let sq := getSq s.dev fn n
    let cq := getCq s.dev fn n
    let size := v.toNat % 32
    (sq.enable = false → 1 ≤ size → size ≤ 16 → (getCq s.dev fn (v.toNat / 256 % 16)).enable = true →
      Gives (.sqEnable fn n v) s fun d => getSq d fn n = { sq with
        sizeLog2 := BitVec.ofNat 5 size, cq := BitVec.ofNat 4 (v.toNat / 256 % 16), enable := true, head := 0, tail := 0, active := true,
        error := false, cause := 0 })
    ∧ (sq.enable = true → Gives (.sqDisable fn n v) s fun d => getSq d fn n = { sq with enable := false, active := false })
    ∧ (cq.enable = false → 1 ≤ size → size ≤ 16 → Gives (.cqEnable fn n v) s fun d =>
        let q := getCq d fn n
        q.sizeLog2 = BitVec.ofNat 5 size ∧ q.enable = true ∧ q.active = true ∧ q.error = false ∧ q.head = 0 ∧ q.tail = 0 ∧ q.phase = true
        ∧ q.held = [] ∧ q.vector = BitVec.ofNat 6 (v.toNat / 256 % 64) ∧ q.intEn = v.getLsbD 14 ∧ q.base = cq.base)
    ∧ (cq.enable = true → Gives (.cqDisable fn n v) s fun d => (getCq d fn n).enable = false ∧ (getCq d fn n).active = false)
    ∧ (sq.active = true → v.toNat < 2 ^ sq.sizeLog2.toNat → Gives (.sqTailDoorbell fn n v) s fun d =>
        getSq d fn n = { sq with tail := v.truncate 16 })
    ∧ (sq.active = true → 2 ^ sq.sizeLog2.toNat ≤ v.toNat → Gives (.sqTailDoorbell fn n v) s fun d =>
        (getSq d fn n).active = false ∧ (getSq d fn n).error = true ∧ (getSq d fn n).cause = 1
        ∧ d.hif.ringErr = BitVec.ofNat 16 (satAdd 16 s.dev.hif.ringErr.toNat 1))
    ∧ (cq.active = true → cq.held = [] → v.toNat < 2 ^ cq.sizeLog2.toNat →
        (v.toNat + 2 ^ cq.sizeLog2.toNat - cq.head.toNat) % 2 ^ cq.sizeLog2.toNat
          ≤ (cq.tail.toNat + 2 ^ cq.sizeLog2.toNat - cq.head.toNat) % 2 ^ cq.sizeLog2.toNat →
        Gives (.cqHeadDoorbell fn n v) s fun d => getCq d fn n = { cq with head := v.truncate 16, holdTold := false })
    ∧ (cq.intEn = true → 0 < cq.unsignalled → Gives (.cqAggTimeout fn n) s fun d =>
        (getCq d fn n).unsignalled = 0 ∧ SignalledAs fn cq.vector.toNat s.dev d)
    ∧ (∀ vec : Fin 64, Gives (.msixVectorUnmask fn vec) s fun d =>
        (sGet {} (getFn d fn).msix vec).masked = false ∧ (getFn d fn).pba.getLsbD vec = false
        ∧ d.out = s.dev.out ++ (if (getFn s.dev fn).pba.getLsbD vec then [.msix fn vec] else []))

/-- R276, R277, R300, R305, R452 and the failed host reads of R285. -/
def Obligations.HostResetsAndLink : Prop :=
  (∀ (s : State) (fn : FnIx), fn ≠ 0 → fnPresent s.dev fn = true → Gives (.flrVf fn) s fun d =>
    getFn d fn = { ready := (getFn s.dev fn).ready })
  ∧ (∀ s : State, fnPresent s.dev 0 = true → Gives .flrPf s fun d =>
    getFn d 0 = { ready := (getFn s.dev 0).ready } ∧ d.hif.vfEnable = false)
  ∧ (∀ s : State, Gives .perstNAssert s fun d => d.pins.perstN = false ∧ d.hif.cfgFrom = none ∧ d.hif.up = false)
  ∧ (∀ s : State, Gives .perstNDeassert s fun d =>
    d.pins.perstN = true ∧ d.hif.cfgFrom = (if s.dev.hif.trained then some (s.dev.time.stampUs + 100000) else s.dev.hif.cfgFrom))
  ∧ (∀ (s : State) (fn : FnIx), fnPresent s.dev fn = true →
    Gives (.d3hotEnter fn) s (fun d => d = setFn fn { getFn s.dev fn with d3hot := true } s.dev)
    ∧ Gives (.d3hotExit fn) s (fun d => (getFn d fn).d3hot = false))
  ∧ (∀ (s : State) (rate width : Nat) (flit : Bool), s.dev.hif.trained = true → s.dev.pins.perstN = true → 1 ≤ rate → rate ≤ 7 →
    width = 1 ∨ width = 2 ∨ width = 4 → Gives (.linkRetrain rate width flit) s fun d =>
      d.hif.rate = BitVec.ofNat 3 rate ∧ d.hif.width = BitVec.ofNat 3 width ∧ d.hif.up = true ∧ d.hif.flit = (flit || decide (6 ≤ rate)))
  ∧ (∀ (s : State) (fn : FnIx) (wr : Bool) (off : Nat) (v : W32), s.dev.pins.perstN = true → s.dev.hif.trained = true → ∀ t,
    s.dev.hif.cfgFrom = some t →
    (s.dev.time.stampUs < t → Gives (.configRequest fn wr off v) s fun d => d = { s.dev with out := s.dev.out ++ [.cfgRetry] })
    ∧ (t ≤ s.dev.time.stampUs → fn ≠ 0 → s.dev.hif.vfEnable = false →
        Gives (.configRequest fn wr off v) s fun d => d = { s.dev with out := s.dev.out ++ [.cfgUr] })
    ∧ (t ≤ s.dev.time.stampUs → fn = 0 ∨ s.dev.hif.vfEnable = true → Gives (.configRequest fn true 4 v) s fun d =>
        (getFn d fn).bme = v.getLsbD 2 ∧ (getFn d fn).sq = (getFn s.dev fn).sq)
    ∧ (t ≤ s.dev.time.stampUs → fn = 0 ∨ s.dev.hif.vfEnable = true → Gives (.configRequest fn false off v) s fun d =>
        ∃ w, d.out = s.dev.out ++ [.cfgData w]))
  ∧ (∀ (s : State) (status hdr : W32),
    Gives (.aerErrorLogged false status hdr) s (fun d =>
      d = { s.dev with hif := { s.dev.hif with aerCorr := BitVec.ofNat 16 (min (s.dev.hif.aerCorr.toNat + 1) 65535) } })
    ∧ Gives (.aerErrorLogged true status hdr) s (fun d =>
      d.hif.aerUncorr = BitVec.ofNat 16 (min (s.dev.hif.aerUncorr.toNat + 1) 65535)))
  ∧ (∀ (s : State) (fn : FnIx) (sq : RingIx) (result : Nat) (addr : W64) (e : Bytes) (target : Nat),
    (target ≠ 1 → target ≠ 2 → Gives (.hostReadFailed fn sq target result addr e) s fun d =>
      d.hif.dmaFail = BitVec.ofNat 16 (min (s.dev.hif.dmaFail.toNat + 1) 65535))
    ∧ (canFetch s.dev fn sq = true → Gives (.hostReadFailed fn sq 1 result addr e) s fun d =>
      (getSq d fn sq).active = false ∧ (getSq d fn sq).error = true ∧ (getSq d fn sq).cause = 2))

/-- R384, whole. ENABLE and DISABLE are sent when the order of R383 lets the rail move. -/
def Obligations.SetVoltage : Prop :=
  ∀ (s : State) (st : StageIx) (mv : W16), (getStage s.dev st).faulty = false →
    let x := getStage s.dev st
    let r := railOf st
    let fits := r.lo ≤ mv.toNat ∧ mv.toNat ≤ r.hi ∧ mv.toNat ≤ x.target + 50 ∧ x.target ≤ mv.toNat + 50
    let takes := ((mv.toNat - x.target + (x.target - mv.toNat)) + 4) / 5
    (ramping s.dev st = false → fits → Gives (.setV st mv) s fun d =>
      getStage d st = { x with target := mv.toNat, rampEnd := s.dev.time.stampUs + BitVec.ofNat 64 takes, fails := 0 }
      ∧ (∀ n, n ≠ st.val → getStage d n = getStage s.dev n)
      ∧ d = { s.dev with out := s.dev.out ++ [.wick st 1 (wickFrame st 0 mv.toNat)], pwr := { s.dev.pwr with stages := d.pwr.stages } })
    ∧ (ramping s.dev st = false → ¬fits → Gives (.setV st mv) s fun d =>
      d = { s.dev with out := s.dev.out ++ [.wick st 1 (wickFrame st 1 mv.toNat)] })
    ∧ (ramping s.dev st = true → ∀ p ∈ [((0 : Nat), Instr.ping st), (1, .setV st mv), (4, .wickRead st mv), (5, .setIlim st mv),
          (6, .clearFault st)] ++ (if railMayRise s.dev st then [(2, .enable st mv)] else []),
        Gives p.2 s fun d => (s.dev.out ++ [.wick st p.1 (wickFrame st 2 0)]) <+: d.out
          ∧ (getStage d st).target = x.target ∧ (getStage d st).enabled = x.enabled ∧ (getStage d st).rampEnd = x.rampEnd
          ∧ (∀ n, n ≠ st.val → getStage d n = getStage s.dev n))

/-- R382, R383, R385 and R386 over the stage commands but SET_V. The revision a PING answers is free (log entry 31). -/
def Obligations.PowerStages : Prop :=
  ∀ (s : State) (st : StageIx) (v : W16),
    let x := getStage s.dev st
    let only := fun (d : Dev) (y : StageSt) (frame : List Output) => getStage d st = y ∧ (∀ n, n ≠ st.val → getStage d n = getStage s.dev n)
      ∧ d = { s.dev with out := s.dev.out ++ frame, pwr := { s.dev.pwr with stages := d.pwr.stages } }
    let ok := x.faulty = false ∧ ramping s.dev st = false
    let up := s.dev.time.stampUs + BitVec.ofNat 64 ((v.toNat + 4) / 5)
    let inRange := (railOf st).lo ≤ v.toNat ∧ v.toNat ≤ (railOf st).hi
    let item : Nat := match v.toNat % 16 with
      | 0 => x.power
      | 1 => x.vin
      | 2 => x.iin
      | 3 => x.vout
      | 4 => x.iout
      | 5 => (healthyPhases s.dev st).foldl (fun a i => a + 2 ^ i) 0
      | _ => x.status.toNat / 2 * 2 + (if railGood s.dev st then 1 else 0)
    (ramping s.dev st = false → Gives (.ping st) s fun d => ∃ rev : BitVec 12,
      getStage d st = { x with fails := 0 } ∧ d.out = s.dev.out ++ [.wick st 0 (wickFrame st 0 (st.val + rev.toNat * 16))])
    ∧ (ok → railMayRise s.dev st = true → inRange → Gives (.enable st v) s fun d =>
        only d { x with enabled := true, target := v.toNat, rampEnd := up, goodFrom := up, fails := 0 } [.wick st 2 (wickFrame st 0 v.toNat)])
    ∧ (ok → railMayRise s.dev st = true → ¬inRange → Gives (.enable st v) s fun d => only d x [.wick st 2 (wickFrame st 1 v.toNat)])
    ∧ (railMayRise s.dev st = false → Gives (.enable st v) s fun d => d = s.dev)
    ∧ (ok → (∀ n ∈ (railOrder.dropWhile (· ≠ st.val)).drop 1, (getStage s.dev n).enabled = false) → Gives (.disable st) s fun d =>
        (getStage d st).enabled = false ∧ (getStage d st).fails = 0 ∧ (∀ k ∈ railDomains st, (getDom d k).state = 4)
        ∧ (∀ n, n ≠ st.val → getStage d n = getStage s.dev n) ∧ d.out = s.dev.out ++ [.wick st 3 (wickFrame st 0 0)])
    ∧ (ok → v.toNat % 16 ≤ 6 → Gives (.wickRead st v) s fun d => only d { x with fails := 0 } [.wick st 4 (wickFrame st 0 item)])
    ∧ (ok → 7 ≤ v.toNat % 16 → Gives (.wickRead st v) s fun d => only d x [.wick st 4 (wickFrame st 1 v.toNat)])
    ∧ (ok → v.toNat ≤ (railOf st).rated → Gives (.setIlim st v) s fun d =>
        only d { x with ilim := v.toNat, fails := 0 } [.wick st 5 (wickFrame st 0 v.toNat)])
    ∧ (ok → (railOf st).rated < v.toNat → Gives (.setIlim st v) s fun d => only d x [.wick st 5 (wickFrame st 1 v.toNat)])
    ∧ (ok → Gives (.clearFault st) s fun d => only d { x with status := 0, fails := 0 } [.wick st 6 (wickFrame st 0 0)])
    ∧ (x.faulty = false → ∀ cmd cause, Gives (.wickTimeout st cmd cause) s fun d =>
        getStage d st = (if x.fails < 2 then { x with fails := x.fails + 1 } else { x with faulty := true, pings := 0, fails := 0 })
        ∧ (∀ n, n ≠ st.val → getStage d n = getStage s.dev n))
    ∧ (x.faulty = true → Gives (.faultyStagePing st false) s (fun d => getStage d st = { x with pings := 0 })
        ∧ Gives (.faultyStagePing st true) s (fun d => getStage d st =
            if x.pings < 2 then { x with pings := x.pings + 1 } else { x with faulty := false, pings := 0, fails := 0 }))
    ∧ (∀ status : List W16, Gives (.stageAlert status) s fun d =>
        ∀ n : StageIx, getStage d n = { getStage s.dev n with status := status.getD n 0 })
    ∧ (∀ phase : Fin 8, phase.val < (railOf st).phases → x.failed.getLsbD phase = false →
        let failed := x.failed ||| (1 <<< phase.val)
        let healthy := ((List.range (railOf st).phases).filter fun i => !failed.getLsbD i).length
        0 < healthy → Gives (.phaseFailure st phase) s fun d =>
          getStage d st = { x with failed := failed, derated := x.derated || decide (healthy < (railOf st).needed) })

/-- R376, R381, R388, R389 and R398. -/
def Obligations.PowerWindows : Prop :=
  (∀ (s : State) (m : WindowMeas), (∀ n, n < 12 → (getStage s.dev n).derated = false) → s.dev.pwr.envW = s.dev.pwr.e →
    let p := (m.stages.take 12).foldl (fun (a : Nat) x => a + x.power) 0
    let pw : Rat := (p : Rat) / 100
    let t : Rat := min (s.dev.pwr.e : Rat) s.dev.pwr.l
    let lows := if pw < t - 12 then s.dev.pwr.lows + 1 else 0
    let k0 := s.dev.pwr.k
    let k := if t < pw then min (k0 + 4) 36 else if t - 2 < pw then min (k0 + 1) 36 else if 11 ≤ lows then k0 - 1 else k0
    Gives (.windowEnd m) s fun d =>
      d.pwr.k = k ∧ d.pwr.lows = lows ∧ d.pwr.last = (p :: s.dev.pwr.last).take 10
      ∧ d.arr.budget = (s.dev.pwr.envB * (32 - min k 24) + 31) / 32 ∧ d.arr.budgetFloor = decide (24 ≤ k)
      ∧ d.pwr.coreCeil = 72 - 4 * (k - 24) ∧ d.pwr.pipeCeil = 1200 - 75 * (k - 24) ∧ d.pwr.l = s.dev.pwr.l ∧ d.hbm = s.dev.hbm)
  ∧ (∀ s : State,
    let e : Rat := s.dev.pwr.e
    let hot := (List.range 25).any (regionAbove s.dev)
    let cool := (List.range 25).all fun r => decide ((getRegion s.dev r).temp + 12 ≤ 4 * (throttlePoint s.dev r : Int))
    (hot = true → Gives (.thermalLimitEval true) s fun d => d.pwr.l = max (s.dev.pwr.l - e / 32) (e / 4))
    ∧ (hot = false → Gives (.thermalLimitEval true) s fun d => d = s.dev)
    ∧ (cool = true → s.dev.pwr.halfUntil = none → Gives (.thermalLimitEval false) s fun d =>
        d.pwr.l = max s.dev.pwr.l (min (s.dev.pwr.l + e / 32) e))
    ∧ (cool = false → Gives (.thermalLimitEval false) s fun d => d = s.dev))
  ∧ (∀ (s : State) (v : W16),
    Gives (.vinBelow38v v) s (fun d => d.pwr.vinLow = true ∧ ∀ n : DieIx, (getDie d n).progLimit = 0)
    ∧ Gives (.vinHigh v) s (fun d => d.pwr = { s.dev.pwr with vinHigh := true } ∧ d.arr = s.dev.arr ∧ d.grid = s.dev.grid)
    ∧ (s.dev.pwr.mode ≠ 0 → Gives (.vinUvlo v) s fun d =>
        d.pwr.mode = 1 ∧ (∀ n, (getStage d n).enabled = false) ∧ (∀ k, getCore d k = {}) ∧ d.hbm = [] ∧ d.log.recs = []
        ∧ d.srv.ctxs = [] ∧ d.time.stampUs = s.dev.time.stampUs ∧ d.lmp = s.dev.lmp ∧ d.nor.slotA = s.dev.nor.slotA)
    ∧ Gives (.vstbyLoss v) s (fun d =>
        d.pwr.mode = 0 ∧ d.time.stampUs = 0 ∧ d.lmp = {} ∧ d.adc = {} ∧ d.sec.sessions = [] ∧ d.sec.nonces = []
        ∧ d.arr.planes = s.dev.arr.planes ∧ d.nor.slotA = s.dev.nor.slotA ∧ d.sec.marks = s.dev.sec.marks)
    ∧ Gives (.vinRecover v) s (fun d => d.pwr.vinLow = false ∧ d.pwr.vinHigh = false ∧ d.rel.deferred = []
        ∧ (s.dev.pwr.mode = 1 → (s.dev.pwr.vinLow = true ∨ s.dev.pwr.vinHigh = true) → s.dev.pwr.tripped = false →
            d.pwr.mode = 2 ∧ d.nor.at_ = 1 ∧ d.nor.cause = 1)
        ∧ (s.dev.pwr.mode ≠ 1 → d.pwr.mode = s.dev.pwr.mode)))
  ∧ (∀ s : State, Gives .capacityEval s fun d =>
      (∀ n, 1 ≤ n → n ≤ 5 → d.rel.causes.getLsbD (n - 1) = causeHolds s.dev n)
      ∧ d.rel.causes.getLsbD 5 = s.dev.rel.causes.getLsbD 5
      ∧ (d.rel.causes ≠ 0 → d.rel.reduced = true ∧ d.rel.clean = 0)
      ∧ (d.rel.causes = 0 → d.rel.clean = s.dev.rel.clean + 1
          ∧ d.rel.reduced = (s.dev.rel.reduced && decide (s.dev.rel.clean + 1 < 10)))
      ∧ ∀ sec n, causeHolds { s.dev with sec := sec } n = causeHolds s.dev n)

/-- R391–R395, R400, R401 and R450. -/
def Obligations.PowerDomains : Prop :=
  (∀ (s : State) (n : DomIx) (tgt : Nat), 2 ≤ tgt → tgt ≤ 4 → (getDom s.dev n).state < tgt → (getDom s.dev n).entry = none →
    let x := getDom s.dev n
    (domHeld s.dev n tgt = true → Gives (.domainIdleTimeout n tgt) s fun d => d = s.dev)
    ∧ (domHeld s.dev n tgt = false → x.wake = 0 → Gives (.domainIdleTimeout n tgt) s fun d =>
        getDom d n = { x with entry := some tgt, step := 0, wakeAsked := false }
        ∧ d = { s.dev with pwr := { s.dev.pwr with doms := d.pwr.doms } })
    ∧ (domHeld s.dev n tgt = false → x.wake ≠ 0 → Gives (.domainIdleTimeout n tgt) s fun d =>
        getDom d n = { x with downAsked := some tgt }))
  ∧ (∀ (s : State) (n : DomIx) (tgt : Nat), (getDom s.dev n).entry = some tgt → domHeld s.dev n tgt = false →
    let x := getDom s.dev n
    (x.wakeAsked = false → x.step < 4 → Gives (.domainEntryStepComplete n) s fun d => getDom d n = { x with step := x.step + 1 })
    ∧ (x.wakeAsked = false → 4 ≤ x.step → Gives (.domainEntryStepComplete n) s fun d =>
        getDom d n = { x with entry := none, step := 0, state := tgt })
    ∧ (x.wakeAsked = true → Gives (.domainEntryStepComplete n) s fun d =>
        (getDom d n).entry = none ∧ (getDom d n).wake = 1 ∧ (getDom d n).state = if 3 ≤ x.step + 1 then tgt else x.state)
    ∧ (x.step = 2 → n.val < 272 → Gives (.domainEntryStepComplete n) s fun d =>
        (tgt = 4 → getCore d n = {}) ∧ (tgt ≠ 4 → (getCore d n).acc = [] ∧ (getCore d n).ctx = [] ∧ (getCore d n).sram = (getCore s.dev n).sram)))
  ∧ (∀ (s : State) (n : DomIx) (tgt : Nat), (getDom s.dev n).entry = some tgt → domHeld s.dev n tgt = true →
    Gives (.domainEntryStepComplete n) s fun d =>
      let x := getDom s.dev n
      (getDom d n).entry = none ∧ (getDom d n).wake = 1 ∧ ((getDom d n).state = if 3 ≤ x.step then tgt else x.state)
      ∧ d.grid = s.dev.grid ∧ d.hbm = s.dev.hbm ∧ d.srv = s.dev.srv)
  ∧ (∀ (s : State) (n : DomIx) (source : Nat),
    let x := getDom s.dev n
    (x.entry ≠ none → Gives (.domainWake n source) s fun d => getDom d n = { x with wakeAsked := true } ∧ d.pwr.wakeSource = source)
    ∧ (x.entry = none → x.wake = 0 → 2 ≤ x.state →
      ¬(345 ≤ n.val ∧ n.val < 349 ∧ s.dev.rel.hbmOff.contains (n.val - 345) = true) → Gives (.domainWake n source) s fun d =>
        getDom d n = { x with wake := 1, rerun := false } ∧ d.pwr.wakeSource = source ∧ d.pwr.wakeDom = n.val))
  ∧ (∀ (s : State) (n : DomIx) (ready : Fin 4), (getDom s.dev n).wake ≠ 0 → (getDom s.dev n).downAsked = none →
    let x := getDom s.dev n
    (x.wake = ready.val + 1 → x.wake < 4 → Gives (.wakeStepComplete n ready) s fun d =>
      getDom d n = { x with wake := x.wake + 1, rerun := false })
    ∧ (x.wake ≠ ready.val + 1 → Gives (.wakeStepComplete n ready) s fun d => d = s.dev)
    ∧ (x.wake = 4 → ready.val = 3 → Gives (.wakeStepComplete n ready) s fun d => getDom d n = { x with state := 0, wake := 0, rerun := false })
    ∧ (x.rerun = false → Gives (.wakeStepTimeout n) s fun d => getDom d n = { x with rerun := true })
    ∧ (x.rerun = true → Gives (.wakeStepTimeout n) s fun d => getDom d n = {}))
  ∧ (∀ (s : State) (v : W32), Gives (.pwrDomainQuery v) s fun d =>
    d = { s.dev with pwr := { s.dev.pwr with query := v.truncate 9, queryValid := true } })
  ∧ (∀ s : State,
    (s.dev.pwr.mode = 1 → s.dev.pwr.tripped = false → Gives .wakeNAssert s fun d =>
      d.pwr.mode = 2 ∧ d.nor.at_ = 2 ∧ d.nor.cause = 2 ∧ d.pwr.wakeSource = 4 ∧ d.pwr.wakeDom = 511)
    ∧ (s.dev.pwr.mode = 3 → Gives .wakeNAssert s fun d =>
      d = { s.dev with pwr := { s.dev.pwr with wakeSource := 4, wakeDom := 511 } })
    ∧ (s.dev.pwr.mode = 2 → Gives .wakeNAssert s fun d => d.nor.wakes = s.dev.nor.wakes ++ [4] ∧ d.pwr.mode = 2)
    ∧ (∀ addr : BitVec 7, s.dev.pwr.mode ≠ 0 →
      (addr.toNat = cfgGet s.dev 0x0405 0 → Gives (.smbusAddressMatch addr) s fun d => d.pins.smbAwake = true)
      ∧ (addr.toNat ≠ cfgGet s.dev 0x0405 0 → Gives (.smbusAddressMatch addr) s fun d => d = s.dev))
    ∧ (s.dev.pwr.mode ≠ 0 → s.dev.pins.alertN = false → Gives .alertResponseRead s fun d =>
      d = { s.dev with out := s.dev.out ++ [.smbus [BitVec.ofNat 8 (cfgGet s.dev 0x0405 0)]], pins := { s.dev.pins with alertN := true } })
    ∧ (s.dev.pwr.mode ≠ 0 → s.dev.pins.alertN = true → Gives .alertResponseRead s fun d => d = s.dev)
    ∧ (s.dev.pwr.mode = 1 → s.dev.pwr.restartDue = true → s.dev.pwr.tripUs + 30000000 ≤ s.dev.time.stampUs →
      (trips24 s.dev ≤ 3 → Gives .tripRestart s fun d => d.pwr.mode = 2 ∧ d.pwr.tripStart = true ∧ d.nor.at_ = 2 ∧ d.nor.cause = 3)
      ∧ (3 < trips24 s.dev → Gives .tripRestart s fun d => d.pwr.mode = 1 ∧ d.pwr.locked = true ∧ d.pwr.restartDue = false))
    ∧ (s.dev.time.stampUs < s.dev.pwr.tripUs + 30000000 → Gives .tripRestart s fun d => d = s.dev)
    ∧ Gives .thmTripClear s (fun d => d = { s.dev with pwr := { s.dev.pwr with cleared := true } }))

/-- R405, R428, R429, R443 and R450: vstbyRise, startStepComplete, mgtPhyResetRelease. -/
def Obligations.StartUp : Prop :=
  (∀ s : State,
    (s.dev.pwr.mode = 0 → Gives .vstbyRise s fun d =>
      d.pwr.mode = 2 ∧ d.nor.at_ = 1 ∧ d.nor.step = 1 ∧ d.nor.cause = 1 ∧ d.time.stampUs = 0 ∧ d.lmp = {}
      ∧ d.adc = { cur := some { channel := 16, urgent := none, ref := 0, gain := 1 }, refWait := true })
    ∧ (s.dev.pwr.mode ≠ 0 → Gives .vstbyRise s fun d => d = s.dev))
  ∧ (∀ (s : State) (m : StartMeas), s.dev.pwr.mode = 2 →
    (s.dev.nor.at_ = 1 → Gives (.startStepComplete m) s fun d =>
      d.nor.at_ = 2 ∧ d.nor.step = 2 ∧ d.nor.duration = s.dev.nor.duration + BitVec.ofNat 32 m.ms ∧ d.pwr.mode = 2)
    ∧ (s.dev.nor.at_ = 2 → m.flashOk = false → Gives (.startStepComplete m) s fun d =>
      d.pwr.mode = 4 ∧ d.pwr.faultN = true ∧ d.nor.recovery = true)
    ∧ (s.dev.nor.at_ = 3 → (∀ n, n < 12 → healthyPhases s.dev n ≠ []) → Gives (.startStepComplete m) s fun d =>
      d.nor.at_ = 4 ∧ d.log.ready = true ∧ d.log.queued = [] ∧ ∀ n, n < 12 → (getStage d n).enabled = true)
    ∧ (s.dev.nor.at_ = 12 → s.dev.nor.standbyWaits = false → Gives (.startStepComplete m) s fun d =>
      d.pwr.mode = 3 ∧ d.nor.at_ = 0 ∧ d.pwr.faultN = false ∧ d.pwr.tripped = false))
  ∧ (∀ (s : State) (m : StartMeas), s.dev.pwr.mode ≠ 2 → Gives (.startStepComplete m) s fun d => d = s.dev)
  ∧ (∀ s : State, s.dev.pwr.mode ≠ 0 → Gives .mgtPhyResetRelease s fun d =>
      d = { s.dev with pins := { s.dev.pins with phyRstN := true } })

/-- R437–R442: the firmware commands. The boot header's sequence is not about to wrap. -/
def Obligations.FirmwareUpdates : Prop :=
  ∀ s : State, SeqRoom s.dev →
    let k := idleSlot s.dev
    let slot := fwSlot s.dev k
    (∀ (mc : MgmtCmd) (n : Nat) (x : SessSt) (hdr : Bytes), Admitted mc 0x30 1 .lantern s.dev n x → hdr.length = 4096 →
      let t := taken n x s.dev
      (hdrBad hdr s.dev = 0 → Gives (.firmwareBegin mc hdr) s fun d =>
        d.nor.fwState = 1 ∧ d.nor.nextOff = 4096 ∧ (fwSlot d k).data = [] ∧ slotStatus (bootHdr d) k = 3
        ∧ Answers n 0x30 mc.id 0 true [] t d)
      ∧ (hdrBad hdr s.dev ≠ 0 → Gives (.firmwareBegin mc hdr) s fun d => d.nor = s.dev.nor ∧ Answers n 0x30 mc.id 0xF005 true [] t d))
    ∧ (∀ (mc : MgmtCmd) (n : Nat) (x : SessSt) (off : Nat) (b : Bytes), Admitted mc 0x31 1 .lantern s.dev n x → b.length ≤ 16352 →
      s.dev.nor.fwState = 1 → s.dev.nor.nextOff ≤ off → off + b.length ≤ 25165824 → Gives (.firmwareData mc off b) s fun d =>
        (fwSlot d k).data = slot.data ++ List.replicate (off - s.dev.nor.nextOff) 0xFF ++ b ∧ d.nor.nextOff = off + b.length
        ∧ d.nor.fwState = 1 ∧ Answers n 0x31 mc.id 0 true [] (taken n x s.dev) d)
    ∧ (∀ (mc : MgmtCmd) (n : Nat) (x : SessSt) (plain : List Bytes), Admitted mc 0x32 1 .lantern s.dev n x → s.dev.nor.fwState = 1 →
      (badComponent slot.hdr s.dev.nor.nextOff plain = none → Gives (.firmwareEnd mc plain) s fun d =>
        d.nor.fwState = 2 ∧ slotStatus (bootHdr d) k = 1 ∧ Answers n 0x32 mc.id 0 true [] (taken n x s.dev) d)
      ∧ (badComponent slot.hdr s.dev.nor.nextOff plain ≠ none → Gives (.firmwareEnd mc plain) s fun d =>
        d.nor.fwState = 0 ∧ slotStatus (bootHdr d) k = 2 ∧ Answers n 0x32 mc.id 0xF005 true [] (taken n x s.dev) d))
    ∧ (∀ (mc : MgmtCmd) (n : Nat) (x : SessSt), Admitted mc 0x33 1 .lantern s.dev n x → s.dev.pwr.mode = 3 →
      slotStatus (bootHdr s.dev) k = 1 → s.dev.nor.fwState = 0 ∨ s.dev.nor.fwState = 2 → Gives (.activateFirmware mc) s fun d =>
        d.nor.fwState = 3 ∧ d.nor.handed = [] ∧ d.nor.confirmed = [] ∧ (bootHdr d).state = 1 ∧ (bootHdr d).active = (bootHdr s.dev).active)
    ∧ (∀ (mc : MgmtCmd) (n : Nat) (x : SessSt), Admitted mc 0x34 1 .lantern s.dev n x →
      (s.dev.nor.fwState = 0 → Gives (.abortUpdate mc) s fun d => d.nor = s.dev.nor ∧ Answers n 0x34 mc.id 0xF005 true [] (taken n x s.dev) d)
      ∧ (s.dev.nor.fwState = 1 ∨ s.dev.nor.fwState = 2 → Gives (.abortUpdate mc) s fun d =>
        d.nor.fwState = 0 ∧ d.nor.nextOff = 0 ∧ Answers n 0x34 mc.id 0 true [] (taken n x s.dev) d)
      ∧ (s.dev.nor.fwState = 3 → Gives (.abortUpdate mc) s fun d =>
        d.nor.fwState = 0 ∧ d.nor.handed = [] ∧ slotStatus (bootHdr d) k = 2 ∧ (bootHdr d).state = 0))
    ∧ (s.dev.nor.fwState = 3 →
      (∀ (pause : W32) (c : Nat), s.dev.sec.marks = [] → [7, 6, 5, 4, 3, 2, 1][s.dev.nor.handed.length]? = some c →
        Gives (.firmwareHandover pause) s fun d => d.nor.handed = s.dev.nor.handed ++ [c] ∧ d.nor.fwState = 3)
      ∧ (∀ (pause : W32), s.dev.sec.marks ≠ [] → Gives (.firmwareHandover pause) s fun d => d = s.dev)
      ∧ (∀ (c : Nat) (ms : W32), c ∈ s.dev.nor.handed → c ∉ s.dev.nor.confirmed →
        (s.dev.nor.confirmed.length ≠ 6 → Gives (.componentConfirm c ms) s fun d =>
          d.nor = { s.dev.nor with confirmed := s.dev.nor.confirmed ++ [c] })
        ∧ (s.dev.nor.confirmed.length = 6 → Gives (.componentConfirm c ms) s fun d =>
          d.nor.fwState = 0 ∧ d.nor.slot = k ∧ (bootHdr d).active = k ∧ (bootHdr d).state = 0
          ∧ d.sec.fwRollback = max s.dev.sec.fwRollback (hdrRollback slot.hdr))
        ∧ ∀ broken : Bool, Gives (.confirmTimeout c broken) s fun d =>
          d.nor.fwState = 0 ∧ d.nor.handed = [] ∧ slotStatus (bootHdr d) k = 2 ∧ (bootHdr d).state = 0
          ∧ (bootHdr d).active = (bootHdr s.dev).active))

/-- R397, R400, R407, R409–R416, R424 and R425. -/
def Obligations.Lamplighter : Prop :=
  (∀ (s : State) (v : W32), Gives (.thmSensorQuery v) s fun d =>
    d = { s.dev with lmp := { s.dev.lmp with query := v.truncate 9, queryValid := true } })
  ∧ (∀ (s : State) (m : SweepMeas), Gives (.sensorSweep m) s fun d =>
    (∀ i, i < 360 → let c := m.counts.getD i (0, 0, 0)
      (sGet {} d.lmp.sensors i).raw = sensorTemp c.1 c.2.1 c.2.2)
    ∧ ((∀ r, r < 25 → (getRegion s.dev r).hot = 0) → ∀ r, 20 ≤ r → r < 24 →
        (∀ t, m.hbm.getD (r - 20) none = some t → (getRegion d r).temp = t ∧ (getRegion d r).blind = false)
        ∧ (m.hbm.getD (r - 20) none = none →
            (getRegion d r).temp = 4 * (throttlePoint s.dev r + 1 : Nat) ∧ (getRegion d r).blind = true))
    ∧ (s.dev.pwr.mode = 3 → ∀ r t, 20 ≤ r → r < 24 → m.hbm.getD (r - 20) none = some t → 420 ≤ t → 1 ≤ (getRegion s.dev r).hot →
        d.pwr.mode = 1 ∧ d.pwr.tripped = true))
  ∧ (∀ (s : State) (m : ConvMeas) (c : ConvCur), s.dev.adc.cur = some c → s.dev.adc.refWait = false → c.channel < 24 →
    m.extOk = true → m.vref ≠ 0 → Gives (.conversionComplete m) s fun d =>
      let code : Nat := (clampInt 0 4095 ((m.vin : Rat) * (c.gain : Nat) / m.vref * 4096 + 1 / 2).floor).toNat
      let was := sGet {} s.dev.adc.res c.channel
      let r := sGet {} d.adc.res c.channel
      r.raw = BitVec.ofNat 16 code ∧ r.sat = decide (code = 4095) ∧ r.refFault = false ∧ r.valid = true
      ∧ r.stamp = s.dev.time.stampUs.truncate 32
      ∧ (was.primed = false → r.filt = BitVec.ofNat 16 (code * 16))
      ∧ (was.primed = true → r.filt = BitVec.ofInt 16 ((was.filt.toNat : Int)
          + (((code * 16 : Nat) : Int) - (was.filt.toNat : Int)) / ((2 ^ shiftOf s.dev c.channel : Nat) : Int))))
  ∧ (∀ s : State, s.dev.adc.mode = 0 → s.dev.adc.run = true → adcSafe s.dev = false →
    (Gives .adcListTrigger s fun d => d.adc.passActive = true ∧ d.adc.passPending = (s.dev.adc.passActive || s.dev.adc.passPending))
    ∧ (s.dev.adc.listPeriod ≠ 0 → Gives .listPeriod s fun d =>
        d.adc.passActive = true ∧ d.adc.passPending = (s.dev.adc.passActive || s.dev.adc.passPending)))
  ∧ (∀ s : State, s.dev.adc.listPeriod = 0 → Gives .listPeriod s fun d => d = s.dev)
  ∧ (∀ s : State, s.dev.adc.delaying = true → Gives .loopDelayExpire s fun d => d.adc.delaying = false)
  ∧ (∀ (s : State) (v : W64),
    (Gives (.adcConfigChange .ctl v) s fun d =>
      d.adc.mode = bits v.toNat 0 1 ∧ d.adc.run = v.getLsbD 1 ∧ d.adc.intRefOn = v.getLsbD 2 ∧ d.adc.listLast = bits v.toNat 3 4
      ∧ d.adc.loopLast = bits v.toNat 7 6 ∧ d.adc.listPeriod = min 100000 (bits v.toNat 13 19))
    ∧ (∀ n : Fin 24, Gives (.adcConfigChange (.chcfg n) v) s fun d =>
        chcfgOf d n = bits v.toNat 0 17
        ∧ (shiftOf d n ≠ shiftOf s.dev n → (sGet {} d.adc.res n).primed = false)
        ∧ (shiftOf d n = shiftOf s.dev n → d.adc.res = s.dev.adc.res))
    ∧ (∀ n : Fin 24, Gives (.adcConfigChange (.win n) v) s fun d => (sGet 0 d.adc.win n).toNat = bits v.toNat 0 37)
    ∧ (∀ n : Fin 16, Gives (.adcConfigChange (.list n) v) s fun d => listEntry d n = bits v.toNat 0 17)
    ∧ (∀ n : Fin 64, Gives (.adcConfigChange (.loop n) v) s fun d => loopEntry d n = bits v.toNat 0 29))
  ∧ (∀ (s : State) (v : W32),
    (s.dev.adc.urgent.length < 4 → Gives (.adcUrgent v) s fun d => d.adc.resValid = false
      ∧ (s.dev.adc.cur ≠ none → d.adc.urgent = s.dev.adc.urgent ++ [(v.toNat % 32, .register)])
      ∧ (s.dev.adc.cur = none → s.dev.adc.urgent = [] → ∃ c, d.adc.cur = some c ∧ c.channel = v.toNat % 32 ∧ c.urgent = some .register
        ∧ c.ref = refCode (bits (chcfgOf s.dev (v.toNat % 32)) 10 2) ∧ c.gain = 2 ^ bits (chcfgOf s.dev (v.toNat % 32)) 8 2))
    ∧ (4 ≤ s.dev.adc.urgent.length → Gives (.adcUrgent v) s fun d =>
      d.adc = { s.dev.adc with urgentFull := true } ∧ (d.lmp.notes.getLast?.map (·.code)) = some 5))
  ∧ (∀ (s : State) (c : ConvCur), s.dev.adc.cur = some c → s.dev.adc.refWait = true → c.ref = 1 → c.channel < 24 →
    (Gives .extRefTimeout s fun d => (sGet {} d.adc.res c.channel).raw = 0 ∧ (sGet {} d.adc.res c.channel).refFault = true
      ∧ (sGet {} d.adc.res c.channel).filt = (sGet {} s.dev.adc.res c.channel).filt)
    ∧ Gives (.referenceReady true) s (fun d => d.adc.extReady = true ∧ d.adc.refWait = false ∧ d.adc.cur = some c))
  ∧ (∀ s : State, Gives (.referenceReady false) s fun d => d.adc.intReady = true ∧ d.adc.intUsed = s.dev.time.stampUs)
  ∧ (∀ (s : State) (codes : List W16), s.dev.adc.urgent = [] →
    let c := fun i : Nat => min 4095 (codes.getD i 0).toNat
    (c 0 ≤ 4 → 2040 ≤ c 1 → c 1 ≤ 2056 → 2036 ≤ c 2 → c 2 ≤ 2060 → Gives (.adcSelfCheck codes) s fun d =>
      d.adc.selfFail = s.dev.adc.selfFail ∧ (sGet {} d.adc.res 22).raw = BitVec.ofNat 16 (c 0)
      ∧ (sGet {} d.adc.res 23).raw = BitVec.ofNat 16 (c 1) ∧ (sGet {} d.adc.res 16).raw = BitVec.ofNat 16 (c 2))
    ∧ (4 < c 0 → 4 < c 3 → Gives (.adcSelfCheck codes) s fun d => d.adc.selfFail = true))
  ∧ (∀ (s : State) (pulses : Nat),
    let quiet := if pulses = 0 then s.dev.lmp.quiet + 1 else 0
    Gives (.tachUpdate pulses) s fun d =>
      d.lmp.rpm = BitVec.ofNat 16 (min 65535 (pulses * 60 / max 1 (cfgGet s.dev 0x060A 0))) ∧ d.lmp.quiet = quiet
      ∧ d.lmp.stale = decide (2 ≤ quiet)
      ∧ d.lmp.noteCnt = s.dev.lmp.noteCnt + (if 2 ≤ quiet ∧ s.dev.lmp.staleTold = false then 1 else 0))

/-- R417–R421: the instructions that compute, and faults. C after LD is 0 (log entry 37). -/
def Obligations.WatchProgram : Prop :=
  ∀ s : State, WatchReady s.dev →
    let w := s.dev.lmp.watch
    let len := (watchProg w).length
    let aluRows : List ((Fin 8 → Fin 8 → Fin 8 → Instr) × (W16 → W16 → W16 × Bool)) :=
      [(.watchAdd, fun x y => (x + y, decide (65536 ≤ x.toNat + y.toNat))), (.watchSub, fun x y => (x - y, decide (x.toNat < y.toNat))),
       (.watchAnd, fun x y => (x &&& y, false)), (.watchOr, fun x y => (x ||| y, false)), (.watchXor, fun x y => (x ^^^ y, false)),
       (.watchShl, fun x y => (x <<< (y.toNat % 16), decide (0 < y.toNat % 16) && x.getLsbD (16 - y.toNat % 16))),
       (.watchShr, fun x y => (x >>> (y.toNat % 16), decide (0 < y.toNat % 16) && x.getLsbD (y.toNat % 16 - 1))),
       (.watchSra, fun x y => (x.sshiftRight (y.toNat % 16), decide (0 < y.toNat % 16) && x.getLsbD (y.toNat % 16 - 1)))]
    let branchRows : List ((BitVec 9 → Instr) × (WatchSt → Bool)) :=
      [(.watchB, fun _ => true), (.watchBZ, fun w => w.z), (.watchBNz, fun w => !w.z), (.watchBN, fun w => w.n),
       (.watchBNn, fun w => !w.n), (.watchBC, fun w => w.c), (.watchBNc, fun w => !w.c)]
    let alu := fun (r : Fin 8) (v : W16) (c : Bool) =>
      { wput r v w with z := decide (v = 0), n := v.getLsbD 15, c := c, pc := w.pc + 1 }
    let goes := fun (i : Instr) (t : Int) (w' : WatchSt) =>
      (0 ≤ t → t < len → WatchGives i { w' with pc := t.toNat } s) ∧ (w.next = none → t < 0 ∨ (len : Int) ≤ t → WatchFaults i 2 s)
    (∀ r ∈ aluRows, ∀ d a b : Fin 8, let x := r.2 (wr w a) (wr w b)
      WatchGives (r.1 d a b) (alu d x.1 x.2) s)
    ∧ (∀ (d a : Fin 8) (imm : BitVec 6), let i : W16 := imm.signExtend 16
      WatchGives (.watchAddi d a imm) (alu d (wr w a + i) (decide (65536 ≤ (wr w a).toNat + i.toNat))) s)
    ∧ (∀ (d : Fin 8) (imm : BitVec 9), WatchGives (.watchLdi d imm) { wput d (imm.zeroExtend 16) w with pc := w.pc + 1 } s)
    ∧ (∀ (d : Fin 8) (z : BitVec 2) (imm : BitVec 7),
      (z = 0 → WatchGives (.watchLui d z imm) { wput d ((wr w d &&& 0x01FF) ||| (imm.zeroExtend 16 <<< 9)) w with pc := w.pc + 1 } s)
      ∧ (z ≠ 0 → w.next = none → WatchFaults (.watchLui d z imm) 1 s))
    ∧ (∀ (d a : Fin 8) (imm : BitVec 6), let ad := (wr w a + imm.signExtend 16).toNat
      (ad < 512 → WatchGives (.watchLd d a imm) (alu d (sGet 0 w.data ad) false) s
        ∧ WatchGives (.watchSt d a imm) { w with data := sPut 0 w.data ad (wr w d), pc := w.pc + 1 } s)
      ∧ (512 ≤ ad → ad ≠ 0xF0A0 → ∀ v, watchIo s.dev ad = some v → WatchGives (.watchLd d a imm) (alu d v false) s)
      ∧ (ad = 0xF0A0 → Gives (.watchLd d a imm) s fun t =>
          t.lmp.watch.stampLatch = s.dev.time.stampUs ∧ wr t.lmp.watch d = BitVec.ofNat 16 s.dev.time.stampUs.toNat)
      ∧ (512 ≤ ad → w.next = none → (watchIo s.dev ad = none → WatchFaults (.watchLd d a imm) 2 s) ∧ WatchFaults (.watchSt d a imm) 2 s))
    ∧ (∀ r ∈ branchRows, ∀ off : BitVec 9,
      (r.2 w = true → goes (r.1 off) (w.pc + 1 + off.toInt) w) ∧ (r.2 w = false → WatchGives (r.1 off) { w with pc := w.pc + 1 } s))
    ∧ (∀ off : BitVec 9, goes (.watchCall off) (w.pc + 1 + off.toInt) (wput 7 (BitVec.ofNat 16 (w.pc + 1)) w))
    ∧ (∀ (a : Fin 8) (z : BitVec 9), (z = 0 → goes (.watchJr a z) (wr w a).toNat w)
      ∧ (z ≠ 0 → w.next = none → WatchFaults (.watchJr a z) 1 s))

/-- R400, R413, R415, R417–R423. -/
def Obligations.WatchActions : Prop :=
  (∀ s : State, WatchReady s.dev →
    let w := s.dev.lmp.watch
    let next := { w with pc := w.pc + 1 }
    (∀ mask : BitVec 12, mask ≠ 0 → mask.toNat < 64 → w.next = none → (w.mode = 2 → w.stopAsked = false) →
      let m : BitVec 6 := mask.truncate 6
      (m &&& w.latched ≠ 0 → WatchGives (.watchWait mask)
        { w with pc := w.pc + 1, ended := m &&& w.latched, latched := w.latched &&& ~~~(m &&& w.latched) } s)
      ∧ (m &&& w.latched = 0 → WatchGives (.watchWait mask) { w with waiting := some m } s))
    ∧ (∀ (mask : BitVec 12), w.next = none → mask = 0 ∨ 64 ≤ mask.toNat → WatchFaults (.watchWait mask) 1 s)
    ∧ (∀ (r a : Fin 8), let ch := (wr w a).toNat % 32
      (s.dev.adc.urgent.length < 4 → Gives (.watchConv r a 0) s fun d => d.lmp.watch.conv = some r.val
        ∧ (s.dev.adc.cur ≠ none → d.adc.urgent = s.dev.adc.urgent ++ [(ch, .program)])
        ∧ (s.dev.adc.cur = none → s.dev.adc.urgent = [] → ∃ c, d.adc.cur = some c ∧ c.channel = ch ∧ c.urgent = some .program))
      ∧ (4 ≤ s.dev.adc.urgent.length → WatchGives (.watchConv r a 0) { w with conv := some r.val, convWait := some ch } s))
    ∧ (∀ a b : Fin 8, Gives (.watchNote a b 0) s fun d => d.lmp.watch = next ∧ d.lmp.noteCnt = s.dev.lmp.noteCnt + 1
        ∧ (d.lmp.notes.getLast?.map fun x => (x.stamp, x.code, x.value)) = some (if (wr w a).toNat < 0x100
            then (s.dev.time.stampUs, 8, BitVec.ofNat 32 ((wr w b).toNat + (wr w a).toNat * 65536))
            else (s.dev.time.stampUs, wr w a, (wr w b).zeroExtend 32)))
    ∧ (∀ a : Fin 8, let n := (wr w a).toNat
      n < 375 → ¬(345 ≤ n ∧ n < 349) → s.dev.pwr.mode = 3 → (getDom s.dev n).entry = none → (getDom s.dev n).wake = 0 →
      2 ≤ (getDom s.dev n).state → Gives (.watchWake a 0 0) s fun d =>
        d.lmp.watch = next ∧ (getDom d n).wake = 1 ∧ d.pwr.wakeSource = 3 ∧ d.pwr.wakeDom = n)
    ∧ (Gives (.limdn 0 0 0) s fun d => d.lmp.watch = next
        ∧ d.pwr.l = if powerRuns s.dev then max (s.dev.pwr.l - (s.dev.pwr.e : Rat) / 32) ((s.dev.pwr.e : Rat) / 4) else s.dev.pwr.l)
    ∧ (s.dev.pwr.halfUntil = none → Gives (.limup 0 0 0) s fun d => d.lmp.watch = next
        ∧ d.pwr.l = if powerRuns s.dev then max s.dev.pwr.l (min (s.dev.pwr.l + (s.dev.pwr.e : Rat) / 32) s.dev.pwr.e) else s.dev.pwr.l)
    ∧ (Gives (.watchTrip 0 0 0) s fun d => d.lmp.watch = next ∧ d.pwr.mode = 1 ∧ d.pwr.tripped = true ∧ d.pwr.tripUs = s.dev.time.stampUs)
    ∧ (s.dev.pwr.mode = 3 → Gives (.stby 0 0 0) s fun d => d.lmp.watch = next ∧ d.pwr.mode = 1)
    ∧ (s.dev.pwr.mode = 2 → Gives (.stby 0 0 0) s fun d => d.lmp.watch = next ∧ d.pwr.mode = 2 ∧ d.nor.standbyWaits = true)
    ∧ (∀ a b : Fin 8, Gives (.pwm a b 0) s fun d => d.lmp.watch = next
        ∧ dutyOf d ((wr w a).toNat % 2) = min 1024 (wr w b).toNat)
    ∧ (∀ a : Fin 8, WatchGives (.tmr a 0 0) { w with pc := w.pc + 1, timerMs := (wr w a).toNat } s)
    ∧ (s.dev.adc.mode = 0 → s.dev.adc.run = true → adcSafe s.dev = false → Gives (.actList 0 0 0) s fun d =>
        d.lmp.watch = next ∧ d.adc.passActive = true)
    ∧ (w.next = none → ∀ f ∈ ([.limdn, .limup, .watchTrip, .stby, .actList] : List (Fin 8 → Fin 8 → BitVec 2 → Instr)), ∀ (a b : Fin 8) (z : BitVec 2), ¬(a = 0 ∧ b = 0 ∧ z = 0) → WatchFaults (f a b z) 1 s)
    ∧ (w.next = none → WatchFaults .watchWatchdog 3 s))
  ∧ (∀ (s : State) (m : BitVec 6) (src : BitVec 6), s.dev.lmp.watch.waiting = some m →
    let w := s.dev.lmp.watch
    let e := m &&& (w.latched ||| src)
    (e = 0 → Gives (.watchWaitReturn src) s fun d => d = s.dev)
    ∧ (e ≠ 0 → WatchGives (.watchWaitReturn src) { w with pc := w.pc + 1, waiting := none, ended := e, latched := w.latched &&& ~~~e } s)
    ∧ (w.timerMs ≠ 0 → m.getLsbD 0 = true → WatchGives .watchTimer { w with latched := w.latched ||| 1 } s)
    ∧ Gives .watchWatchdog s (fun d => d = s.dev))
  ∧ (∀ s : State, s.dev.lmp.watch.timerMs = 0 → Gives .watchTimer s fun d => d = s.dev)
  ∧ (∀ s : State,
    let w := s.dev.lmp.watch
    (w.loaded = true → w.stopped = true → w.mode = 0 → Gives .progCtlStart s fun d =>
      d.lmp.watch.mode = 2 ∧ d.lmp.watch.pc = 0 ∧ d.lmp.watch.w = [] ∧ d.lmp.watch.data = [] ∧ d.lmp.watch.stopped = false
      ∧ d.lmp.watch.prog = w.prog)
    ∧ (w.loaded = true → w.stopped = true → w.mode ≠ 0 → WatchGives .progCtlStart { w with next := some (2, w.prog) } s)
    ∧ (w.loaded = false ∨ w.stopped = false → Gives .progCtlStart s fun d => d = s.dev)
    ∧ (w.mode = 2 → WatchGives .progCtlStop { w with stopAsked := true } s)
    ∧ (w.mode ≠ 2 → Gives .progCtlStop s fun d => d = s.dev))

/-- R359–R363: sessions. Hellos dropped silently in a lockout: the model's reading. -/
def Obligations.ManagementRecords : Prop :=
  (∀ (d : Dev) (n : Nat) (x : SessSt) (code : Nat) (id : W32) (st : W16) (final : Bool) (data : Bytes),
    getSess d n = some x → x.via_ = none →
    reply (some n) code id st final data d = { d with
      out := d.out ++ [.mgmt n code id st final data]
      sec := { d.sec with sessions := sSet d.sec.sessions n { x with
        tx := x.tx + 1, cmds := if final then x.cmds.filter fun c => c.id ≠ id else x.cmds } } })
  ∧ (∀ (mc : MgmtCmd) (code role : Nat) (need : Need) (argsOk : Bool) (act : Option Nat → Dev → Dev) (d : Dev) (n : Nat) (x : SessSt),
    mc.sid = some n → getSess d n = some x → x.established = true → x.target = none →
    let t := taken n x d
    let r := mgmtGate mc code role need argsOk act d
    (mc.tagOk = false ∨ mc.seq ≠ x.rx → getSess r n = none)
    ∧ (mc.tagOk = true → mc.seq = x.rx →
      (16 ≤ x.cmds.length → r = reply (some n) code mc.id 0xF004 true [] t)
      ∧ (x.cmds.length < 16 → role < x.role → Answers n code mc.id 0xF001 true [] t r))
    ∧ (Admitted { mc with clean := true } code role need d n x → mc.clean = false ∨ argsOk = false → r = reply (some n) code mc.id 0xF003 true [] t)
    ∧ (Admitted mc code role need d n x → argsOk = true → r = act (some n) t))
  ∧ (∀ (s : State) (n : Nat) (x : SessSt) (seq : W64) (tagOk : Bool), getSess s.dev n = some x → x.established = true → x.target = none →
    let t := taken n x s.dev
    let y : SessSt := { x with rx := x.rx + 1, lastUs := s.dev.time.stampUs }
    (tagOk = true → seq = x.rx → Gives (.keepAlive n seq tagOk) s fun d => d = t)
    ∧ (tagOk = false ∨ seq ≠ x.rx → Gives (.keepAlive n seq tagOk) s fun d => getSess d n = none)
    ∧ (Gives (.closeRec n seq tagOk) s fun d => getSess d n = none)
    ∧ (tagOk = true → seq = x.rx → ∀ (id : W32) (off : W64) (b : Bytes) (c : PendCmd),
      (x.cmds.find? fun c => c.id = id && decide (0 < c.len)) = some c →
      (off.toNat ≠ c.got.length → Gives (.dataRec n seq tagOk id off b) s fun d => d = reply (some n) c.code id 0xF003 true [] t)
      ∧ (off.toNat = c.got.length → c.got.length + b.length < c.len → Gives (.dataRec n seq tagOk id off b) s fun d =>
          getSess d n = some { y with cmds := x.cmds.map fun z => if z.id = id then { c with got := c.got ++ b } else z })
      ∧ (off.toNat = c.got.length → c.got.length + b.length = c.len → c.code = 0x15 → c.arg = 1 →
          Gives (.dataRec n seq tagOk id off b) s fun d =>
            d.num.policy.loaded = true ∧ d.num.policy.prog = c.got ++ b ∧ d.num.policy.disabled = false
            ∧ Answers n 0x15 c.id 0 true [] t d)))
  ∧ (∀ (s : State) (n : Nat) (x : SessSt), getSess s.dev n = some x →
    Gives (.sessionIdleTimeout n) s (fun d => getSess d n = none)
    ∧ (x.established = true → Gives (.sessionRekey n) s fun d => ∃ k, getSess d n = some { x with
        rekeys := x.rekeys + 1, keyUs := s.dev.time.stampUs, keys := k }))
  ∧ (∀ s : State, Gives .lockoutEnd s fun d => d = { s.dev with sec := { s.dev.sec with lockUntil := none } })
  ∧ (∀ (s : State) (conn : Nat) (p : Bytes), s.dev.sec.lockUntil ≠ none → Gives (.clientHello conn none p) s fun d => d = s.dev)
  ∧ (∀ (s : State) (conn : Nat) (p : Bytes) (e : EnrolEnt), sessionsOpen s.dev = true → s.dev.sec.lockUntil = none →
    fld p 1 1 = 0xFF → s.dev.sec.sessions.length < 8 → p.length = 100 → zeros p 2 2 = true →
    Config.pointOk ((p.drop 4).take 64) = true →
    (sFind s.dev.sec.enrol (fld p 0 1) = some e → Gives (.clientHello conn none p) s fun d => ∃ x : SessSt,
      getSess d s.dev.sec.nextSess.toNat = some x ∧ x.established = false ∧ x.idx = fld p 0 1 ∧ x.role = e.role ∧ x.key = e.key
      ∧ x.conn = conn ∧ d.sec.nextSess = s.dev.sec.nextSess + 1)
    ∧ (sFind s.dev.sec.enrol (fld p 0 1) = none → Gives (.clientHello conn none p) s fun d =>
      d.sec.sessions = s.dev.sec.sessions ∧ d.sec.nextSess = s.dev.sec.nextSess))
  ∧ (∀ (s : State) (n : Nat) (p : Bytes) (x : SessSt) (e : EnrolEnt), getSess s.dev n = some x → x.target = none → x.established = false →
    sFind s.dev.sec.enrol x.idx = some e → e.key = x.key →
    let good := p = padTo 32 (Config.kexOut 0 x.key x.hello x.answer s.dev.sec.seed 0)
    (good → Gives (.clientFinish n p) s fun d => ∃ y : SessSt, getSess d n = some y ∧ y.established = true ∧ y.rx = 2 ∧ y.role = x.role)
    ∧ (¬good → Gives (.clientFinish n p) s fun d => getSess d n = none))

/-- The table of R364 over its first families. -/
def Obligations.ManagementCommands : Prop :=
  ∀ (s : State) (mc : MgmtCmd) (n : Nat) (x : SessSt),
    let t := taken n x s.dev
    let y : SessSt := { x with rx := x.rx + 1, lastUs := s.dev.time.stampUs }
    let may := fun (code role : Nat) (need : Need) => Admitted mc code role need s.dev n x
    let ans := fun (code : Nat) (st : W16) (final : Bool) (data : Bytes) (e : Dev) => reply (some n) code mc.id st final data e
    (may 1 2 .lantern → ∀ off len : Nat, off % 4 = 0 → 4 ≤ len → len ≤ 16368 → len % 4 = 0 → notStarted s.dev off = false →
      Gives (.mgmtRead mc off len) s fun d => d = ans 1 0 true (readWords 0 true (len / 4) off t).1 (readWords 0 true (len / 4) off t).2)
    ∧ (may 2 1 .lantern → ∀ (off width : Nat) (v : W64), off % 4 = 0 → width = 4 ∨ width = 8 → notStarted s.dev off = false →
      Gives (.mgmtWrite mc off width v) s fun d => d = ans 2 0 true [] (regWrite 0 true off (decide (width = 8)) v t))
    ∧ (may 3 2 .hub → ∀ first count : Nat, 1 ≤ count → count ≤ 511 → Gives (.readLog mc first count) s fun d =>
      let base := s.dev.log.count.toNat - s.dev.log.recs.length
      d = ans 3 0 true (((s.dev.log.recs.drop (first - base)).take (first + count - max first base)).flatMap eventBytes) t)
    ∧ (may 0x10 1 .serving → ∀ p : Bytes, p.length = 96 →
      (∀ g : GenSt, let m : W16 := BitVec.ofNat 16 (fld p 0 2)
        let v : W16 := BitVec.ofNat 16 (fld p 2 2)
        zeros p 4 92 = true → getGen s.dev m v = some g → g.state = 2 → Gives (.modelCommand mc 2 p) s fun d =>
          getGen d m v = some { g with held := false } ∧ d.plc.cmds = s.dev.plc.cmds ++ [⟨.mgmt n mc.id, 2, m, v⟩]
          ∧ ∃ e, d = ans 0x10 1 false [] e)
      ∧ (zeros p 2 94 = true → loadOf s.dev (BitVec.ofNat 16 (fld p 0 2)) = none → Gives (.modelCommand mc 5 p) s fun d =>
          d.plc = s.dev.plc ∧ ∃ data e, d = ans 0x10 0 true data e))
    ∧ (may 0x11 1 .serving → ∀ (fn : FnIx) (tag : W32) (i : Nat) (c : CtxSt), getCtx s.dev i = some c → c.fn = fn.val → c.tag = tag →
      1 ≤ c.state → c.state ≤ 5 → isGuest s.dev i = false → Gives (.cancelRequest mc fn tag) s fun d =>
        getCtx d i = some { c with cancelled := true })
    ∧ (may 0x12 1 .serving → ∀ (v : W16) (e : Bytes), variantOk e = true → Gives (.writeVariant mc v e) s fun d =>
      d = ans 0x12 0 true [] { t with srv := { t.srv with
        variants := if zeros e 0 16 then sDel t.srv.variants v.toNat else sSet t.srv.variants v.toNat e } })
    ∧ (may 0x13 2 .serving → ∀ v : W16, Gives (.readVariant mc v) s fun d =>
      d = ans 0x13 0 true (padTo 16 ((sFind s.dev.srv.variants v.toNat).getD [])) t)
    ∧ (may 0x14 1 .serving → ∀ (i : W32) (m : Fin 64) (c : CtxSt), i.toNat < 1048576 → getCtx s.dev i.toNat = some c → isLead c = true →
      migrating s.dev i.toNat = false → isGuest s.dev i.toNat = false → m.val ≠ selfMember s.dev →
      (c.state = 4 → x.via_ = none → inView s.dev m = true → firstHop s.dev true m ≠ none → Gives (.migrate mc i m) s fun d =>
        (∃ g ∈ d.fab.migrs, g.ctx = i.toNat ∧ g.target = m.val ∧ g.admitted = false) ∧ d.srv = s.dev.srv)
      ∧ (c.state ≠ 4 → Gives (.migrate mc i m) s fun d => d = ans 0x14 0xF005 true [] t))
    ∧ (may 0x15 1 .serving → ∀ kind len : Nat, 1 ≤ kind → kind ≤ 2 → 0 < len → len < 2 ^ 32 → Gives (.loadPolicyProgram mc kind len) s fun d =>
      getSess d n = some { y with cmds := x.cmds ++ [{ id := mc.id, code := 0x15, len := len, arg := kind }] })
    ∧ (may 0x16 1 .serving → Gives (.unloadPolicyProgram mc 1) s fun d =>
      d.num.policy.loaded = false ∧ d.num.policy.prog = [] ∧ d.num.policy.queue = [] ∧ d.srv = s.dev.srv)
    ∧ (may 0x20 1 .serving → ∀ (len : Nat) (ok : Bool), 0 < len → len < 2 ^ 32 → Gives (.reconfigure mc len ok) s fun d =>
      getSess d n = some { y with cmds := x.cmds ++ [{ id := mc.id, code := 0x20, len := len, flag := ok }] })
    ∧ (may 0x21 1 .lantern → ∀ force : Bool,
      (s.dev.pwr.mode = 3 → liveCtx s.dev = false ∨ force = true → Gives (.standby mc force) s fun d =>
        d.pwr.mode = 1 ∧ d.srv.ctxs = [] ∧ (∀ k, getCore d k = {}) ∧ Answers n 0x21 mc.id 0 true [] t d)
      ∧ (s.dev.pwr.mode = 3 → liveCtx s.dev = true → force = false → Gives (.standby mc force) s fun d => d = ans 0x21 0xF005 true [] t)
      ∧ (s.dev.pwr.mode = 2 → Gives (.standby mc force) s fun d => d.nor.standbyWaits = true ∧ d.pwr = s.dev.pwr))
    ∧ (may 0x22 1 .lantern → s.dev.pwr.mode = 3 → ∀ dom : DomIx, ¬(345 ≤ dom.val ∧ dom.val < 349) → (getDom s.dev dom).entry = none →
      (getDom s.dev dom).wake = 0 → 2 ≤ (getDom s.dev dom).state → Gives (.wakeCmd mc dom) s fun d =>
        (getDom d dom).wake = 1 ∧ d.pwr.wakeSource = 6 ∧ Answers n 0x22 mc.id 0 true [] t d)
    ∧ (may 0x40 1 .lantern → ∀ p : List W16, 1 ≤ p.length → p.length ≤ 4096 →
      (watchBad p = none → s.dev.lmp.watch.mode ≠ 0 → Gives (.loadWatchProgram mc p.length p) s fun d =>
        d.lmp.watch = { s.dev.lmp.watch with next := some (1, p) } ∧ Answers n 0x40 mc.id 0 true [] t d)
      ∧ (watchBad p = none → s.dev.lmp.watch.mode = 0 → Gives (.loadWatchProgram mc p.length p) s fun d =>
        d.lmp.watch.mode = 2 ∧ d.lmp.watch.prog = p ∧ d.lmp.watch.pc = 0 ∧ d.lmp.watch.loaded = true)
      ∧ (watchBad p ≠ none → Gives (.loadWatchProgram mc p.length p) s fun d =>
        d.lmp.watch = s.dev.lmp.watch ∧ d.lmp.noteCnt = s.dev.lmp.noteCnt + 1 ∧ Answers n 0x40 mc.id 0xF005 true [] t d))
    ∧ (may 0x41 1 .lantern → s.dev.lmp.watch.mode = 2 → Gives (.stopWatchProgram mc) s fun d =>
      d.lmp.watch = { s.dev.lmp.watch with stopAsked := true } ∧ Answers n 0x41 mc.id 0 true [] t d)
    ∧ (may 0x42 1 .lantern → s.dev.lmp.watch.loaded = true → s.dev.lmp.watch.stopped = true → s.dev.lmp.watch.mode ≠ 0 →
      Gives (.startWatchProgram mc) s fun d =>
        d.lmp.watch = { s.dev.lmp.watch with next := some (2, s.dev.lmp.watch.prog) } ∧ Answers n 0x42 mc.id 0 true [] t d)

/-- R365, R366, R378, R379 and R464.
R375 and R378: counterPublish. -/
def Obligations.TenantSlots : Prop :=
  ((∀ (s : State) (mc : MgmtCmd) (n : Nat) (x : SessSt) (slot : Fin 64) (blob : Bytes), slot ≠ 0 → 16 ≤ auditFree s.dev →
     Admitted mc 0x60 0 .lantern s.dev n x →
     (slotState s.dev slot = 0 → s.dev.sec.lifecycle = 1 ∨ s.dev.sec.lifecycle = 2 → Gives (.assignTenant mc slot 0 blob) s fun d =>
       slotState d slot = 1 ∧ (∃ k, sFind d.sec.keys slot = some k) ∧ (getFn d slot).ready = decide (s.dev.pwr.mode = 3)
       ∧ (∀ j : Nat, j ≠ slot.val → slotState d j = slotState s.dev j) ∧ ∃ data, Answers n 0x60 mc.id 0 true data (taken n x s.dev) d)
     ∧ (slotState s.dev slot ≠ 0 → Gives (.assignTenant mc slot 0 blob) s fun d =>
       d.sec.slots = s.dev.sec.slots ∧ d.sec.keys = s.dev.sec.keys ∧ Answers n 0x60 mc.id 0xF005 true [] (taken n x s.dev) d))
   ∧ (∀ (s : State) (mc : MgmtCmd) (n : Nat) (x : SessSt) (slot : Fin 64), 16 ≤ auditFree s.dev → Admitted mc 0x61 0 .lantern s.dev n x →
     (slot ≠ 0 → slotState s.dev slot = 1 → Gives (.releaseTenant mc slot) s fun d =>
       slotState d slot = 2 ∧ d.sec.marks = s.dev.sec.marks ++ [slot.val] ∧ ∃ e ∈ d.sec.scrubs, e.slot = slot.val ∧ e.step = 1)
     ∧ (slot = 0 ∨ slotState s.dev slot ≠ 1 → Gives (.releaseTenant mc slot) s fun d =>
       d.sec.slots = s.dev.sec.slots ∧ d.sec.marks = s.dev.sec.marks ∧ Answers n 0x61 mc.id 0xF005 true [] (taken n x s.dev) d))
   ∧ (∀ (s : State) (slot : FnIx) (c : ScrubSt), s.dev.pwr.mode = 3 → (s.dev.sec.scrubs.find? fun e => e.slot = slot.val) = some c →
     let at_ := fun (d : Dev) => d.sec.scrubs.find? fun e => e.slot = slot.val
     (c.step = 1 → tenantBusy s.dev slot = true → Gives (.scrubStepComplete slot) s fun d => d = s.dev)
     ∧ (c.step = 1 → tenantBusy s.dev slot = false → Gives (.scrubStepComplete slot) s fun d =>
       at_ d = some { c with fenced := true, step := if c.waits then 1 else 2 })
     ∧ (c.step = 2 → Gives (.scrubStepComplete slot) s fun d =>
       at_ d = some { c with step := 3 } ∧ sFind d.sec.keys slot = none ∧ ∀ j : Nat, j ≠ slot.val → sFind d.sec.keys j = sFind s.dev.sec.keys j)
     ∧ (c.step = 3 → Gives (.scrubStepComplete slot) s fun d =>
       ∀ a : Nat, sGet 0 d.hbm a = if a / 2 ^ 48 = slot.val then 0 else sGet 0 s.dev.hbm a)
     ∧ (c.step = 4 → tenantPlanes s.dev slot = [] → (∀ p ∈ c.shared, sFind s.dev.arr.refreshes p = none) →
       Gives (.scrubStepComplete slot) s fun d => (at_ d).map (·.step) = some 5)
     ∧ (c.step = 5 → slot ≠ 0 → Gives (.scrubStepComplete slot) s fun d =>
       at_ d = some { c with step := 6 } ∧ ∀ p ∈ d.grid.cores, p.2.tenant.toNat ≠ slot.val ∧ (p ∈ s.dev.grid.cores
         ∨ (∃ k, (p.1, k) ∈ s.dev.grid.cores ∧ k.tenant.toNat = slot.val) ∧ p.2.s = [] ∧ p.2.v = [] ∧ p.2.p = [] ∧ p.2.acc = []
             ∧ p.2.ctx = [] ∧ ∀ b ∈ p.2.sram, b.1 < sramLo))
     ∧ (6 ≤ c.step → slot ≠ 0 → Gives (.scrubStepComplete slot) s fun d =>
       slotState d slot = 0 ∧ d.sec.marks = s.dev.sec.marks.erase slot.val ∧ (getFn d slot).evtWcnt = 0 ∧ (getFn d slot).evtRcnt = 0
       ∧ (getFn d slot).evtRecs = [] ∧ (getFn d slot).ready = false ∧ ∀ e ∈ d.sec.scrubs, e.slot ≠ slot.val))
   ∧ (∀ (s : State) (v : W32), Gives (.secSlotQuery v) s fun d =>
     d = { s.dev with sec := { s.dev.sec with query := v.truncate 6, queryValid := true } }))
  ∧ (∀ s : State, Gives .counterPublish s fun d =>
     d.srv.tok100 = [] ∧ ∀ fn : FnIx,
       ((∃ t ∈ s.dev.sec.marks, t ≠ fn.val) → getFn d fn = getFn s.dev fn)
       ∧ ((∀ t ∈ s.dev.sec.marks, t = fn.val) →
           (getFn d fn).pubCtx = BitVec.ofNat 21 (blurred (tenantCtx s.dev fn))
           ∧ (getFn d fn).pubTokens = BitVec.ofNat 32 (blurred (sGet 0 s.dev.srv.tok100 fn))))

/-- R355, R361, R370–R374: with 16 audit records free where the command is recorded. -/
def Obligations.KeysAndAudit : Prop :=
  (∀ (s : State) (mc : MgmtCmd) (n : Nat) (x : SessSt),
    let t := taken n x s.dev
    let may := fun (code role : Nat) => Admitted mc code role .lantern s.dev n x
    let room := 16 ≤ auditFree s.dev
    (may 0x70 0 → room → ∀ (idx role : Nat) (key label : Bytes), idx ≤ 7 → role ≤ 2 → key.length = 64 → label.length = 16 →
      let m := sSet s.dev.sec.enrol idx ⟨key, role, label⟩
      (adminLeft m = true → Gives (.addKey mc idx role key label) s fun d => d.sec.enrol = m)
      ∧ (adminLeft m = false → Gives (.addKey mc idx role key label) s fun d =>
        d.sec.enrol = s.dev.sec.enrol ∧ Answers n 0x70 mc.id 0xF005 true [] t d))
    ∧ (may 0x71 0 → room → ∀ idx : Nat, idx ≤ 7 →
      (sFind s.dev.sec.enrol idx ≠ none → adminLeft (sDel s.dev.sec.enrol idx) = true → Gives (.removeKey mc idx) s fun d =>
        d.sec.enrol = sDel s.dev.sec.enrol idx)
      ∧ (sFind s.dev.sec.enrol idx ≠ none → adminLeft (sDel s.dev.sec.enrol idx) = false → Gives (.removeKey mc idx) s fun d =>
        d.sec.enrol = s.dev.sec.enrol ∧ Answers n 0x71 mc.id 0xF005 true [] t d)
      ∧ (sFind s.dev.sec.enrol idx = none → Gives (.removeKey mc idx) s fun d => d = reply (some n) 0x71 mc.id 0xF003 true [] t))
    ∧ (may 0x72 0 → room → ∀ (idx role : Nat) (e : EnrolEnt), idx ≤ 7 → role ≤ 2 → sFind s.dev.sec.enrol idx = some e →
      let m := sSet s.dev.sec.enrol idx { e with role := role }
      (adminLeft m = true → Gives (.changeRole mc idx role) s fun d => d.sec.enrol = m)
      ∧ (adminLeft m = false → Gives (.changeRole mc idx role) s fun d => d.sec.enrol = s.dev.sec.enrol))
    ∧ (may 0x73 2 → Gives (.readEnrolment mc) s fun d => d = reply (some n) 0x73 mc.id 0 true (enrolBytes s.dev) t)
    ∧ (may 0x62 2 → ∀ first count : Nat, 1 ≤ count → count ≤ 127 → Gives (.readAudit mc first count) s fun d =>
      d = reply (some n) 0x62 mc.id 0 true ((s.dev.sec.audit.drop (first - auditFirst s.dev)).take count).flatten t)
    ∧ (may 0x63 1 → ∀ seq : W64, Gives (.acknowledgeAudit mc seq) s fun d =>
      d = reply (some n) 0x63 mc.id 0 true [] { t with sec := { t.sec with audit := s.dev.sec.audit.drop (seq.toNat + 1 - auditFirst s.dev) } })
    ∧ (may 0x80 0 → ∀ action : W8, Gives (.requestNonce mc action) s fun d => ∃ v : Bytes, v.length = 32
      ∧ d.sec.nonces = s.dev.sec.nonces ++ [⟨v, action.toNat, s.dev.time.stampUs⟩] ∧ Answers n 0x80 mc.id 0 true v t d)
    ∧ (may 0x81 0 → room → ∀ auth : Bytes, auth.length = 64 →
      (s.dev.sec.lifecycle = 1 → Gives (.lifecycle mc 2 auth) s fun d => d.sec.lifecycle = 2 ∧ Answers n 0x81 mc.id 0 true [] t d)
      ∧ (s.dev.sec.lifecycle ≠ 1 → Gives (.lifecycle mc 2 auth) s fun d =>
        d.sec.lifecycle = s.dev.sec.lifecycle ∧ Answers n 0x81 mc.id 0xF005 true [] t d))
    ∧ (may 0x91 2 → ∀ which : Nat, which ≤ 3 →
      (s.dev.sec.lifecycle = 0 → Gives (.readCertificate mc which) s fun d => d = reply (some n) 0x91 mc.id 0xF005 true [] t)
      ∧ (s.dev.sec.lifecycle ≠ 0 → x.via_ = none → Gives (.readCertificate mc which) s fun d =>
        (∃ part, .mgmt n 0x91 mc.id 0 true part ∈ d.out) ∧ s.dev.out <+: d.out))
    ∧ (∀ (level : Nat) (scope : List W32) (auth : Bytes), scope.length ≤ 16 → scope.all unitOk = true →
      (1 ≤ level → level ≤ 2 → may 0x50 1 → 64 ≤ auditFree s.dev → s.dev.sec.debugs.length < 4 → Gives (.debugOpen mc level scope auth) s fun d =>
        d.sec.attached = true ∧ ∃ g : DbgSt, d.sec.debugs = s.dev.sec.debugs ++ [g] ∧ g.level = level ∧ g.num = s.dev.sec.nextDbg
          ∧ g.sid = some n ∧ g.scope = if scope = [] then [uDevice] else scope)
      ∧ (level = 3 → may 0x50 0 → s.dev.sec.lifecycle = 2 → Gives (.debugOpen mc level scope auth) s fun d =>
        d.sec.debugs = s.dev.sec.debugs ∧ Answers n 0x50 mc.id 0xF005 true [] t d))
    ∧ (may 0x51 1 → ∀ (num : W32),
      (∀ g, (s.dev.sec.debugs.find? fun z => z.num = num) = some g → 9 < auditFree s.dev → Gives (.debugClose mc num) s fun d =>
        d.sec.debugs = s.dev.sec.debugs.erase g ∧ d.sec.closedUs = s.dev.time.stampUs ∧ Answers n 0x51 mc.id 0 true [] t d)
      ∧ ((s.dev.sec.debugs.find? fun z => z.num = num) = none → Gives (.debugClose mc num) s fun d =>
        d = reply (some n) 0x51 mc.id 0xF003 true [] t))
    ∧ (Admitted mc 0x52 1 .hub s.dev n x → ∀ (num u : W32) (pos : Nat) (cells : Bytes), unitOk u = true → bits u.toNat 28 4 = 1 → pos < 4 →
      (readbackFor s.dev num u ≠ none → (getDom s.dev (349 + pkDie (u.toNat % 2 ^ 28))).state < 2 → 9 < auditFree s.dev → x.via_ = none →
        Gives (.planeReadback mc num u pos cells) s fun d =>
          d.sec.audit.length = s.dev.sec.audit.length + 1 ∧ .mgmt n 0x52 mc.id 0 true ((padTo 33280 cells).drop 32736) ∈ d.out)
      ∧ (readbackFor s.dev num u = none → Gives (.planeReadback mc num u pos cells) s fun d => d = reply (some n) 0x52 mc.id 0xF005 true [] t)))
  ∧ (∀ s : State,
    (s.dev.sec.debugs = [] → 1000000 ≤ (s.dev.time.stampUs - s.dev.sec.closedUs).toNat → Gives .debugAttachedClear s fun d =>
      d = { s.dev with sec := { s.dev.sec with attached := false } })
    ∧ (s.dev.sec.debugs ≠ [] ∨ (s.dev.time.stampUs - s.dev.sec.closedUs).toNat < 1000000 → Gives .debugAttachedClear s fun d => d = s.dev))
  ∧ (∀ (s : State) (v : W64), fnPresent s.dev 0 = true →
    (s.dev.sec.mboxStat ≠ 3 → Gives (.secMboxWrite v) s fun d => d.sec.mboxStat = 3 ∧ d.sec.mbox = [] ∧ d.sec.mboxNonce.length = 32)
    ∧ (s.dev.sec.mboxStat = 3 → s.dev.sec.mbox.length + 8 < 64 → Gives (.secMboxWrite v) s fun d =>
      d = { s.dev with sec := { s.dev.sec with mbox := s.dev.sec.mbox ++ toLe 8 v.toNat } }))
  ∧ (∀ (s : State) (cert : Bytes),
    (s.dev.pwr.mode ≠ 0 → s.dev.sec.lifecycle = 0 → Gives (.provision cert) s fun d =>
      d.sec.lifecycle = 1 ∧ d.sec.cert = cert ∧ d.sec.seed.length = 32)
    ∧ (s.dev.pwr.mode ≠ 0 → s.dev.sec.lifecycle ≠ 0 → Gives (.provision cert) s fun d =>
      d.sec.lifecycle = s.dev.sec.lifecycle ∧ d.sec.seed = s.dev.sec.seed ∧ d.sec.cert = s.dev.sec.cert))

/-- R357 and R358; the layout of the messages is log entry 32's. -/
def Obligations.Attestation : Prop :=
  (∀ (s : State) (via : SpdmVia) (msg : Bytes), attests s.dev = true → (via = .doe → fnPresent s.dev 0 = true) → 4 ≤ msg.length →
    let key := match via with
      | .doe => 0
      | .smbus => 1
    let o := fun (b : Bytes) => match via with
      | .doe => Output.spdm 0 b
      | .smbus => Output.smbus b
    let was := sGet {} s.dev.sec.spdm key
    let rows : List (Nat × Nat × Nat × (SpdmVia → Bytes → Instr)) :=
      [(0xE1, 1, 2, .getCapabilities), (0xE3, 2, 3, .negotiateAlgorithms), (0x81, 3, 3, .getDigests), (0x82, 3, 3, .getCertificate),
       (0x83, 3, 3, .challenge), (0xE0, 3, 3, .getMeasurements)]
    (fld msg 1 1 = 0x84 → Gives (.getVersion via msg) s fun d =>
      d.out = s.dev.out ++ [o [0x10, 0x04, 0, 0, 0, 1, 0x00, 0x12]] ∧ (sGet {} d.sec.spdm key).stage = 1
      ∧ (sGet {} d.sec.spdm key).log = msg ++ [0x10, 0x04, 0, 0, 0, 1, 0x00, 0x12])
    ∧ (∀ r ∈ rows, fld msg 1 1 = r.1 → was.stage < r.2.1 → Gives (r.2.2.2 via msg) s fun d =>
      d = { s.dev with out := s.dev.out ++ [o [0x12, 0x7F, 4, 0]] })
    ∧ (∀ r ∈ rows, fld msg 1 1 = r.1 → r.2.1 ≤ was.stage → (r.1 = 0x82 ∨ r.1 = 0x83 → fld msg 2 1 = 0) →
      (r.1 = 0x82 → fld msg 4 2 < (slotChain s.dev).length) → (r.1 = 0xE0 → fld msg 3 1 ≤ 13 ∨ fld msg 3 1 = 0xFF) →
      Gives (r.2.2.2 via msg) s fun d => ∃ resp : Bytes, d.out = s.dev.out ++ [o resp] ∧ (sGet {} d.sec.spdm key).stage = r.2.2.1
        ∧ (sGet {} d.sec.spdm key).log = was.log ++ msg ++ resp
        ∧ (r.1 = 0x81 → resp = [0x12, 0x01, 0, 1] ++ sm3 (slotChain s.dev))
        ∧ (r.1 = 0x82 → resp.drop 8 = ((slotChain s.dev).drop (fld msg 4 2)).take (fld msg 6 2))
        ∧ (r.1 = 0xE0 → fld msg 3 1 = 0 → resp.take 5 = [0x12, 0x60, 13, 0, 0]))
    ∧ (fld msg 1 1 ≠ 0x84 → Gives (.getVersion via msg) s fun d => ∃ c : W8, d.out = s.dev.out ++ [o [0x12, 0x7F, 7, c]]))
  ∧ (∀ (s : State) (mc : MgmtCmd) (n : Nat) (x : SessSt) (msg : Bytes), Admitted mc 0x90 2 .lantern s.dev n x → 4 ≤ msg.length →
    (attests s.dev = true → fld msg 1 1 = 0x84 → Gives (.spdm mc msg) s fun d => (sGet {} d.sec.spdm (2 + n)).stage = 1)
    ∧ (attests s.dev = false → Gives (.spdm mc msg) s fun d => d = reply (some n) 0x90 mc.id 0xF005 true [] (taken n x s.dev)))

/-- R173, R86, R125, R127, R130, R143, R147, R174, R83, R87. -/
def Obligations.ArrayCalls : Prop :=
  (∀ (s : State) (k : CoreIx) (t : W32) (cc : CoreCall), ((getCore s.dev k).calls.find? fun x => x.ticket == t) = some cc →
    findCall s.dev k t = none →
    let b := cc.desc
    let h := getHandle s.dev (fld b 0 4 % 2 ^ 20)
    let code := acceptCheck s.dev (getCore s.dev k).tenant.toNat b
    (code ≠ 0 → Gives (.arrayCallAccept k t) s fun d =>
      getCore d k = addTrace s.dev 4 { putLocal (fld b 28 4) (toLe 8 (9 + code * 2 ^ 16)) (getCore s.dev k) with
        calls := (getCore s.dev k).calls.filter fun x => x.ticket ≠ t }
      ∧ OnlyCore k { s.dev with grid := { s.dev.grid with refused := s.dev.grid.refused
        ++ if code = 0x3001 then [] else (coreCtxs s.dev k).map fun i => (i, BitVec.ofNat 16 code) } } d)
    ∧ (code = 0 → fullDies s.dev h (fld b 24 2) (fld b 26 2) ≠ [] → Gives (.arrayCallAccept k t) s fun d =>
      (∀ die ∈ fullDies s.dev h (fld b 24 2) (fld b 26 2), (getDie d die).stalled = true)
      ∧ d.arr.calls = s.dev.arr.calls ∧ getCore d k = getCore s.dev k)
    ∧ (code = 0 → fullDies s.dev h (fld b 24 2) (fld b 26 2) = [] → needsBuffer s.dev h (fld b 24 2) (fld b 26 2) = true →
      Gives (.arrayCallAccept k t) s fun d =>
        (∀ die ∈ diesNeeded h (fld b 24 2) (fld b 26 2), 1024 ≤ (getDie s.dev die).buffers → (getDie d die).waited = true)
        ∧ d.arr.calls = s.dev.arr.calls ∧ getCore d k = getCore s.dev k)
    ∧ (code = 0 → fullDies s.dev h (fld b 24 2) (fld b 26 2) = [] → needsBuffer s.dev h (fld b 24 2) (fld b 26 2) = false → Gives (.arrayCallAccept k t) s fun d =>
      ∃ a : ArrCall, findCall d k t = some a ∧ a.handle = BitVec.ofNat 32 (fld b 0 4) ∧ a.groups = fld b 4 2
      ∧ a.dest = fld b 20 4 ∧ a.status = fld b 28 4 ∧ a.firstSlab = fld b 24 2 ∧ a.slabs = fld b 26 2
      ∧ a.list = (if h.listSel then h.list1 else h.list0) ∧ a.passes = 0))
  ∧ (∀ (s : State) (n : DieIx),
    (Gives (.trafficQueueRoom n) s fun d => (getDie d n).stalled = true →
      8192 ≤ (getDie d n).trafficQ.length ∧ (newCallWaits d n = true ∨ ∃ c ∈ d.arr.calls, c.unstaged = false ∧ ∃ p ∈ c.waiting, pkDie p.plane = n.val))
    ∧ (∀ (c : ArrCall) (p : PassDesc), s.dev.arr.calls = [c] → c.waiting = [p] → c.unstaged = false → p.refire = false →
      domHolds s.dev (349 + pkDie p.plane) = false → firesTraffic s.dev p.plane = true → (getDie s.dev (pkDie p.plane)).trafficQ.length < 8192 →
      (getDie s.dev (pkDie p.plane)).buffers < 1024 → Gives (.trafficQueueRoom n) s fun d =>
        (getDie d (pkDie p.plane)).trafficQ = (getDie s.dev (pkDie p.plane)).trafficQ ++ [p] ∧ ∀ a ∈ d.arr.calls, a.waiting = [])
    ∧ ((getDie s.dev n).stalled = true → (getDie s.dev n).stallTold = false → Gives (.trafficStallTimeout n) s fun d =>
      Raised 0x3007 (setDie n { getDie s.dev n with stallTold := true } s.dev) d)
    ∧ ((getDie s.dev n).stalled = false ∨ (getDie s.dev n).stallTold = true → Gives (.trafficStallTimeout n) s fun d => d = s.dev)
    ∧ (∀ (j : Nat) (c : ArrCall) (b : TotalBuf),
      (s.dev.arr.calls.flatMap fun c => (c.bufs.filter fun b => decide (b.die = n.val) && bufReady c b).map fun b => (c, b))[j]? = some (c, b) →
      Gives (.dieTotalsSend n j) s fun d => ∃ a : ArrCall, findCall d c.core c.ticket = some a
        ∧ a.hub = addTotals c.hub (b.totals.map fun x => ((b.slab - c.firstSlab) * 512 + x.1, x.2.toNat)))
    ∧ (Gives .shareRecompute s fun d =>
      let sh := shares s.dev.arr.budget ((List.range 16).map (demand s.dev))
      (∀ m : DieIx, getDie d m = { getDie s.dev m with share := sh.getD m.val 0 })
      ∧ d = { s.dev with arr := { s.dev.arr with dies := d.arr.dies } })
    ∧ ∀ unit : W32, Gives (.tilQuery unit) s fun d =>
      d = { s.dev with arr := { s.dev.arr with query := unit, queryValid := true } })
  ∧ (∀ (s : State) (k : CoreIx) (t : W32) (c : ArrCall), findCall s.dev k t = some c →
    let h := getHandle s.dev (c.handle.toNat % 2 ^ 20)
    (c.unstaged = true → c.told = false → Gives (.outlierStageWaitTimeout k t) s fun d => ∃ p,
      d = raiseNum ⟨0x2006, 0, 0⟩ 1 c.tenant (uCore k) p (setCall { c with told := true } s.dev))
    ∧ (c.unstaged = false ∨ c.told = true → Gives (.outlierStageWaitTimeout k t) s fun d => d = s.dev)
    ∧ (∀ (slab : Nat) (x : DigitalDue) (rest : List DigitalDue),
      takeFirst (fun x : DigitalDue => x.outlier && decide (x.slab = slab)) c.due = some (x, rest) →
      let i := c.handle.toNat % 2 ^ 20
      -- the slab's copies are staged by now
      let e := if h.staged.contains slab then s.dev else stageSlab i slab s.dev
      let bad := outlierBad (getHandle e i) slab (colsOf h slab)
      (bad = 0 → Gives (.outlierPartial k t slab) s fun d => ∃ a : ArrCall, findCall d k t = some a ∧ rest <+: a.due
        ∧ a.unstaged = (c.unstaged && slabsUnstaged (getHandle e i) c.firstSlab c.slabs)
        ∧ a.hub = addTotals c.hub ((List.range (colsOf h slab)).map fun col =>
            ((slab - c.firstSlab) * 512 + col, outlierCol e c (getHandle e i) slab col))
        ∧ (getHandle d i).staged.contains slab = true ∧ d.num.tallies = s.dev.num.tallies)
      ∧ (bad ≠ 0 → Gives (.outlierPartial k t slab) s fun d =>
        d.num.tallies = sSet s.dev.num.tallies c.key (tallyAdd (tallyOf s.dev c.key) 0 0 0 0 0 0 0 0 0 bad)))
    ∧ (∀ (seg : Nat) (x : DigitalDue) (rest : List DigitalDue),
      takeFirst (fun x : DigitalDue => !x.outlier && decide (x.seg = seg)) c.due = some (x, rest) →
      let c1 : ArrCall := { c with
        due := rest
        hub := addTotals c.hub ((List.range (colsOf h (seg % max 1 h.colSlabs))).map fun col =>
          ((seg % max 1 h.colSlabs - c.firstSlab) * 512 + col,
            digitalCol x.mask x.res c h (seg / max 1 h.colSlabs) (seg % max 1 h.colSlabs) col)) }
      Gives (.digitalEntryProduct k t seg) s fun d => findCall d k t = some c1
        ∧ ((∀ n ∈ h.digBad, n / 131072 ≠ seg) → d = setCall c1 s.dev))
    ∧ (∀ (seg : Nat) (us : W32) (x : HeldSeg) (rest : List HeldSeg),
      takeFirst (fun x : HeldSeg => decide (x.seg = seg)) c.holds = some (x, rest) →
      let late := match x.refreshHold with
        | some since => since + 45000 ≤ s.dev.time.stampUs.toNat
        | none => 2000 ≤ us.toNat
      (late → Gives (.replacementHoldTimeout k t seg us) s fun d =>
        Raised 0x3006 (setCall { c with holds := rest, fault := true } s.dev) d)
      ∧ (¬late → Gives (.replacementHoldTimeout k t seg us) s fun d => d = s.dev))
    ∧ (callFinished c = true → Gives (.arrayCallComplete k t) s fun d =>
      let word := toLe 8 (1 + b2n c.fault * 2 + b2n c.nonFinite * 4 + min c.passes (2 ^ 32 - 1) * 2 ^ 32)
      let n := slabCols h c.firstSlab c.slabs
      findCall d k t = none
      ∧ ∀ a : Nat, byteOf d k a =
          if c.status ≤ a ∧ a < c.status + 8 then word.getD (a - c.status) 0
          else if c.fault = false ∧ c.dest ≤ a ∧ a < c.dest + 4 * n then
            (toLe 4 (if c.nonFinite then fp32.nan else (sGet 0 c.hub ((a - c.dest) / 4)).toNat)).getD ((a - c.dest) % 4) 0
          else byteOf s.dev k a)
    ∧ (callFinished c = false → Gives (.arrayCallComplete k t) s fun d => ∀ a : Nat, byteOf d k a = byteOf s.dev k a))

/-- R69–R71, R76–R78, R85, R103, R118, R141. A new program step is not withdrawn by reliability meanwhile (NoneTaken). -/
def Obligations.ArrayPasses : Prop :=
  (∀ (s : State) (n : DieIx), let x := getDie s.dev n
    (x.lock = false ∨ x.held = true ∨ x.retired = true → Gives (.dieSlot n) s fun d =>
      (getDie d n).running = x.running ∧ (getDie d n).slotNo = x.slotNo ∧ d.arr.passCnt = s.dev.arr.passCnt)
    ∧ (∀ p : PassDesc, x.lock = true → x.held = false → x.retired = false → x.checking = false → x.refireQ = [] → x.maintQ = [] →
      x.maintWait = [] → x.trafficQ = [p] → x.programming = [] → 0 < x.share → firesTraffic s.dev p.plane = true →
      Gives (.dieSlot n) s fun d =>
        (getDie d n).trafficQ = [] ∧ (getDie d n).slotNo = x.slotNo + 1
        ∧ (getDie d n).running = x.running ++ [{ desc := p, corr := (getPlane s.dev p.plane).corr
                                                 tile := getTile s.dev (tileKey p.plane), comp := (getPlane s.dev p.plane).comp
                                                 slot := x.slotNo + 1, unlocked := false }]
        ∧ d.arr.passCnt = s.dev.arr.passCnt + 1
        ∧ ∀ c : ArrCall, findCall s.dev p.core p.ticket = some c → findCall d p.core p.ticket = some { c with passes := c.passes + 1 })
    ∧ (∀ (m : PassMeas) (r : RunPass) (rest : List RunPass), x.checking = false →
      takeFirst (fun r : RunPass => decide (pkTile r.desc.plane = m.tile.val)) x.running = some (r, rest) →
      let c := corrected s.dev.freeCtr r r.comp m
      let good := r.unlocked = false ∧ causesOf s.dev.freeCtr r m c = []
      let die := pkDie r.desc.plane
      let call := findCall s.dev r.desc.core r.desc.ticket
      let entry := fun a : ArrCall => a.list[segOf (getHandle s.dev (handleOf a)) r.desc]?
      let moved := fun e : MapEnt => e.digital = true ∨ e.loc ≠ r.desc.plane ∨ e.pos ≠ r.desc.pos
      (good → r.desc.kind = 0 → Gives (.passResult n m) s fun d => (getDie d n).running = rest
        ∧ d.arr.flagged = s.dev.arr.flagged
        ∧ ∀ a : ArrCall, call = some a → findCall d r.desc.core r.desc.ticket = some (resolveBuf r (promote r c) a))
      ∧ (¬good → r.desc.refire = false → (∀ a, call = some a → ∀ e, entry a = some e → ¬moved e) → Gives (.passResult n m) s fun d =>
        (getDie d die).refireQ = (getDie s.dev die).refireQ ++ [{ r.desc with refire := true }]
        ∧ d.arr.flagged.toNat = min 65535 (s.dev.arr.flagged.toNat + 1) ∧ d.arr.calls = s.dev.arr.calls)
      ∧ (¬good → r.desc.refire = false → ∀ (a : ArrCall) (e : MapEnt), call = some a → entry a = some e → moved e →
        Gives (.passResult n m) s fun d =>
          d.arr.flagged.toNat = min 65535 (s.dev.arr.flagged.toNat + 1)
          ∧ ∃ a' : ArrCall, findCall d r.desc.core r.desc.ticket = some a' ∧ a'.fault = a.fault ∧ a'.hub = a.hub ∧ a.due <+: a'.due
            ∧ (e.digital = true → ∃ y ∈ a'.due, y.seg = segOf (getHandle s.dev (handleOf a)) r.desc ∧ y.outlier = false))
      ∧ (¬good → r.desc.refire = true → r.desc.kind = 0 → Gives (.passResult n m) s fun d =>
        d.arr.repeated.toNat = min 65535 (s.dev.arr.repeated.toNat + 1)
        ∧ ∀ a : ArrCall, call = some a → findCall d r.desc.core r.desc.ticket = some { resolveBuf r id a with fault := true }))
    ∧ (x.lock = true → Gives (.converterLockLoss n) s fun d => Raised 0x3004 (setDie n { x with
        lock := false, held := true
        running := x.running.map fun r => if r.slot = x.slotNo then { r with unlocked := true } else r } s.dev) d)
    ∧ (x.lock = false → ∀ us : W32, Gives (.converterLockReturn n us) s fun d =>
        Raised 0x3005 (setDie n { x with lock := true, held := false } s.dev) d)
    ∧ (x.lock = false → x.held = true → (getUnit s.dev (uDie n)).state = 0 → (getUnit s.dev (uDie n)).times = [] →
      Gives (.lockLossTimeout n) s fun d => (getUnit d (uDie n)).state = 1 ∧ (getDie d n).suspect = true ∧ (getDie d n).lock = false))
  ∧ (∀ (s : State) (tp : PlaneId) (r : VerifyResult), let pid := pidOf tp
    let p := getPlane s.dev pid
    let x := getDie s.dev (pkDie pid)
    NoneTaken s.dev → planeState s.dev pid = 1 ∨ planeState s.dev pid = 2 →
    let next := fun (d : Dev) => (getPlane d pid).step = p.step + 1
      ∧ ((getPlane d pid).paused = true ↔ ∃ i, x.programming.findIdx? (· = pid) = some i ∧ pauseDue x i = true)
    (p.paused = true ∨ r.step.val ≠ p.step → Gives (.programVerifyComplete tp r) s fun d => d = s.dev)
    ∧ (p.paused = false → r.step.val = p.step →
      (p.step = 1 → Gives (.programVerifyComplete tp r) s next)
      ∧ (p.step = 2 → Gives (.programVerifyComplete tp r) s fun d => next d ∧ (getPlane d pid).programs = min 65535 (p.programs + 1))
      ∧ (p.step = 3 → Gives (.programVerifyComplete tp r) s fun d => next d ∧ planeState d pid = 2)
      ∧ (p.step = 4 → p.defects = [] → r.defects = [] → r.tileFailed = false →
        (r.ok = true → x.compUsed ≤ 4194304 → Gives (.programVerifyComplete tp r) s fun d => next d ∧ (getPlane d pid).comp = [])
        ∧ (r.ok = false → loadFor s.dev pid = none → s.dev.arr.refreshes = [] → planFor s.dev pid = none →
          Gives (.programVerifyComplete tp r) s fun d => (getPlane d pid).segs = [] ∧ (getPlane d pid).comp = []))
      ∧ (p.step = 5 → Gives (.programVerifyComplete tp r) s fun d => next d
        ∧ (getPlane d pid).corr.tVer = roundStep s.dev.freeCtr 0 ((x.temp : Rat) / 4) ∧ (getPlane d pid).corr.age = ptimeH s.dev
        ∧ (getPlane d pid).corr.delta = 0 ∧ (getPlane d pid).corr.flags = 0
        ∧ ∀ k : Nat, k < 16 → sGet 0 (getPlane d pid).corr.ref0 k = r.ref0.getD k 0)
      ∧ (p.step = 6 → ¬(p.why = 1 ∧ (getUnit s.dev (uPlane pid)).state = 1 ∧ candlesGood r = false) →
        Gives (.programVerifyComplete tp r) s fun d => next d ∧ ∀ e ∈ p.segs, ∃ c, sFind (getPlane d pid).candles e.1 = some c
          ∧ c.seed ≠ 0 ∧ c.s = candleSum (candleCodes 65536 c.seed.toNat []))
      ∧ (p.step = 7 → (∀ l, loadFor s.dev pid = some l → ¬(l.phase = 3 ∧ ∀ q ∈ l.planes, q = pid)) →
        Gives (.programVerifyComplete tp r) s fun d =>
          planeState d pid = (if p.why = 1 ∨ p.why = 2 then 4 else 3)
          ∧ sGet {} d.arr.savedPlanes pid = { p.corr with age := ptimeH s.dev, candAge := ptimeH s.dev })))

/-- R84, R96, R102–R106, R109, R113, R116, R117, R119, R121. -/
def Obligations.ArrayCare : Prop :=
  (∀ (s : State) (n : DieIx) (t : TileIx) (plane : Fin 160), let key := n.val * 4096 + t.val
    let x := getDie s.dev n
    (x.retired = true ∨ (getTile s.dev key).retired = true ∨ x.checking = true ∨ nullPending x t = true →
      Gives (.nullPassDue n t plane) s fun d => d = s.dev)
    ∧ (x.retired = false → (getTile s.dev key).retired = false → x.checking = false → nullPending x t = false →
      x.maintWait = [] → x.maintQ.length ≤ 1020 → Gives (.nullPassDue n t plane) s fun d =>
        (getDie d n).maintQ = x.maintQ ++ List.replicate 4 { maintBase 2 (planeKey n t plane) 0 with mask := 0 }
        ∧ d.arr.planes = s.dev.arr.planes ∧ d.arr.tiles = s.dev.arr.tiles)
    ∧ (∀ (m : PassMeas) (r : RunPass) (rest : List RunPass), x.checking = false →
      takeFirst (fun r : RunPass => decide (pkTile r.desc.plane = m.tile.val)) x.running = some (r, rest) →
      r.unlocked = false → causesOf s.dev.freeCtr r m (corrected s.dev.freeCtr r r.comp m) = [] → pkDie r.desc.plane = n.val →
      (r.desc.kind = 2 → m.tile = t → (sGet [] x.nulls t).length = 3 → Gives (.passResult n m) s fun d =>
        (∀ c : Nat, c < 1040 → sGet 0 (getTile d key).off c = clampInt (-128) 127 (2 *
          (((sGet [] x.nulls t).foldl (fun a q => a + q.getD c 0) 0 + (if c % 2 = 0 then m.cntP else m.cntN).getD (c / 2) 0 : Nat) : Int)))
        ∧ (getTile d key).dP = 0 ∧ (getTile d key).dN = 0 ∧ d.arr.planes = s.dev.arr.planes)
      ∧ (r.desc.kind = 1 → (getPlane s.dev r.desc.plane).candleDue = true → Gives (.passResult n m) s fun d =>
        sFind (getPlane d r.desc.plane).candleRes r.desc.pos = some (corrected s.dev.freeCtr r r.comp m))))
  ∧ (∀ (s : State) (tp : PlaneId), let pid := pidOf tp
    let p := getPlane s.dev pid
    let x := getDie s.dev (pkDie pid)
    let st := planeState s.dev pid
    (tp.plane.val < 160 → st ≠ 1 → st ≠ 2 → st ≠ 7 → p.candleDue = false → Gives (.candleCheckDue tp) s fun d =>
      (getPlane d pid).candleDue = true ∧ (getPlane d pid).candleRes = []
      ∧ (x.maintWait = [] → x.maintQ.length + (candlePositions p).length ≤ 1024 →
        (getDie d (pkDie pid)).maintQ = x.maintQ ++ (candlePositions p).map fun pos =>
          let codes := candleCodes 65536 (candleSeed p pos) []
          { maintBase 1 pid pos with codes := codes, shifts := 0xAAAA, s := candleSum codes }))
    ∧ (st = 1 ∨ st = 2 ∨ st = 7 ∨ p.candleDue = true → Gives (.candleCheckDue tp) s fun d => d = s.dev)
    ∧ (p.candleDue = true → p.candleOverdue = 0 → ∀ hours : W32, hours ≠ 0 → Gives (.candleOverdue tp hours) s fun d =>
      Raised 0x4008 (setPlane pid { p with candleOverdue := hours.toNat } s.dev) d)
    ∧ (∀ (pair : Nat) (found : ScanFound), p.scans.contains pair = true →
      (found.tileFailed = false → p.defects.length + found.defects.length ≤ 64 → Gives (.defectScanComplete tp pair found) s fun d =>
        (getPlane d pid).scans = p.scans.filter (· ≠ pair)
        ∧ ∀ x ∈ found.defects, x.pair = pair → ∃ y ∈ (getPlane d pid).defects, sameCell x y = true)
      ∧ (found.tileFailed = true → Gives (.defectScanComplete tp pair found) s fun d => (getTile d (tileKey pid)).retired = true))
    ∧ (s.dev.arr.planes = [(pid, p)] → s.dev.arr.refreshes = [] → NoneTaken s.dev → (∀ n, n < 16 → (getDie s.dev n).checking = false) →
      tp.plane.val < 160 → st = 3 → hasContent p = true →
      p.corr.flags.getLsbD 0 = true → p.corr.flags.getLsbD 1 = false → ptimeH s.dev < p.corr.age + 4320 → Gives .flagPoll s fun d =>
        planeState d pid = 5
        ∧ sFind d.arr.refreshes pid = some { step := 2, shadow := none, digital := false, carrier := none, tried := [] })
    ∧ (∀ r : Refresh, sFind s.dev.arr.refreshes pid = some r →
      (∀ (q : Nat) (x : PlaneSt), r.step = 2 → st ≠ 7 →
        (s.dev.arr.planes.find? fun q => decide (q.1 ≠ pid) && decide (planeState s.dev q.1 = 4) && q.2.segs == p.segs
          && !(s.dev.arr.refreshes.any fun e => e.2.shadow = some q.1)) = some (q, x) →
        let d' : Dev := { s.dev with arr := { s.dev.arr with
          refreshes := sSet s.dev.arr.refreshes pid { r with step := 4, shadow := some q } } }
        (Gives (.shadowRetry tp) s fun d => d = d') ∧ Gives (.refreshStepComplete tp) s fun d => d = d')
      ∧ (r.step ≠ 2 → Gives (.shadowRetry tp) s fun d => d = s.dev)
      ∧ (∀ n : Nat, (r.step = 3 ∧ n = 4 ∧ ∃ q, r.shadow = some q ∧ (planeState s.dev q = 4 ∨ planeState s.dev q = 5))
          ∨ (r.step = 6 ∧ n = 7 ∧ progWaits s.dev pid = false ∧ (st = 4 ∨ st = 5)) →
        Gives (.refreshStepComplete tp) s fun d =>
          d = { s.dev with arr := { s.dev.arr with refreshes := sSet s.dev.arr.refreshes pid { r with step := n } } })
      ∧ (r.step = 6 → progWaits s.dev pid = true → Gives (.refreshStepComplete tp) s fun d => d = s.dev)
      ∧ (r.step = 8 → r.shadow = none → Gives (.refreshStepComplete tp) s fun d =>
          d = { s.dev with arr := { s.dev.arr with refreshes := sDel s.dev.arr.refreshes pid } }))
    ∧ (∀ (cw corr : Nat) (ok healthy : Bool), st = 8 →
      let key := pid * 128 + cw % 128
      let d1 : Dev := { s.dev with arr := { s.dev.arr with scrubbed := sSet s.dev.arr.scrubbed key (ptimeH s.dev) } }
      let waits : Dev → Dev := fun x =>
        if x.arr.rewrites.contains key then x else { x with arr := { x.arr with rewrites := x.arr.rewrites ++ [key] } }
      let again : Dev → Dev := fun x => if s.dev.pwr.vinLow then waits x else codewordRewrite key x
      (ok = true → Gives (.storeScrubDue tp cw corr ok healthy) s fun d => d = if 48 < corr then again d1 else d1)
      ∧ (ok = false → healthy = true → Gives (.storeScrubDue tp cw corr ok healthy) s fun d =>
          ∃ e : Dev, Raised 0x4009 d1 e ∧ d = again e)
      ∧ (ok = true → 48 < corr → s.dev.pwr.vinLow = false → ∀ c : Nat,
        (((List.range 117).map (sparePlane pid * 128 + ·)).find? fun c =>
          !((storePlanes pid).flatMap fun q => (getPlane s.dev q).spares.map (·.2)).contains c) = some c →
        Gives (.storeScrubDue tp cw corr ok healthy) s fun d => sFind (getPlane d pid).spares (cw % 128) = some c)))
  ∧ (∀ (s : State) (t : TileId) (plane : Fin 200), let pid := planeKey t.die t.tile plane
    let p := getPlane s.dev pid
    let ms := (candlePositions p).map (candleView s.dev p)
    let misses := (ms.map fun m => (missesOf m).length).foldl (· + ·) 0
    let whole := p.candleDue = true ∧ ∀ q ∈ candlePositions p, sFind p.candleRes q ≠ none
    (whole → Gives (.candleCheckResult t plane) s fun d =>
      (getPlane d pid).candleDue = false ∧ (getPlane d pid).corr.candAge = ptimeH s.dev
      ∧ (16 ≤ misses → (getPlane d pid).corr.flags.getLsbD 1 = true)
      ∧ (4 ≤ misses → misses < 16 → (getPlane d pid).corr.flags.getLsbD 0 = true ∨ (getPlane d pid).corr.flags.getLsbD 1 = true)
      ∧ d.arr.tiles = s.dev.arr.tiles)
    ∧ (¬whole → Gives (.candleCheckResult t plane) s fun d => d = s.dev))
  ∧ (∀ (s : State) (n : DieIx), (s.dev.arr.planes.map (·.1)).Nodup → Gives (.corrRecordCopy n) s fun d =>
    (∀ e ∈ s.dev.arr.planes, pkDie e.1 = n.val → sGet {} d.arr.savedPlanes e.1 = e.2.corr)
    ∧ d = { s.dev with arr := { s.dev.arr with savedPlanes := d.arr.savedPlanes, savedTiles := d.arr.savedTiles } })
  ∧ ∀ (s : State) (seconds : Nat), Gives (.swapTokenAccrue seconds) s fun d => d = { s.dev with arr := { s.dev.arr with
      swapTokens := min (poolRate s.dev) (s.dev.arr.swapTokens + poolRate s.dev * (seconds : Rat) / 86400) } }

/-- R135–R137, R139, R273. -/
def Obligations.PolicyPrograms : Prop :=
  (∀ (s : State) (l : LayerKey) (idx : Nat), let lk := lkOf l
    (policyRuns s.dev = false → Gives (.recipeSwitch l idx) s fun d => d = s.dev)
    ∧ (policyRuns s.dev = true → s.dev.num.policy.running = none → (switchVerdict lk idx s.dev).1 = 0 → Gives (.recipeSwitch l idx) s fun d =>
      d.num.pending = sSet s.dev.num.pending lk ⟨BitVec.ofNat 8 idx, 0, none⟩ ∧ d.out.getLast? = some (.policyResult 0 [])
      ∧ (∀ r : Recipe, recipeOf s.dev lk idx = some r → r.exec ≠ 1 →
        (∀ i ∈ layerHandles s.dev lk, (curList (getHandle s.dev i)).any (·.digital) = false) →
        d = emit (.policyResult 0 []) { s.dev with num := { s.dev.num with
          pending := sSet s.dev.num.pending lk ⟨BitVec.ofNat 8 idx, 0, none⟩ } }))
    ∧ (∀ g : GenSt, policyRuns s.dev = true → getGen s.dev (keyModel lk) (keyGen lk) = some g → 1 ≤ g.state → g.state ≤ 4 →
      ∀ r : Recipe, recipeOf s.dev lk idx = some r →
      ((switchVerdict lk idx s.dev).1 = 0 ↔ r.exec ≠ 1 ∨ (recipeNow s.dev lk).exec = 1 ∨ layerRoom s.dev lk = true)
      ∧ (r.exec = 1 → (recipeNow s.dev lk).exec ≠ 1 → layerRoom s.dev lk = false → s.dev.num.policy.running = none →
        Gives (.recipeSwitch l idx) s fun d => d = emit (.policyResult 1 []) { s.dev with num := { s.dev.num with
          pending := sSet s.dev.num.pending lk ⟨BitVec.ofNat 8 idx, 0, some 2⟩ } }))
    ∧ (policyRuns s.dev = true → s.dev.num.policy.running.isSome = true → (switchVerdict lk idx s.dev).1 ≠ 2 → Gives (.recipeSwitch l idx) s fun d =>
      d = emit (.policyResult (switchVerdict lk idx s.dev).1 []) { s.dev with num := { s.dev.num with policy := { s.dev.num.policy with
        asked := s.dev.num.policy.asked ++ [(lk, idx)] } } })
    ∧ (∀ g : GenSt, policyRuns s.dev = true → getGen s.dev (keyModel lk) (keyGen lk) = some g → 1 ≤ g.state → g.state ≤ 4 →
      recipeOf s.dev lk idx = none → Gives (.recipeSwitch l idx) s fun d =>
        d.num.pending = s.dev.num.pending ∧ d.num.policy.refused.toNat = min 65535 (s.dev.num.policy.refused.toNat + 1)
        ∧ d.out.getLast? = some (.policyResult 2 []))
    ∧ (∀ r : Recipe, recipeOf s.dev lk (currentRecipe s.dev lk) = some r → Gives (.recipeCurrent l) s fun d =>
      d = emit (.policyResult (sGet 0 s.dev.num.current lk).toNat (recipeBytes (sGet 0 s.dev.num.current lk).toNat r)) s.dev)
    ∧ (Gives (.recipeList l) s fun d =>
      let rs := (List.range 16).filterMap fun i => (recipeOf s.dev lk i).map (recipeBytes i)
      d = emit (.policyResult rs.length rs.flatten) s.dev))
  ∧ (∀ (s : State) (code : W8) (payload : W64),
    (Gives (.report code payload) s fun d => d = if policyRuns s.dev then
        raiseNum ⟨0x2013, 0, 0⟩ 0 0 uDevice (pay [(16, 1, code.toNat), (24, 8, payload.toNat)]) s.dev else s.dev)
    ∧ (Gives (.admitReport code payload) s fun d => d = if admitRuns s.dev then
        raiseNum ⟨0xB003, 0, 0⟩ 3 0 uDevice (pay [(16, 1, 4), (17, 1, code.toNat), (20, 4, 1), (24, 8, payload.toNat)]) s.dev else s.dev)
    ∧ (∀ cls share : Nat, Gives (.setClassCap cls share) s fun d =>
        d = if admitRuns s.dev = true ∧ (cls = 2 ∨ cls = 3) ∧ share ≤ 100 then
          { s.dev with srv := { s.dev.srv with caps := sSet s.dev.srv.caps cls share } } else s.dev)
    ∧ (Gives .policyReenable s fun d => d = { s.dev with num := { s.dev.num with policy := { s.dev.num.policy with
        disabled := false, abortNs := [] } } })
    ∧ (Gives .admitReenable s fun d => d = { s.dev with srv := { s.dev.srv with adm := { s.dev.srv.adm with
        disabled := false, abortNs := [] } } })
    ∧ (∀ (key : HoldKey) (h : NumHold), sFind s.dev.num.holds (holdKey key) = some h →
      (h.held = 0 → Gives (.numHoldEnd key) s fun d =>
        d = { s.dev with num := { s.dev.num with holds := sDel s.dev.num.holds (holdKey key) } })
      ∧ (h.held ≠ 0 → Gives (.numHoldEnd key) s fun d => Raised key.code { s.dev with num := { s.dev.num with
        holds := sSet s.dev.num.holds (holdKey key) { h with held := 0 } } } d)))
  ∧ (∀ (s : State) (h : HookCall) (r : List HookCall) (adm : Bool),
    (s.dev.num.policy.queue = h :: r → policyRuns s.dev = true → s.dev.num.policy.asked = [] → Gives (.hookInvoke .recipe adm) s fun d =>
      d = { s.dev with num := { s.dev.num with policy := { s.dev.num.policy with queue := r, running := some h, asked := [] } } })
    ∧ (∀ lk idx : Nat, s.dev.num.policy.queue = [] → s.dev.num.policy.asked = [(lk, idx)] → (switchVerdict lk idx s.dev).1 = 0 →
      Gives (.hookInvoke .recipe adm) s fun d => d.num.policy.running = none ∧ d.num.policy.asked = []
        ∧ d.num.pending = sSet s.dev.num.pending lk ⟨BitVec.ofNat 8 idx, 0, none⟩)
    ∧ (s.dev.srv.adm.queue = h :: r → admitRuns s.dev = true → h.hook = 3 → ∀ c : CtxSt, getCtx s.dev h.arg = some c →
      (adm = true → Gives (.hookInvoke .admission adm) s fun d =>
        getCtx d h.arg = some { c with awaitHook := false } ∧ d.srv.adm.queue = r ∧ d.srv.adm.running = some h)
      ∧ (adm = false → c.state = 1 → Gives (.hookInvoke .admission adm) s fun d =>
        getCtx d h.arg = none ∨ ∃ c', getCtx d h.arg = some c' ∧ c'.state = 6)))
  ∧ ∀ (s : State) (h : HookCall),
    (s.dev.num.policy.running = some h → Gives (.hookAbort .recipe) s fun d =>
        d.num.pending = s.dev.num.pending ∧ d.num.current = s.dev.num.current ∧ d.num.policy.asked = []
        ∧ d.num.policy.running = none ∧ d.num.policy.aborts.toNat = min 65535 (s.dev.num.policy.aborts.toNat + 1)
        ∧ d.num.policy.disabled =
          (s.dev.num.policy.disabled || decide (3 ≤ (recentAborts s.dev.time.cpNs s.dev.num.policy.abortNs).length)))
    ∧ (∀ c : CtxSt, s.dev.srv.adm.running = some h → h.hook = 3 → getCtx s.dev h.arg = some c → Gives (.hookAbort .admission) s fun d =>
        (∃ c', getCtx d h.arg = some c' ∧ c'.awaitHook = false) ∧ d.srv.adm.running = none
        ∧ d.srv.adm.disabled =
          (s.dev.srv.adm.disabled || decide (3 ≤ (recentAborts s.dev.time.cpNs s.dev.srv.adm.abortNs).length)))

/-- R181–R188, R191, R198, R200, R201, R205, R206. -/
def Obligations.AttentionCalls : Prop :=
  (∀ (s : State) (k : CoreIx), let core := getCore s.dev k
    let t := core.attTicket
    let b := localBytes core (rs core 2).toNat 64
    let c1 := ws 2 (t.zeroExtend 64) { core with attTicket := t + 1 }
    core.state = 0 ∨ core.state = 1 →
    (attCheck s.dev core b ≠ 0 → inSram (fld b 28 4) 8 = true → Gives (.attCall k) s fun d =>
      getCore d k = putLocal (fld b 28 4) (toLe 8 (9 + attCheck s.dev core b * 65536)) c1
      ∧ OnlyCore k { s.dev with grid := { s.dev.grid with
          refused := s.dev.grid.refused ++ (attAffected s.dev k b).map fun i => (i, BitVec.ofNat 16 (attCheck s.dev core b)) } } d)
    ∧ (attCheck s.dev core b = 0 → Gives (.attCall k) s fun d =>
      getCore d k = { c1 with attCall := core.attCall ++ [⟨t, b⟩] } ∧ (∀ j : Nat, j ≠ k.val → getCore d j = getCore s.dev j)
      ∧ ∃ a : AttCallSt, d.att.calls = s.dev.att.calls ++ [a] ∧ a.core = k.val ∧ a.ticket = t ∧ a.desc = b ∧ a.ctx = fld b 0 4 % 2 ^ 20)
    ∧ (∀ (c : CtxSt) (l : LayerInfo), attCheck s.dev core b = 0 → attKindOf b = 2 → attRows b = 1 →
      getCtx s.dev (fld b 0 4 % 2 ^ 20) = some c → layerOf s.dev c (fld b 4 2) = some l → l.attKind = 1 → Gives (.attCall k) s fun d =>
        ∃ (f : BitVec 40) (n : Nat) (m : W64) (bl : Store Nat),
          let w := words32 core (fld b 16 4) (l.dl + l.p)
          let e := entryBytes l (if appendRne s.dev c (fld b 4 2) then none else some n) (w.take l.dl) (w.drop l.dl)
          getCtx d (fld b 0 4 % 2 ^ 20) = some { c with pages := mapAppend f (fld b 4 2) e c.pages, kvMap := m, blocks := bl })
    ∧ (Gives (.attWait k) s fun d =>
      getCore d k = (if core.attCall.any fun x => x.ticket == (rs core 2).truncate 32 then { core with stalled := true, cause := 3 }
        else { core with stalled := false, cause := 0 }) ∧ OnlyCore k s.dev d))
  ∧ (∀ (s : State) (p : PipeIx) (m : AttItemIn) (a : AttCallSt), findAtt s.dev m.core m.ticket = some a →
    (logicalPipe s.dev p = none → Gives (.attItemComplete p m) s fun d => d = s.dev)
    ∧ (∀ (c : CtxSt) (l : LayerInfo) (gs : GenSt), (logicalPipe s.dev p).isSome = true → getCtx s.dev a.ctx = some c →
      layerOf s.dev c (fld a.desc 4 2) = some l → getGen s.dev c.model c.gen = some gs → m.heads = 1 → m.head0 < l.heads →
      let core := getCore s.dev m.core
      let key := rowHead m.row0 m.head0
      let tile := fun n w => tileOf gs (fld a.desc 4 2) m.tensor m.row n w
      (m.stage = 1 → m.rows = 1 → m.row0 < attRows a.desc → Gives (.attItemComplete p m) s fun d =>
        d.att.items.toNat = min (2 ^ 32 - 1) (s.dev.att.items.toNat + 1)
        ∧ (∀ q : AbsQ, sFind a.absorbed key = some q → (rowSlices s.dev c l a core m.row0).contains m.slice = true →
          let z := scoreSum l q (sliceKeys s.dev c l a core m.row0 m.slice)
          findAtt d m.core m.ticket = some { a with
            parts := sSet a.parts (key * 256 + m.slice) ⟨p, z.1⟩
            leads := if (rowSlices s.dev c l a core m.row0).head? = some m.slice then sSet a.leads key p else a.leads
            items := a.items + 1, op := a.op.add z.2.op })
        ∧ (sFind a.absorbed key = none ∨ (rowSlices s.dev c l a core m.row0).contains m.slice = false →
          findAtt d m.core m.ticket = some { a with items := a.items + 1 }))
      ∧ (m.stage = 2 → Gives (.attItemComplete p m) s fun d => findAtt d m.core m.ticket = some { a with items := a.items + 1 })
      -- absorb and expand: every call of the layer step, every row
      ∧ ∀ (b : AttCallSt) (y : CtxSt), (s.dev.att.calls.map fun x => (x.core, x.ticket)).Nodup →
        b ∈ stepCalls s.dev c (fld a.desc 4 2) → getCtx s.dev b.ctx = some y →
        (∀ w : Tile, m.stage = 0 → tile l.dl l.dh = some w → Gives (.attItemComplete p m) s fun d =>
          ∃ b' : AttCallSt, findAtt d b.core b.ticket = some b' ∧ b'.items = b.items + 1 ∧ b'.outs = b.outs
          ∧ ∀ row, row < attRows b.desc →
            let k := rowHead row m.head0
            let base := fld b.desc 12 4 + (row * l.heads + m.head0) * (l.dh + l.p) * 4
            let q := absorb l (words32 (getCore s.dev b.core) base l.dh) (words32 (getCore s.dev b.core) (base + 4 * l.dh) l.p) w
            sFind b'.absorbed k = some ((sFind b.absorbed k).getD q.1))
        ∧ (∀ w : Tile, m.stage = 3 → tile l.dh l.dl = some w → Gives (.attItemComplete p m) s fun d =>
          ∃ b' : AttCallSt, findAtt d b.core b.ticket = some b' ∧ b'.items = b.items + 1 ∧ b'.absorbed = b.absorbed
          ∧ ∀ row, row < attRows b.desc →
            let k := rowHead row m.head0
            sFind b'.outs k =
              if sFind b.outs k = none ∧ sGet p.val b.leads k = p.val ∧ sFind b.absorbed k ≠ none
                ∧ (rowSlices s.dev y l b (getCore s.dev b.core) row).length ≤ sGet 0 b.slices k
              then some (expand l (sGet (emptyTriple l) b.merged k) w).1 else sFind b.outs k)))
  ∧ (∀ (s : State) (p : PipeIx) (m : AttMergeIn) (a : AttCallSt) (c : CtxSt) (l : LayerInfo), findAtt s.dev m.core m.ticket = some a →
    getCtx s.dev a.ctx = some c → layerOf s.dev c (fld a.desc 4 2) = some l → m.rows = 1 → m.heads = 1 → m.row0 < attRows a.desc →
    m.head0 < l.heads →
    let key := rowHead m.row0 m.head0
    let due := (rowSlices s.dev c l a (getCore s.dev m.core) m.row0)[sGet 0 a.slices key]? = some m.slice ∧ sGet p.val a.leads key = p.val
    (∀ z : Partial, due → sFind a.parts (key * 256 + m.slice) = some z → Gives (.attMerge p m) s fun d =>
      findAtt d m.core m.ticket = some { a with
        merged := sSet a.merged key (match sFind a.merged key with
          | some y => (mergeT y z.t).1
          | none => z.t)
        slices := sSet a.slices key (sGet 0 a.slices key + 1), parts := sDel a.parts (key * 256 + m.slice) })
    ∧ (¬due ∨ sFind a.parts (key * 256 + m.slice) = none → Gives (.attMerge p m) s fun d => findAtt d m.core m.ticket = some a))
  ∧ (∀ (s : State) (k : CoreIx) (t : W32) (a : AttCallSt) (c : CtxSt) (l : LayerInfo), findAtt s.dev k t = some a →
    getCtx s.dev a.ctx = some c → layerOf s.dev c (fld a.desc 4 2) = some l →
    let outs := if attKindOf a.desc = 2 then [] else
      (List.range (attRows a.desc)).flatMap fun r => (List.range l.heads).flatMap fun h => sGet [] a.outs (rowHead r h)
    let core := getCore s.dev k
    (attReady s.dev a = false → Gives (.attCallComplete k t) s fun d => d = s.dev)
    ∧ (attReady s.dev a = true → inSram (fld a.desc 28 4) 8 = true → Gives (.attCallComplete k t) s fun d =>
        let nf := a.op.nonFinite || outs.any fun x => decide (0x7F800000 ≤ x.toNat % 2 ^ 31)
        let c1 := if attKindOf a.desc = 2 ∨ a.fault = true then core else putLocal (fld a.desc 20 4) (outs.flatMap fun x => toLe 4 x.toNat) core
        let c2 := putLocal (fld a.desc 28 4) (toLe 8 (1 + 2 * b2n a.fault + 4 * b2n nf + min a.items (2 ^ 32 - 1) * 2 ^ 32)) c1
        getCore d k = addTrace s.dev 4 { c2 with attCall := core.attCall.filter fun x => x.ticket ≠ t }
        ∧ (∀ j : Nat, j ≠ k.val → getCore d j = getCore s.dev j) ∧ findAtt d k t = none))
  ∧ (∀ (s : State) (pg : PageKey) (m : PageMove) (rest : List PageMove) (e : PageEnt),
    takeFirst (fun m : PageMove => m.key == pg) s.dev.att.moves = some (m, rest) → getPage s.dev pg = some e →
    let frame := frameFor s.dev m.tier (pageTenant s.dev pg) (granOf s.dev pg)
    (e.valid = false ∨ e.tier = 3 → Gives (.pageMoveComplete pg) s fun d => d = { s.dev with att := { s.dev.att with moves := rest } })
    ∧ (e.valid = true → e.tier ≠ 3 → moveBlocked s.dev pg = true ∨ frame = none → Gives (.pageMoveComplete pg) s fun d =>
      getPage d pg = some { e with moving := false } ∧ d.att.moves = rest ∧ d.out = s.dev.out)
    ∧ (∀ f : Nat, e.valid = true → e.tier ≠ 3 → moveBlocked s.dev pg = false → frame = some f → Gives (.pageMoveComplete pg) s fun d =>
      let back := decide (m.tier = 2 ∧ pg.own ≠ 2) && resuming s.dev pg.id
      let addr := parkAddr s.dev (BitVec.ofNat 40 f)
      getPage d pg = some { e with tier := m.tier, moving := back, loc := BitVec.ofNat 40 f
                                   crc := if m.tier = 2 then BitVec.ofNat 32 (crc32c e.data) else 0 }
      ∧ d.att.moves = rest
      ∧ d.out = s.dev.out ++ ((if m.tier = 2 then [.hostWrite 0 addr (Config.parkCipher (pageTenant s.dev pg) f e.data)] else [])
          ++ if back then [.hostRead 0 addr e.data.length] else [])))
  ∧ ∀ (s : State) (pg : PageKey) (e : PageEnt) (bs : Bytes), getPage s.dev pg = some e → e.tier = 2 → pg.own ≠ 2 →
    let plain := (Config.parkCipher (pageTenant s.dev pg) e.loc.toNat).symm bs
    (crc32c plain = e.crc.toNat → Gives (.pageFetchComplete pg (.data bs)) s fun d => ∃ f : BitVec 40,
      getPage d pg = some { e with tier := 1, loc := f, crc := 0, data := plain, moving := false } ∧ d.att.parkFail = s.dev.att.parkFail)
    ∧ (crc32c plain ≠ e.crc.toNat → Gives (.pageFetchComplete pg (.data bs)) s fun d =>
      (∃ e', getPage d pg = some e' ∧ e'.tier = 3) ∧ d.att.parkFail.toNat = min 4095 (s.dev.att.parkFail.toNat + 1))
    ∧ (Gives (.pageFetchComplete pg .dmaFailed) s fun d =>
      (∃ e', getPage d pg = some e' ∧ e'.tier = 3) ∧ d.att.parkFail.toNat = min 4095 (s.dev.att.parkFail.toNat + 1)
      ∧ d.hif.dmaFail.toNat = min 65535 (s.dev.hif.dmaFail.toNat + 1))

/-- R227, R231–R233, R242, R289, R290, R463. -/
def Obligations.ModelCommands : Prop :=
  (∀ (s : State) (o : Origin) (r : Bytes), Commanded o 1 96 s.dev →
    let m : W16 := BitVec.ofNat 16 (fld r 0 2)
    let g : W16 := BitVec.ofNat 16 (fld r 2 2)
    originFn o = 0 ∨ fld r 4 1 = originFn o →
    (recordOk r = true → sGet 0 s.dev.sec.slots (fld r 4 1) ≠ 2 → loadOf s.dev m = none → s.dev.plc.loads.length < 8 → fld r 5 1 = 0 →
      Gives (.loadModel o r) s fun d =>
        d.plc.loads = s.dev.plc.loads ++ [{ origin := o, record := r, model := m, gen := g, tenant := fld r 4 1, startUs := s.dev.time.stampUs }]
        ∧ d.plc.cmds = s.dev.plc.cmds ++ [⟨o, 1, m, g⟩] ∧ d.plc.gens = s.dev.plc.gens
        ∧ d.out = s.dev.out ++ [.hostRead (originFn o) (BitVec.ofNat 64 (fld r 8 8)) 4096])
    ∧ (recordOk r = false → Gives (.loadModel o r) s fun d => d = cmdEnd o 0x1001 m g (fetched o s.dev)))
  ∧ (∀ (s : State) (o : Origin) (m g : W16) (x : GenSt), getGen s.dev m g = some x →
    (Commanded o 2 36 s.dev → foreign s.dev o m = true → Gives (.activate o m g) s fun d => d = cmdEnd o 0x1002 m g (fetched o s.dev))
    ∧ (Commanded o 2 36 s.dev → foreign s.dev o m = false → x.state = 2 → Gives (.activate o m g) s fun d =>
      getGen d m g = some { x with held := false } ∧ d.plc.cmds = s.dev.plc.cmds ++ [⟨o, 2, m, g⟩])
    ∧ (Commanded o 2 36 s.dev → foreign s.dev o m = false → x.state ≠ 2 → Gives (.activate o m g) s fun d =>
      d = cmdEnd o 0x1001 m g (fetched o s.dev))
    ∧ (Commanded o 3 37 s.dev → foreign s.dev o m = false → flagOk o 36 = true →
      (x.state = 3 → pinned s.dev m g ≠ 0 → Gives (.retire o m g false) s fun d =>
        getGen d m g = some { x with state := 4 } ∧ d.plc.cmds = s.dev.plc.cmds ++ [⟨o, 3, m, g⟩])
      ∧ (∀ force : Bool, x.state = 2 → (∃ c ∈ s.dev.arr.calls, x.handles.contains (c.handle.toNat % 2 ^ 20) = true) →
        Gives (.retire o m g force) s fun d => getGen d m g = some { x with state := 5, retireCause := 8 } ∧ d.plc.cmds = s.dev.plc.cmds ++ [⟨o, 3, m, g⟩])
      ∧ (∀ force : Bool, x.state = 2 → x.handles = [] → x.keepGolden = false → loadOf s.dev m = none → pinned s.dev m g = 0 →
        Gives (.retire o m g force) s fun d => getGen d m g = none)
      ∧ (∀ force : Bool, x.state ≤ 1 ∨ x.state = 6 → Gives (.retire o m g force) s fun d => d = cmdEnd o 0x1001 m g (fetched o s.dev)))
    ∧ (∀ keep : Bool, Commanded o 4 38 s.dev → foreign s.dev o m = false → flagOk o 36 = true → flagOk o 37 = true → loadOf s.dev m = none →
      s.dev.plc.gens = [(genKey m g, x)] → x.state = 3 → pinned s.dev m g ≠ 0 → Gives (.unload o m keep false) s fun d =>
        getGen d m g = some { x with keepGolden := keep, state := 4 } ∧ d.plc.cmds = s.dev.plc.cmds ++ [⟨o, 4, m, 0⟩]))
  ∧ (∀ (s : State) (o : Origin) (m : W16), Commanded o 5 34 s.dev → foreign s.dev o m = false →
    (∀ l : LoadSt, loadOf s.dev m = some l → originFn o = 0 ∨ l.tenant = originFn o → Gives (.cancelLoad o m) s fun d =>
      loadOf d m = none ∧ ∀ c ∈ d.plc.cmds, c.model = m → c.sub ≠ 1 ∧ c.sub ≠ 5)
    ∧ (loadOf s.dev m = none → Gives (.cancelLoad o m) s fun d => d = cmdEnd o 0x0000 m 0 (fetched o s.dev)))
  ∧ (∀ (s : State) (o : Origin) (r : Bytes), Commanded o 6 48 s.dev →
    let m : W16 := BitVec.ofNat 16 (fld r 2 2)
    let g : W16 := BitVec.ofNat 16 (fld r 4 2)
    let kept := fun (hs : List Bytes) => hs.filter fun h => !(sameTarget h r && fld h 0 1 = fld r 0 1)
    let ends := fun (hs : List Bytes) (d : Dev) => d = cmdEnd o 0x0000 m g { fetched o s.dev with plc := { s.dev.plc with hints := hs } }
    originFn o = 0 ∨ fld r 10 1 = originFn o → modelOwner s.dev m = some (fld r 10 1) → zeros r 11 5 = true → fld r 10 1 ≤ 63 →
    let put := (kept s.dev.plc.hints) ++ [r]
    let contra := s.dev.plc.hints.any fun h => targetsMeet h r && ((fld r 0 1 = 2 && fld h 0 1 = 4) || (fld r 0 1 = 4 && fld h 0 1 = 2))
    (fld r 8 2 = 0 → fld r 0 1 = 3 ∨ fld r 0 1 = 4 →
      (fld r 1 1 = 1 → Gives (.hint o r) s (ends (kept s.dev.plc.hints)))
      ∧ (fld r 1 1 = 0 → contra = false → Gives (.hint o r) s (ends put)))
    ∧ (fld r 0 1 = 1 → (fld r 1 1 = 1 → Gives (.hint o r) s (ends (kept s.dev.plc.hints)))
      ∧ (∀ n, n < 16 → fld r 1 1 = 0 → bitAt (fld r 8 2) n = true → (getDie s.dev n).retired = false → Gives (.hint o r) s (ends put)))
    -- keep-digital: what it does to the layers' lists is R242's
    ∧ (fld r 8 2 = 0 → fld r 0 1 = 2 → ∀ hs : List Bytes,
      (fld r 1 1 = 1 ∧ hs = kept s.dev.plc.hints) ∨ (fld r 1 1 = 0 ∧ contra = false ∧ hs = put) → Gives (.hint o r) s fun d =>
        ∃ d1 : Dev, d = cmdEnd o 0x0000 m g d1 ∧ d1.plc = { s.dev.plc with hints := hs }
        ∧ (liveLayers s.dev m = [] → d1 = { fetched o s.dev with plc := { s.dev.plc with hints := hs } }))
    ∧ (fld r 8 2 = 0 → fld r 0 1 = 2 ∨ fld r 0 1 = 4 → fld r 1 1 = 0 → contra = true → Gives (.hint o r) s fun d =>
      ∃ d1 : Dev, Raised 0x900B (fetched o s.dev) d1 ∧ d = cmdEnd o 0x0000 m g d1))

/-- R212, R215, R216, R221, R223, R227, R228, R233, R235. -/
def Obligations.ImageLoads : Prop :=
  (∀ (s : State) (m : W16) (l : LoadSt), loadOf s.dev m = some l → l.phase = 1 → fld l.record 5 1 = 0 → ∀ h t : Bytes,
    let short := shortPlanes s.dev l.tenant h t || shortOther s.dev l.tenant h
    (headerStatus l h t s.dev ≠ 0 → Gives (.imageHeaderReceive m h t) s fun d =>
      loadOf d m = none ∧ d.plc.gens = s.dev.plc.gens ∧ ∀ c ∈ d.plc.cmds, c.model = m → c.sub ≠ 1 ∧ c.sub ≠ 5)
    ∧ (headerStatus l h t s.dev = 0 → short = false → Gives (.imageHeaderReceive m h t) s fun d =>
      loadOf d m = some { l with hdr := h, sect := t, tries := [], phase := 2, dnr := false, dry := false }
      ∧ (hKind h = 0 → ∃ g : GenSt, getGen d m l.gen = some g ∧ g.state = 1 ∧ g.owner = l.tenant ∧ g.positions = hPositions h))
    ∧ (headerStatus l h t s.dev = 0 → short = true →
      shortPlanes s.dev l.tenant h t = false ∨ recFlag' l.record 1 = false ∨ genIn s.dev l.model 3 5 = none →
      Gives (.imageHeaderReceive m h t) s fun d => loadOf d m = none ∧ d.plc.gens = s.dev.plc.gens))
  ∧ (∀ (s : State) (m : W16) (l : LoadSt) (k : Nat), loadOf s.dev m = some l → l.phase = 2 → k < hShards l.hdr → l.got.contains k = false →
    let n := sGet 0 l.tries k
    let again := fun (d : Dev) => loadOf d m = some { l with tries := sSet l.tries k (n + 1) }
      ∧ (fromPeer l.origin = false → fld l.record 5 1 = 0 → d.out.getLast? =
          some (.hostRead (originFn l.origin) (BitVec.ofNat 64 (fld l.record 8 8 + (hBase l.hdr + k * shardSize))) shardSize))
    (n < 3 → Gives (.shardFetchTimeout m k) s again)
    ∧ (3 ≤ n → Gives (.shardFetchTimeout m k) s fun d => loadOf d m = none)
    ∧ ∀ f : Bytes, (shardHeaderOk l k f = false → n < 3 → Gives (.shardReceive m k f) s again)
      ∧ (shardHeaderOk l k f = false → 3 ≤ n → Gives (.shardReceive m k f) s fun d => loadOf d m = none)
      ∧ (let r := scanBlocks l k (fld f 12 1) f
        shardHeaderOk l k f = true → (hasTensors (sKind l.sect (fld f 12 1)) = false ∨ l.checked = true) → r.2.1 = none → r.1 ≠ [] →
        Gives (.shardReceive m k f) s fun d => d.plc.shards.toNat = min (2 ^ 32 - 1) (s.dev.plc.shards.toNat + 1)
          ∧ ∃ l' : LoadSt, loadOf d m = some l' ∧ l'.got = l.got ++ [k] ∧ l'.next = r.2.2
            ∧ l'.queue.map (fun b => { b with ready := false }) = (l.queue ++ r.1).map fun b => { b with ready := false }))
  ∧ (∀ (s : State) (m : W16) (l : LoadSt) (b : BlockIn), loadOf s.dev m = some l → l.queue.find? (·.ready) = some b →
    (∀ out : Bytes, decodeBlock l b = .ok out →
      let l2 : LoadSt := { l with queue := l.queue.erase b, data := sSet l.data (blockKey b.section_ b.tensor b.block) out }
      l.checked = false → l.notBegun = [] → listsHere l2 = false → (∀ i, i < hSections l.hdr → sectSettled l2 i = false) → Gives (.blockDecode m) s fun d =>
        loadOf d m = some l2 ∧ d.plc.gens = s.dev.plc.gens ∧ d.log = s.dev.log)
    ∧ (∀ e : Nat × Nat × W16, decodeBlock l b = .error e → 2 ≤ sGet 0 l.refetched b.shard → Gives (.blockDecode m) s fun d => loadOf d m = none)
    ∧ (∀ e : Nat × Nat × W16, decodeBlock l b = .error e → sGet 0 l.refetched b.shard = 1 → l.checked = false →
      let l1 : LoadSt := { l with queue := l.queue.erase b }
      listsHere l1 = false → (∀ i, i < hSections l.hdr → sectSettled l1 i = false) → Gives (.blockDecode m) s fun d =>
        loadOf d m = some l1 ∧ d.plc.gens = s.dev.plc.gens))
  ∧ (∀ (s : State) (m table : W16) (l : LoadSt), loadOf s.dev m = some l →
    let waits := l.queue.any fun b => !b.ready && b.table = table
    (∀ us : W32, us.toNat ≤ 1000 → Gives (.dtabWaitTimeout m table us) s fun d => d = s.dev)
    ∧ (∀ us : W32, 1000 < us.toNat → (l.queue.any fun b => !b.ready && b.table = table && !b.told) = true →
      Gives (.dtabWaitTimeout m table us) s fun d => Raised 0x9006 (setLoad { l with
        queue := l.queue.map fun b => if !b.ready && b.table = table then { b with told := true } else b } s.dev) d)
    ∧ (∀ (i : Nat) (lens : List Nat), waits = true → tableSlot s.dev l table = none → freeTabSlot s.dev = some i →
      tableFind (sectBytes l 5) table.toNat = some lens → Gives (.dtabInstall m table) s fun d =>
        (∃ e : DTab, sFind d.plc.dtabs i = some e ∧ e.model = l.model ∧ e.gen = l.gen ∧ e.table = table ∧ e.lens = lens)
        ∧ ∃ l' : LoadSt, loadOf d m = some l' ∧ ∀ b ∈ l'.queue, b.table = table → b.ready = true))
  ∧ (∀ (s : State) (m a : W16) (l : LoadSt) (x : GenSt), loadOf s.dev m = some l → l.dry = true → l.phase = 2 → l.checked = true →
    imageWhole l = true → sectOf l.hdr l.sect 9 = none → s.dev.plc.gens = [(genKey m a, x)] → x.state = 3 → pinned s.dev m a ≠ 0 →
    Gives (.dryPassComplete m) s fun d => loadOf d m = some { l with phase := 4, dry := false, data := [] }
      ∧ (getModel d m).state = 2 ∧ getGen d m a = some { x with state := 4 } ∧ sGet 0 d.plc.drains (genKey m a) = fld l.record 24 4)
  ∧ ∀ (s : State) (m g : W16) (x : GenSt), getGen s.dev m g = some x → x.state = 4 →
    (sGet 0 s.dev.plc.drains (genKey m g) = 0 → Gives (.drainLimitExpire m g) s fun d => d = s.dev)
    ∧ (0 < sGet 0 s.dev.plc.drains (genKey m g) → (∃ c ∈ s.dev.arr.calls, x.handles.contains (c.handle.toNat % 2 ^ 20) = true) →
      Gives (.drainLimitExpire m g) s fun d => getGen d m g = some { x with state := 5, retireCause := 5 })

/-- R238–R240, R317, R340. -/
def Obligations.Placement : Prop :=
  (∀ s : State, Gives .epochBoundary s fun d =>
    d.plc.epoch = (match s.dev.fab.jump with
      | some j => if (s.dev.plc.epoch + 1).toNat < j.toNat then j else s.dev.plc.epoch + 1
      | none => s.dev.plc.epoch + 1)
    ∧ d.plc.secondsNow = s.dev.plc.seconds ∧ d.plc.computing = true
    ∧ d.plc.frozenPasses = s.dev.plc.passes ∧ d.plc.frozenExperts = s.dev.plc.experts ∧ d.plc.passes = [] ∧ d.plc.experts = []
    ∧ d.plc.frozenCalls = s.dev.plc.calls ∧ d.plc.frozenSailed = s.dev.plc.sailed ∧ d.plc.frozenSailings = s.dev.plc.sailings
    ∧ d.plc.calls = [] ∧ d.plc.sailed = [] ∧ d.plc.sailings = 0
    ∧ d.plc.plan.map (·.entry) = s.dev.plc.nextPlan ∧ d.plc.dropped = s.dev.plc.nextDropped ∧ d.plc.nextPlan = [])
  ∧ (∀ (s : State) (plan : List PlanEntry),
    (Gives (.planComputed plan false) s fun d => d.plc.nextPlan = [] ∧ d.plc.computing = false ∧ sFind d.rel.cpDown 2 = some 3)
    ∧ (Gives (.planComputed plan true) s fun d =>
      let due := planDue { s.dev with plc := { s.dev.plc with lower := lowerCounts s.dev } }
      d.plc.computing = false
      ∧ (plan = due.out → d.plc.nextPlan = plan ∧ d.plc.nextDropped = due.dropped ∧ d.plc.lower = lowerCounts s.dev)
      ∧ (plan ≠ due.out → d.plc.nextPlan = [] ∧ sFind d.rel.cpDown 2 = some 3)
      ∧ ((d.plc.nextPlan.filter fun e => decide (e.kind.val ≤ 5)).map fun e => (targets e).length).sum
          ≤ s.dev.plc.migRate.toNat * s.dev.plc.seconds.toNat
      ∧ ∀ e ∈ d.plc.nextPlan, e ∈ plan))
  ∧ (∀ (s : State) (n : Nat) (r : PlanRun), s.dev.plc.plan[n]? = some r → r.done = false → r.withdrawn = false → r.entry.kind.val < 6 →
    let e := r.entry
    let ready := (targets e).all fun p => decide (planeState s.dev p = 3)
    (ready = false → Gives (.migrationComplete n) s fun d => d = s.dev)
    ∧ (∀ i : Nat, ready = true → r.copy = some i → Gives (.migrationComplete n) s fun d =>
      let key := expertKey e.model e.gen e.layer e.expert
      let cur := sGet [] s.dev.plc.expertTab key
      d.plc.plan[n]? = some { r with done := true } ∧ (getHandle d i).state = 1
      ∧ sGet [] d.plc.expertTab key = (if cur.contains e.handle then cur else cur ++ [e.handle]) ++ [i])
    ∧ (∀ sg : PlanSeg, ready = true → r.copy = none → e.segs = [sg] → (getHandle s.dev sg.handle).state ≠ 2 →
      Gives (.migrationComplete n) s fun d =>
        d.plc.plan[n]? = some { r with done := true }
        ∧ curList (getHandle d sg.handle) = if handleAnalog s.dev sg.handle
          then moveSeg (curList (getHandle s.dev sg.handle)) s.dev (getHandle s.dev sg.handle) sg.handle [sg]
          else curList (getHandle s.dev sg.handle)))
  ∧ ∀ (s : State) (v : W32),
    (Gives (.plcGenQuery v) s fun d => d = { s.dev with plc := { s.dev.plc with genQuery := v.truncate 16, genValid := true } })
    ∧ (Gives (.plcAttQuery v) s fun d => d = { s.dev with plc := { s.dev.plc with attQuery := v.truncate 6, attValid := true } })

/-- R244–R247, R251, R263, R264, R275, R286–R288. -/
def Obligations.Requests : Prop :=
  (∀ (s : State) (fn : FnIx) (sq : RingIx) (e input : Bytes), let t := fetchEntry fn sq s.dev
    let inp := padTo (rInLen e) input
    let st := reqStatus t fn e inp true
    (canFetch s.dev fn sq = false → Gives (.request fn sq e input) s fun d => d = s.dev)
    ∧ (canFetch s.dev fn sq = true → fld e 0 1 = 0 ∨ 3 < fld e 0 1 → Gives (.request fn sq e input) s fun d =>
      d = sendCommandEntry fn sq (eTag e) 0x1001 0 0 t)
    ∧ (canFetch s.dev fn sq = true → fld e 0 1 = 1 → st ≠ 0 → Gives (.request fn sq e input) s fun d =>
      let beyond := st = 0x1005 ∧ cfgGet t 0x0301 fn < quotaHeld t fn + ctxNeed e
      d = cqDeliver fn (cqOf t fn sq) { entry := entryOf (eTag e) st 1 0 0xFFFFFFFF 0 0 0 0xFFFFFFFF sq, data := [], ctx := none }
        (if beyond then srvEv 0xB004 1 fn [(16, 4, cfgGet t 0x0301 fn), (20, 4, 1)] t else t))
    ∧ (∀ o : ReqObjs, canFetch s.dev fn sq = true → fld e 0 1 = 1 → st = 0 → reqObjs t fn e = some o → fld e 72 8 ≠ 0 →
      rMode e ≠ 2 → rSpec e ≠ 1 → s.dev.srv.adm.queue.length < 4096 → (∃ i, i < 1048576 ∧ getCtx s.dev i = none) →
      Gives (.request fn sq e input) s fun d => ∃ i : Nat, i < 1048576 ∧ getCtx s.dev i = none
        ∧ (∃ x : List Nat, let c := newCtx t fn sq e inp o (BitVec.ofNat 64 (fld e 72 8))
            getCtx d i = some { c with extents := x } ∧ x.length = ceilDiv (4 * c.history.length + c.frames.length) 65536)
        ∧ (∀ j : Nat, j ≠ i → getCtx d j = getCtx s.dev j) ∧ getSq d fn sq = getSq t fn sq)
    ∧ (canFetch s.dev fn sq = true → fld e 0 1 = 2 → headerOk e 0 false = true → zeros e 32 96 = true →
      Gives (.cancelEntry fn sq e) s fun d => ∃ x : Dev, d = sendCommandEntry fn sq (eTag e) 0x0000 0 0 x
        ∧ ∀ (i : Nat) (c : CtxSt), getCtx s.dev i = some c → c.fn = fn.val → c.tag = eTag e → 1 ≤ c.state → c.state ≤ 5 →
          isGuest s.dev i = false → getCtx x i = some { c with cancelled := true })
    ∧ (canFetch s.dev fn sq = true → fld e 0 1 = 2 → headerOk e 0 false = false ∨ zeros e 32 96 = false →
      Gives (.cancelEntry fn sq e) s fun d => d = sendCommandEntry fn sq (eTag e) 0x1001 0 0 t))
  ∧ ∀ s : State,
    (∀ us : W32, let x := s.dev.srv.sail
      (x.running = true → x.told = false → 3 * x.target < 2 * us.toNat → Gives (.sailingOverrun us) s fun d =>
        d = srvEv 0xB002 2 0 [(16, 4, us.toNat), (20, 4, x.estimate.floor.toNat)]
          { s.dev with srv := { s.dev.srv with sail := { x with told := true } } })
      ∧ (x.running = false ∨ x.told = true ∨ 2 * us.toNat ≤ 3 * x.target → Gives (.sailingOverrun us) s fun d => d = s.dev))
    ∧ (Gives .deadlineSummary s fun d =>
      let total := fun (k : Nat) => (s.dev.srv.second.filter fun e => e.1 % 4 = k).foldl (fun a e => a + e.2) 0
      d.srv.second = []
      ∧ d.srv.rate = BitVec.ofNat 64 (min (total 0) (2 ^ 32 - 1) + min (total 1) 65535 * 2 ^ 32 + min (total 2) 65535 * 2 ^ 48)
      ∧ d.srv.ctxs = s.dev.srv.ctxs)
    ∧ ∀ v : W32, Gives (.srvCtxQuery v) s fun d =>
        d = { s.dev with srv := { s.dev.srv with query := v.truncate 20, queryValid := true } }

/-- R133, R250, R261, R263, R265, R389. -/
def Obligations.Sailings : Prop :=
  (∀ (s : State) (m : SailingMeas), (s.dev.pwr.mode ≠ 3 → Gives (.sailingEnd m) s fun d => d = s.dev)
    ∧ (s.dev.pwr.mode = 3 → s.dev.srv.sail.running = true → Gives (.sailingEnd m) s fun d =>
      d.srv.measured = BitVec.ofNat 16 (min m.us 65535) ∧ d.num.tallies = [])
    ∧ (s.dev.pwr.mode = 3 → s.dev.pwr.hold = true → Gives (.sailingEnd m) s fun d =>
      d.srv.sail.running = false ∧ d.srv.sail.rows = [] ∧ d.srv.sailNo = s.dev.srv.sailNo)
    ∧ (s.dev.pwr.mode = 3 → s.dev.pwr.hold = false → Gives (.sailingEnd m) s fun d =>
      d.srv.sail.running = true ∧ d.srv.sail.startNs = s.dev.time.cpNs ∧ d.srv.sailNo = s.dev.srv.sailNo + 1))
  ∧ ∀ (s : State) (m : SailingMeas) (i : Nat) (c : CtxSt), s.dev.pwr.mode = 3 → s.dev.pwr.hold = true → s.dev.srv.sail.running = true →
    s.dev.srv.ctxs = [(i, c)] → isLead c = true → 1 ≤ c.state → c.state ≤ 5 → c.endWith = none → sGet 0 s.dev.sec.slots c.tenant ≠ 2 →
    servedAway s.dev i = false → genGone s.dev c = false → m.rms = [] → m.lost = [] → s.dev.grid.faulted = [] → s.dev.grid.refused = [] →
    (c.cancelled = true → s.dev.srv.sail.rows = [] → Gives (.sailingEnd m) s fun d =>
      -- Ending while its entry waits in a full completion ring's hold
      getCtx d i = none ∨ ∃ c', getCtx d i = some c' ∧ c'.state = 6)
    ∧ (∀ start : Nat, let t := argBest (penalise c.repPen.toNat c.history (logitsOf m i 0))
      c.state = 3 → c.cancelled = false → c.drop = false → c.due = none → c.mode = 0 → c.spec = 0 → c.cands = [] → c.beams = [] →
      c.draftCtx = none → c.stops = [] → c.stopEnd = false → c.generated + 1 < c.maxTokens → c.length + 1 < 1048576 →
      bits c.io.toNat 2 2 = 0 → c.idsUsed + 4 ≤ c.resultLen → sFind s.dev.fab.guests i = none → s.dev.rel.marks = [] →
      s.dev.srv.sail.rows = [⟨i, 1, start, 1⟩] → rowBad (logitsOf m i 0) = false → Gives (.sailingEnd m) s fun d =>
        ∃ c' : CtxSt, getCtx d i = some c' ∧ c'.generated = c.generated + 1 ∧ c'.history = c.history ++ [t] ∧ c'.pending = some t
          ∧ c'.length = c.length + 1 ∧ c'.idsUsed = c.idsUsed + 4)

/-- R309–R313. -/
def Obligations.FabricLinks : Prop :=
  (∀ (s : State) (p : PortIx) (f : Frame), let x := getPort s.dev p
    let y := ackTake (fAck f) x
    (LinkFrame p 0x01 f s.dev → Gives (.ackAndCredit p f) s fun d =>
      (∀ v : Nat, v < 7 → sGet 0 (getPort d p).granted v = BitVec.ofNat 32 (fld f.payload (4 * v) 4))
      ∧ getPort d p = { y with granted := (getPort d p).granted } ∧ OnlyPorts s.dev d)
    ∧ (LinkFrame p 0x02 f s.dev → Gives (.heartbeat p f) s fun d => ∃ hold n : Nat, hold ≤ 1000
      ∧ d = sendLink p 0x04 (toLe 8 (fld f.payload 0 8) ++ toLe 4 hold) { setPort p { y with
          hbSeen := some (BitVec.ofNat 32 (fld f.payload 8 4))
          hbMissed := BitVec.ofNat 16 (min (y.hbMissed.toNat + (match y.hbSeen with
            | some o => (BitVec.ofNat 32 (fld f.payload 8 4) - o).toNat - 1
            | none => 0)) 65535) } s.dev with freeCtr := n })
    ∧ (LinkFrame p 0x04 f s.dev → ∀ now : W64, Gives (.heartbeatEcho p f now) s fun d =>
      getPort d p = { y with transits := ((now.toNat - fld f.payload 0 8 - fld f.payload 8 4) / 2 :: y.transits).take 8 }
      ∧ OnlyPorts s.dev d)
    ∧ (LinkFrame p 0x03 f s.dev → let z := ackTake (BitVec.ofNat 16 (fld f.payload 0 2)) y;
      (z.txQ = [] → Gives (.nak p f) s fun d => getPort d p = z ∧ OnlyPorts s.dev d)
      ∧ (z.txQ ≠ [] → z.resends < 16 → Gives (.nak p f) s (Resends p z s.dev)))
    ∧ (stateCarries x.state 0x01 = true → crcGood f = false → Gives (.ackAndCredit p f) s fun d =>
      getPort d p = { x with crcErr := BitVec.ofNat 16 (min (x.crcErr.toNat + 1) 65535) } ∧ OnlyPorts s.dev d)
    ∧ (stateCarries x.state 0x10 = true → crcGood f = true → fType f = 0 ∨ 4 < fType f → fLen f ≤ 9180 → f.payload.length = fLen f →
      x.state = 3 ∨ stateCarries x.state (fType f) = true → x.waitQ = [] →
      (fSeq f ≠ y.rxNext → Gives (.frameReceive p f) s fun d => d = nakStep p (setPort p y s.dev))
      ∧ (fSeq f = y.rxNext → Gives (.frameReceive p f) s fun d => (getPort d p).rxNext = y.rxNext + 1
        ∧ sGet 0 (getPort d p).given (fVl f) = sGet 0 y.given (fVl f) + BitVec.ofNat 32 (creditsOf f)
        ∧ (fType f = 0x10 → fVl f = 0 → sGet 0 s.dev.sec.slots (fTenant f) ≠ 2 →
            d.fab.accepted = s.dev.fab.accepted ++ [(p.val, f)]))))
  ∧ (∀ (s : State) (p : PortIx), let x := getPort s.dev p
    (∀ now : W64, stateCarries x.state 0x02 = true → Gives (.heartbeatSend p now) s fun d =>
      d = sendLink p 0x02 (toLe 8 now.toNat ++ toLe 4 x.hbSent.toNat) (setPort p { x with hbSent := x.hbSent + 1 } s.dev))
    ∧ (stateCarries x.state 0x02 = true → Gives (.heartbeatTimeout p) s fun d => (getPort d p).state = 5
      ∧ (getPort d p).hbMissed.toNat = min (x.hbMissed.toNat + 8) 65535)
    ∧ (stateCarries x.state 0x02 = true → Gives (.pcsLockLoss p) s fun d => (getPort d p).state = 5 ∧ (getPort d p).txQ = [])
    ∧ (∀ n : Nat, stateCarries x.state 0x02 = true → Gives (.fecErrorRate p n) s fun d => (getPort d p).state = 5
      ∧ (getPort d p).fecUncorr.toNat = min (x.fecUncorr.toNat + n) 65535)
    ∧ (stateCarries x.state 0x02 = false → Gives (.heartbeatTimeout p) s (fun d => d = s.dev) ∧ Gives (.pcsLockLoss p) s fun d => d = s.dev)
    ∧ (x.txQ = [] → Gives (.resendTimeout p) s fun d => d = s.dev)
    ∧ (x.txQ ≠ [] → x.resends < 16 → Gives (.resendTimeout p) s (Resends p x s.dev))
    ∧ (x.txQ ≠ [] → 16 ≤ x.resends → stateCarries x.state 0x02 = true → Gives (.resendTimeout p) s fun d => (getPort d p).state = 5)
    ∧ (0 < x.unacked → Gives (.ackTimer p) s fun d => d = sendLink p 0x01 (grantBytes x) s.dev)
    ∧ (x.unacked = 0 → Gives (.ackTimer p) s fun d => d = s.dev)
    ∧ (x.state = 1 → Gives (.portTrained p) s fun d => (getPort d p).state = 2 ∧ (getPort d p).rxNext = 0
      ∧ ∀ v : Nat, v < 7 → sGet 0 (getPort d p).given v = BitVec.ofNat 32 (vlBuffer v))
    ∧ (x.state = 5 → unitRetired s.dev (uPort p) = false → Gives (.trainingRetry p) s fun d => (getPort d p).state = 1)
    ∧ (∀ q : Nat, ((sparesOf s.dev p).find? fun q => (getPort s.dev q).carrying) = some q → x.state = 3 →
      Gives (.spareReturn p) s fun d => (getPort d p).carrying = true ∧ (getPort d q).carrying = false ∧ (getPort d q).state = 6))

/-- R314–R318, R322–R331, R230. Bodies of types 12h–15h, 21h and 22h: log entry 23. -/
def Obligations.FabricMessages : Prop :=
  (∀ (s : State) (p : PortIx) (f : Frame), let e := takenMsg p f s.dev
    let b := f.payload
    let src := fSrc f
    let m : W16 := BitVec.ofNat 16 (fld b 0 2)
    let g : W16 := BitVec.ofNat 16 (fld b 2 2)
    (Holds p 0x10 f s.dev → b.length = 112 → stateCarries (getPort s.dev p).state 0x10 = true →
      (∀ why : Nat, joinReason p b s.dev = some why → Gives (.joinRec p f) s fun d =>
        (getPort d p).state = 4 ∧ (getPort d p).fence = why ∧ (getPort d p).accepted = false)
      ∧ (joinReason p b s.dev = none → backed s.dev p = none → Gives (.joinRec p f) s fun d =>
        (getPort d p).state = 3 ∧ (getPort d p).peer = fld b 8 1 ∧ (getPort d p).accepted = true ∧ (getPort d p).fence = 0
        ∧ sFind d.fab.serials (fld b 8 1) = some (BitVec.ofNat 64 (fld b 24 8))))
    ∧ (Holds p 0x11 f s.dev → Gives (.linkStateAnnouncement p f) s fun d =>
      let ps := (List.range 8).map fun q => (fld b (2 * q) 1, fld b (2 * q + 1) 1)
      sFind d.fab.announced src = some ps
      ∧ d.fab.view = viewNow { e with fab := { e.fab with announced := sSet e.fab.announced src ps } })
    ∧ (Holds p 0x12 f s.dev → Gives (.statisticsGossip p f) s fun d => d = if fld b 0 4 + 2 < s.dev.plc.epoch.toNat then e else
      { e with fab := { e.fab with stats := sSet e.fab.stats src (fld b 0 4, b) } })
    ∧ (Holds p 0x13 f s.dev → Gives (.epochPlan p f) s fun d => d = { e with fab := { e.fab with
      plans := sSet e.fab.plans src (fld b 0 4, BitVec.ofNat 64 (fld b 4 8), ofLe ((b.drop 12).take 32)) } })
    ∧ (∀ x : GenSt, Holds p 0x14 f s.dev → getGen s.dev m g = some x →
      (fld b 4 2 = 1 → Gives (.generationState p f) s fun d => ∃ y : GenSt, getGen d m g = some y ∧ src ∈ y.readyFrom
        ∧ ∀ n ∈ x.readyFrom, n ∈ y.readyFrom)
      ∧ (fld b 4 2 = 2 → Gives (.generationState p f) s fun d => getGen d m g = some { x with switchSeen := true })
      ∧ (fld b 4 2 = 3 → Gives (.generationState p f) s fun d => sFind d.plc.remote (src * 2 ^ 32 + genKey m g) = some (fld b 6 4)))
    ∧ (∀ l : LoadSt, Holds p 0x15 f s.dev → loadOf s.dev m = some l → l.gen = g → recFlag' l.record 2 = true →
      Gives (.loadStatus p f) s fun d => loadOf d m = none)
    ∧ (∀ x : GenSt, Holds p 0x15 f s.dev → loadOf s.dev m = none → getGen s.dev m g = some x → x.flotilla = true → x.state = 2 →
      Gives (.loadStatus p f) s fun d => getGen d m g = none)
    ∧ (∀ (n : Nat) (x : SessSt), Holds p 0x20 f s.dev → (s.dev.sec.sessions.find? fun z => z.2.target = some src) = some (n, x) →
      Gives (.managementRelay p f) s fun d => d = emit (.hello x.conn b) (setSess n { x with lastUs := s.dev.time.stampUs } e))
    ∧ (Holds p 0x21 f s.dev →
      (let cs := (takeStrs (fld b 13 1) (b.drop 15)).map (ctxOfBlob (fld b 5 8) s.dev.time.cpNs.toNat);
        fld b 0 1 = 1 → (admitsGuest cs s.dev = false → Gives (.contextMigration p f) s fun d =>
            d = sendMsg 0x21 1 (fTenant f) src [] (toLe 1 3 ++ toLe 4 (fld b 1 4)) e)
          ∧ (∀ c : CtxSt, admitsGuest cs s.dev = true → cs = [c] → (∃ i, i < 1048576 ∧ getCtx s.dev i = none) →
            Gives (.contextMigration p f) s fun d => ∃ i, getCtx s.dev i = none ∧ sFind d.fab.guests i = some (src * 2 ^ 32 + fld b 1 4)
              ∧ ∃ c' : CtxSt, getCtx d i = some c' ∧ c'.history = c.history ∧ c'.generated = c.generated ∧ c'.state = 4))
      ∧ (∀ x : MigrSt, (s.dev.fab.migrs.find? fun z => z.ctx = fld b 1 4 && z.target = src && !z.admitted) = some x →
        (fld b 0 1 = 3 → Gives (.contextMigration p f) s fun d => ∀ z ∈ d.fab.migrs, z.ctx ≠ fld b 1 4)
        ∧ (fld b 0 1 = 2 → Gives (.contextMigration p f) s fun d => servedAway d (fld b 1 4) = true
          ∧ ∀ c, getCtx d (fld b 1 4) = some c → c.pages = [] ∧ c.cross = []))
      ∧ (∀ (i : Nat) (c : CtxSt), guestFor src (fld b 1 4) s.dev = some i → getCtx s.dev i = some c →
        (fld b 0 1 = 4 → Gives (.contextMigration p f) s fun d => getCtx d i = some { c with cancelled := true })
        ∧ (fld b 0 1 = 5 → Gives (.contextMigration p f) s fun d => getCtx d i = none ∧ sFind d.fab.guests i = none)))
    ∧ (Holds p 0x22 f s.dev → let i := fld b 0 4
      let adm := s.dev.fab.migrs.find? fun z => z.ctx = i && z.target = src && z.admitted;
      (adm = none → Gives (.completionRelay p f) s fun d => d = e)
      ∧ (adm ≠ none → fld b 6 1 = 0 → Gives (.completionRelay p f) s fun d =>
        d = deliver i ((((getCtx s.dev i).bind (genFor s.dev)).map (·.2.tok)).getD []) (words4 ((b.drop 10).take (4 * fld b 8 2))) none
          (decide (fld b 7 1 = 1)) e))
    ∧ (∀ out : FerryOut, Holds p 0x30 f s.dev →
      let st := ferryStatus f out s.dev
      let slots := if st = 0 then (List.range (fld b 0 2)).map fun i => fld b (32 + 4 * i) 2 else [];
      -- expert work begins its layer: a switch that waits comes into force (R136)
      let e0 := if st = 0 then ferryLayer f e else e;
      (((nextJob s.dev).any fun j => j.src = src && j.msg = fMsg f) = true → Gives (.ferryDispatch p f out) s fun d =>
        d = sendMsg 0x31 4 (if st = 4 then 0 else fTenant f) src (f.hdr.drop 20)
          (ferryBody (fld b 0 2) (fld b 2 1) st (fld b 4 4) (fld b 8 4) slots (if st = 0 then out.bytes else []))
          { e0 with fab := { e0.fab with jobs := e0.fab.jobs.filter fun j => !(j.src = src && j.msg = fMsg f) } })
      ∧ (((nextJob s.dev).any fun j => j.src = src && j.msg = fMsg f) = false → Gives (.ferryDispatch p f out) s fun d => d = s.dev))
    ∧ (∀ x : FerrySt, Holds p 0x31 f s.dev → (s.dev.fab.ferries.find? fun z => z.id = fld b 8 4 && z.dst = src) = some x →
      (fld b 3 1 = 0 → Gives (.ferryReturn p f) s fun d =>
        d = { e with fab := { e.fab with ferries := e.fab.ferries.filter fun z => z.id ≠ x.id } })
      ∧ (∀ (a i : Nat) (t : Nat × Nat) (c : CtxSt), fld b 3 1 ≠ 0 → x.failures = [a] → x.tokens = [t] → t.1 = i → getCtx s.dev i = some c →
        c.endWith = none → Gives (.ferryReturn p f) s fun d =>
          getCtx d i = some { c with endWith := some (if a = 5 ∧ fld b 3 1 = 5 then 0x4001 else 0x4003) }
          ∧ d.fab.failed.toNat = min (s.dev.fab.failed.toNat + 1) 65535))
    ∧ (∀ l : LoadSt, Holds p 0x40 f s.dev → fSpec f 24 4 ≠ 0xFFFFFFFF → loadOf s.dev (BitVec.ofNat 16 (fSpec f 20 2)) = some l →
      l.gen = BitVec.ofNat 16 (fSpec f 22 2) → Gives (.shard p f) s fun d =>
        d = shardArrive (BitVec.ofNat 16 (fSpec f 20 2)) (fSpec f 24 4) b e)
    ∧ (∀ z : W16 × W16 × Nat × Bytes, Holds p 0x41 f s.dev →
      (s.dev.fab.staged.find? fun z => z.1 = BitVec.ofNat 16 (fSpec f 20 2) && z.2.1 = BitVec.ofNat 16 (fSpec f 22 2) && z.2.2.1 = fSpec f 24 4) = some z →
      Gives (.shardRequest p f) s fun d => d = sendMsg 0x40 6 0 src
        (toLe 2 (fSpec f 20 2) ++ toLe 2 (fSpec f 22 2) ++ toLe 4 (fSpec f 24 4) ++ toLe 4 0) z.2.2.2 e))
  ∧ (∀ (s : State) (p : PortIx), let x := getPort s.dev p
    let asks := stateCarries x.state 0x10 && !(x.accepted && x.peerReady);
    (asks = true → Gives (.joinSend p) s fun d => d = sendJoin p s.dev) ∧ (asks = false → Gives (.joinSend p) s fun d => d = s.dev))
  ∧ ∀ s : State,
    (Gives .lsaSend s fun d => d = if standalone s.dev then s.dev else flood 0x11 [] (lsaBody s.dev) s.dev)
    ∧ (standalone s.dev = false → Gives .planComputeStart s fun d => ∃ copies : Store (List Nat),
      d.fab.ownPlan = some (s.dev.plc.epoch.toNat + 1, ofLe (sm3 (planBytes copies)), copies)
      ∧ ∀ e ∈ copies, e.2.length ≤ 4 ∧ ∀ n ∈ e.2, inView s.dev n = true)
    ∧ (∀ n : Nat, (s.dev.fab.ferries.find? fun x => x.id = n) = none → Gives (.ferryTimeout n) s fun d => d = s.dev)
    ∧ (∀ (x : FerrySt) (a i : Nat) (t : Nat × Nat) (c : CtxSt), (s.dev.fab.ferries.find? fun z => z.id = x.id) = some x → x.failures = [a] →
      x.tokens = [t] → t.1 = i → getCtx s.dev i = some c → c.endWith = none → Gives (.ferryTimeout x.id) s fun d =>
        getCtx d i = some { c with endWith := some 0x4003 } ∧ ∀ z ∈ d.fab.ferries, z.id ≠ x.id)

/-- R336–R345, R349–R351; which unit a detection charges: R345. -/
def Obligations.UnitHealth : Prop :=
  (∀ (s : State) (a b : W32),
    (s.dev.rel.xchk = none → xchkable s.dev a = true → xchkable s.dev b = true → unitKind a = unitKind b →
      unitQuadrant a ≠ unitQuadrant b → Gives (.crossCheckDue a b) s fun d =>
        (∃ seed : W32, d.rel.xchk = some { a := a, b := b, seed := seed, digests := none, arbiter := none })
        ∧ d.rel.xchkDue = s.dev.rel.xchkDue.filter fun u => u ≠ a ∧ u ≠ b)
    ∧ (s.dev.rel.xchk.isSome = true ∨ xchkable s.dev a = false ∨ unitQuadrant a = unitQuadrant b →
      Gives (.crossCheckDue a b) s fun d => d = s.dev))
  ∧ (∀ (s : State) (x : Xchk) (d1 d2 : W32), s.dev.rel.xchk = some x → x.digests = none →
    (∀ t : Option W32, d1 = d2 → Gives (.crossCheckResult d1 d2 t) s fun d => d.rel.xchk = none
      ∧ sGet 0 d.rel.lastPass x.a.toNat = ptimeS s.dev ∧ sGet 0 d.rel.lastPass x.b.toNat = ptimeS s.dev)
    ∧ (d1 ≠ d2 → Gives (.crossCheckResult d1 d2 none) s fun d =>
      d = { s.dev with rel := { s.dev.rel with xchk := some { x with digests := some (d1, d2), arbiter := none } } })
    ∧ (∀ t : W32, d1 ≠ d2 → xchkable s.dev t = true → unitKind t = unitKind x.a → unitQuadrant t ≠ unitQuadrant x.a →
      unitQuadrant t ≠ unitQuadrant x.b → Gives (.crossCheckResult d1 d2 (some t)) s fun d =>
        d = { s.dev with rel := { s.dev.rel with xchk := some { x with digests := some (d1, d2), arbiter := some t } } }))
  ∧ (∀ (s : State) (x : Xchk) (d1 d2 t : W32),
    let fit := fun u : W32 => (unitKind u = 0 ∨ unitKind u = 3) ∧ (getUnit s.dev u).state = 0 ∧ (getUnit s.dev u).times = []
    s.dev.rel.xchk = some x → x.digests = some (d1, d2) → d1 ≠ d2 → x.a ≠ x.b → fit x.a → fit x.b →
    (x.arbiter = some t → Gives (.arbitrationResult d1) s fun d => d.rel.xchk = none ∧ (getUnit d x.b).state = 1
      ∧ sGet 0 d.rel.lastPass x.a.toNat = ptimeS s.dev ∧ sGet 0 d.rel.lastPass t.toNat = ptimeS s.dev ∧ (getUnit d x.a).state = 0)
    ∧ (x.arbiter = some t → Gives (.arbitrationResult d2) s fun d => d.rel.xchk = none ∧ (getUnit d x.a).state = 1
      ∧ sGet 0 d.rel.lastPass x.b.toNat = ptimeS s.dev ∧ sGet 0 d.rel.lastPass t.toNat = ptimeS s.dev ∧ (getUnit d x.b).state = 0)
    ∧ (∀ d3 : W32, x.arbiter = some t → d3 ≠ d1 → d3 ≠ d2 → t ≠ x.a → t ≠ x.b → fit t → Gives (.arbitrationResult d3) s fun d =>
      d.rel.xchk = none ∧ (getUnit d x.a).state = 1 ∧ (getUnit d x.b).state = 1 ∧ (getUnit d t).state = 1)
    ∧ (Gives .arbitrationTimeout s fun d => d.rel.xchk = none ∧ (getUnit d x.a).state = 1 ∧ (getUnit d x.b).state = 1))
  ∧ (∀ s : State, (Gives .xchkRunNow s fun d => d = { s.dev with rel := { s.dev.rel with
        xchkDue := ((List.range 272).map uCore ++ (List.range 68).map uPipe).filter fun u => !unitRetired s.dev u } })
    ∧ (s.dev.rel.xchk = none → Gives .arbitrationTimeout s fun d => d = s.dev))
  ∧ (∀ (s : State) (cp : CpIx),
    (Gives (.cpSelfTest cp true) s fun d => d = s.dev)
    ∧ (Gives (.cpSelfTest cp false) s fun d => sFind d.rel.cpDown cp = some 2)
    ∧ (Gives (.cpWatchdog cp) s fun d => sFind d.rel.cpDown cp = some 1)
    ∧ ((getUnit s.dev (uCp cp)).state = 0 → (getUnit s.dev (uCp cp)).times = [] →
      Gives (.cpWatchdog cp) s fun d => (getUnit d (uCp cp)).state = 1 ∧ (getUnit d (uCp cp)).cause = 0x4010)
    ∧ (sFind s.dev.rel.cpDown cp = none → s.dev.rel.cpDown.length < 8 → Gives (.cpRestart cp) s fun d => d = s.dev)
    ∧ (∀ why : Nat, sFind s.dev.rel.cpDown cp = some why → s.dev.rel.cpDown.length < 8 →
      (Gives (.cpRestart cp) s fun d => sFind d.rel.cpDown cp = none ∧ d.time.cpNs = s.dev.time.cpNs)
      ∧ (cp = 2 → Gives (.cpRestart cp) s fun d => d.plc.computing = false ∧ d.plc.nextPlan = [])
      ∧ (cp = 3 ∨ 5 ≤ cp.val → Gives (.cpRestart cp) s fun d => d = raise 0x4010 3 0 (uCp cp) (pay [(16, 1, why)])
          { s.dev with rel := { s.dev.rel with cpDown := sDel s.dev.rel.cpDown cp } }))
    ∧ (8 ≤ s.dev.rel.cpDown.length → Gives (.cpRestart cp) s fun d => d.time.cpNs = 0
      ∧ ∀ n : Nat, n < 8 → sFind d.rel.cpDown n = none))
  ∧ (∀ (s : State) (u : W32) (ok : Bool), let refreshed := unitKind u = 1 ∧ (sFind s.dev.arr.refreshes (bits u.toNat 0 28)).isSome = true;
    ((getUnit s.dev u).state ≠ 1 ∨ refreshed → Gives (.unitTestComplete u ok) s fun d => d = s.dev)
    ∧ ((getUnit s.dev u).state = 1 → ¬ refreshed → Gives (.unitTestComplete u true) s fun d =>
      (getUnit d u).state = 0 ∧ (getUnit d u).times = (getUnit s.dev u).times)
    ∧ ((getUnit s.dev u).state = 1 → ¬ refreshed → Gives (.unitTestComplete u false) s fun d =>
      (getUnit d u).state = if unitKind u = 6 then 0 else 2)
    ∧ Gives (.mgtUnitQuery u) s fun d => d = { s.dev with rel := { s.dev.rel with query := u, queryValid := true } })
  ∧ (∀ (s : State) (e : MemError), unitOk e.unit = false → Gives (.memoryUncorrectable e) s fun d => d = s.dev)
  ∧ (∀ (s : State) (e : MemError), unitOk e.unit = true → let i := bits e.unit.toNat 0 16;
    (∀ (n : Nat) (c : CtxSt), e.memory = 0 → e.page = none → n ∈ e.ctxs → getCtx s.dev n = some c → c.endWith = none →
      Gives (.memoryUncorrectable e) s fun d => getCtx d n = some { c with endWith := some 0x4002 })
    ∧ (e.memory = 1 → unitKind e.unit = 0 → (getUnit s.dev (uCore i)).state = 0 → (getUnit s.dev (uCore i)).times = [] →
      Gives (.memoryUncorrectable e) s fun d =>
        (getCore d i).state = 3 ∧ (getCore d i).faultCode = 8 ∧ (getCore d i).faultAddr = BitVec.ofNat 22 e.addr.toNat)
    ∧ (e.memory = 2 → e.page = none → unitKind e.unit = 3 → Gives (.memoryUncorrectable e) s fun d => (sGet {} d.att.pipes i).state = 3)
    ∧ (e.memory = 3 → unitKind e.unit = 6 → Gives (.memoryUncorrectable e) s fun d => sFind d.rel.cpDown i = some 4)
    ∧ (∀ p : PlaneId, e.memory = 4 → e.plane = some p → Gives (.memoryUncorrectable e) s fun d =>
      (getPlane d (pidOf p)).corr = sGet {} s.dev.arr.savedPlanes (pidOf p))
    ∧ (e.memory = 6 → unitKind e.unit = 2 → Gives (.memoryUncorrectable e) s fun d => (getDie d i).linkDown = true)
    ∧ (e.memory = 7 → Gives (.memoryUncorrectable e) s fun d =>
      d = raise 0x400F 3 0 e.unit (pay [(16, 1, 7), (24, 8, e.addr.toNat)]) s.dev))
  ∧ (∀ (s : State) (hot : Bool) (u : W32) (n : Nat), let was := sGet 0 s.dev.rel.corrected u.toNat
    let e := { s.dev with rel := { s.dev.rel with corrected := sPut 0 s.dev.rel.corrected u.toNat (was + n) } };
    (Gives (.hbmPatrolScrub hot []) s fun d => d = s.dev)
    ∧ (unitOk u = false → Gives (.hbmPatrolScrub hot [(u, n)]) s fun d => d = s.dev)
    ∧ (unitOk u = true → (unitKind u = 4 ↔ hot = false) → was + n ≤ 64 ∨ 64 < was → Gives (.hbmPatrolScrub hot [(u, n)]) s fun d => d = e)
    ∧ (unitOk u = true → (unitKind u = 4 ↔ hot = false) → was ≤ 64 → 64 < was + n → Gives (.hbmPatrolScrub hot [(u, n)]) s fun d =>
      d = charge 0x400E true u (raise 0x400E 2 0 u (pay [(16, 4, was + n)]) e)))
  ∧ ∀ s : State,
    (let r : LedgerRec := ⟨4, 0, 0, 0, BitVec.ofNat 64 (ptimeS s.dev), BitVec.ofNat 112 (ptimeS s.dev % 2 ^ 64)⟩;
      (s.dev.pwr.vinLow = true → Gives .ledgerCheckpoint s fun d => d.rel.deferred = s.dev.rel.deferred ++ [r])
      ∧ (s.dev.pwr.vinLow = false → (getSector s.dev s.dev.rel.openSector.toNat).recs.length < 2046 → Gives .ledgerCheckpoint s fun d =>
        d.rel.openSector = s.dev.rel.openSector ∧ (getSector d s.dev.rel.openSector.toNat).recs =
          (getSector s.dev s.dev.rel.openSector.toNat).recs ++ [r]))
    ∧ (Gives .ledgerHourEnd s fun d => d.rel.hourUnit = [] ∧ d.rel.hourAll = 0 ∧ d.rel.hourHeld = [] ∧ d.rel.corrected = [])
    ∧ (s.dev.rel.detections = [] → Gives .goalEstimate s fun d => d.rel.est = 7520 ∧ d.log = s.dev.log)

/-- The stated reset values. The canonical form of empty memory rests on log entry 5. -/
def Obligations.ResetState : Prop :=
  let s := State.reset
  let d := s.dev
  s.pending = [] ∧ d.pwr.mode = 0 ∧ d.time.stampUs = 0 ∧ d.time.cpNs = 0 ∧ d.log.recs = [] ∧ d.log.count = 0 ∧ d.out = []
  ∧ MemoryKept d
  ∧ (∀ l : Nat, l < 256 → physCore d l = l / 16 * 17 + l % 16) ∧ (∀ n : Nat, n < 64 → physPipe d n = n / 16 * 17 + n % 16)
  ∧ (∀ n q : Nat, (getFn d n).evtMinSev = 3 ∧ (getFn d n).evtEnable = false ∧ (getCq d n q).phase = true ∧ (getCq d n q).enable = false
      ∧ (getSq d n q).enable = false)
  ∧ (∀ k : Nat, k < 272 → bar2Reg d (0x100000 + 0x1000 * k + 0x40) = some (false, 20))
  ∧ (∀ n : Nat, n < 16 → bar2Reg d (0x60140 + 4 * n) = some (false, 64))
  ∧ bar0Reg d 0 0 = some (false, 0x10014505) ∧ bar0Reg d 0 0xC = some (false, 16 + 16 * 2 ^ 5 + 64 * 2 ^ 10 + 16 * 2 ^ 17)
  ∧ bar2Reg d 0x4C = some (false, 60)
  ∧ (∀ n : Nat, n < 2 → (bar2Reg d (0xE0020 + 4 * n)).any (fun r => r.2.testBit 11) = true)
  ∧ (∃ w v, bar2Reg d (0xA0008) = some (w, v) ∧ bits v 18 4 = 1)

/-- The memories' canonical form is kept by a step of every core instruction, whatever its operands and however it ends. What an
unlisted byte reads as is log entry 5. -/
def Obligations.CoreMemoryKept : Prop :=
  ∀ (s t : State) (i : Instr) (k : CoreIx) (rest : List Instr), s.pending = i :: rest → coreOf i = some k → MemoryKept s.dev →
    step s = .next t → MemoryKept t.dev ∧ t.pending = rest ∧ t.dev.hbm = s.dev.hbm

end
end

