-- ==== Sys2Proof/Laws/Store.lean ====
section
/-! SUPPORT. Sparse stores and memory: reading after writing, and the canonical form. -/

namespace Sys2Proof.Machine

variable {α : Type}

/-! Reading after writing. -/

theorem sGet_sSet (d : α) (m : Store α) (q p : Nat) (w : α) :
    sGet d (sSet m q w) p = if p = q then w else sGet d m p := by
  induction m with
  | nil => by_cases h : q = p <;> simp [sSet, sGet, h, eq_comm]
  | cons e r ih =>
    obtain ⟨k, v⟩ := e
    simp only [sSet]
    split
    · by_cases h3 : q = p
      · subst h3; simp [sGet]
      · simp [sGet, h3, Ne.symm h3]
    · split
      · rename_i h1 h2
        subst h2
        by_cases h3 : k = p
        · subst h3; simp [sGet]
        · simp [sGet, h3, Ne.symm h3]
      · rename_i h1 h2
        simp only [sGet, ih]
        by_cases h3 : k = p
        · subst h3; simp [h2]
        · simp [h3]

theorem sGet_sDel (d : α) (m : Store α) (q p : Nat) :
    sGet d (sDel m q) p = if p = q then d else sGet d m p := by
  induction m with
  | nil => simp [sDel, sGet]
  | cons e r ih =>
    obtain ⟨k, v⟩ := e
    by_cases h : k = q
    · have : sDel ((k, v) :: r) q = sDel r q := by simp [sDel, h]
      rw [this, ih]
      simp only [sGet]; split <;> [rfl; (split <;> simp_all)]
    · have : sDel ((k, v) :: r) q = (k, v) :: sDel r q := by simp [sDel, h]
      rw [this]
      simp only [sGet, ih]
      split <;> split <;> simp_all

theorem sGet_sPut [DecidableEq α] (d : α) (m : Store α) (q p : Nat) (w : α) :
    sGet d (sPut d m q w) p = if p = q then w else sGet d m p := by
  unfold sPut
  split
  · rename_i h; rw [sGet_sDel, h]
  · exact sGet_sSet d m q p w

@[simp] theorem sGet_sPut_same [DecidableEq α] (d : α) (m : Store α) (q : Nat) (w : α) : sGet d (sPut d m q w) q = w := by
  rw [sGet_sPut, if_pos rfl]

theorem sGet_sPut_other [DecidableEq α] (d : α) (m : Store α) {q p : Nat} (w : α) (h : p ≠ q) :
    sGet d (sPut d m q w) p = sGet d m p := by
  rw [sGet_sPut, if_neg h]

theorem sFind_sSet (m : Store α) (q p : Nat) (w : α) :
    sFind (sSet m q w) p = if p = q then some w else sFind m p := by
  induction m with
  | nil => by_cases h : q = p <;> simp [sSet, sFind, h, eq_comm]
  | cons e r ih =>
    obtain ⟨k, v⟩ := e
    simp only [sSet]
    split
    · by_cases h3 : q = p
      · subst h3; simp [sFind]
      · simp [sFind, h3, Ne.symm h3]
    · split
      · rename_i h1 h2
        subst h2
        by_cases h3 : k = p
        · subst h3; simp [sFind]
        · simp [sFind, h3, Ne.symm h3]
      · rename_i h1 h2
        simp only [sFind, ih]
        by_cases h3 : k = p
        · subst h3; simp [h2]
        · simp [h3]

theorem sFind_sDel (m : Store α) (q p : Nat) :
    sFind (sDel m q) p = if p = q then none else sFind m p := by
  induction m with
  | nil => simp [sDel, sFind]
  | cons e r ih =>
    obtain ⟨k, v⟩ := e
    by_cases h : k = q
    · have : sDel ((k, v) :: r) q = sDel r q := by simp [sDel, h]
      rw [this, ih]
      simp only [sFind]; split <;> [rfl; (split <;> simp_all)]
    · have : sDel ((k, v) :: r) q = (k, v) :: sDel r q := by simp [sDel, h]
      rw [this]
      simp only [sFind, ih]
      split <;> split <;> simp_all

@[simp] theorem sFind_sSet_same (m : Store α) (q : Nat) (w : α) : sFind (sSet m q w) q = some w := by
  rw [sFind_sSet, if_pos rfl]

/-- A store's default is what a missing entry reads as. -/
theorem sGet_eq_sFind (d : α) (m : Store α) (q : Nat) : sGet d m q = (sFind m q).getD d := by
  induction m with
  | nil => rfl
  | cons e r ih =>
    obtain ⟨k, v⟩ := e
    simp only [sGet, sFind]
    split
    · rfl
    · exact ih

/-! Bytes. -/

/-- Writing bytes at an address changes those bytes and no other. -/
theorem sGet_putBytes (m : Store W8) (a p : Nat) (bs : Bytes) :
    sGet 0 (putBytes m a bs) p = if a ≤ p ∧ p < a + bs.length then bs.getD (p - a) 0 else sGet 0 m p := by
  induction bs generalizing m a with
  | nil => simp [putBytes]
  | cons b r ih =>
    rw [putBytes, ih, sGet_sPut]
    simp only [List.length_cons]
    by_cases h1 : p = a
    · subst h1; simp
    · by_cases h2 : a + 1 ≤ p ∧ p < a + 1 + r.length
      · rw [if_pos h2, if_pos (by omega)]
        have : p - a = (p - (a + 1)) + 1 := by omega
        rw [this]; rfl
      · rw [if_neg h2, if_neg h1, if_neg (by omega)]

theorem getBytes_length (m : Store W8) (a n : Nat) : (getBytes m a n).length = n := by
  induction n generalizing a with
  | zero => rfl
  | succ n ih => simp [getBytes, ih]

theorem getBytes_getD (m : Store W8) (a n i : Nat) (h : i < n) : (getBytes m a n).getD i 0 = sGet 0 m (a + i) := by
  induction n generalizing a i with
  | zero => omega
  | succ n ih =>
    cases i with
    | zero => rfl
    | succ i =>
      have := ih (a + 1) i (by omega)
      simp only [getBytes, List.getD_cons_succ, this]
      congr 1; omega

/-- Reading back bytes just written. -/
theorem getBytes_putBytes (m : Store W8) (a : Nat) (bs : Bytes) : getBytes (putBytes m a bs) a bs.length = bs := by
  apply List.ext_getElem?
  intro i
  by_cases h : i < bs.length
  · have h1 := getBytes_getD (putBytes m a bs) a bs.length i h
    rw [sGet_putBytes, if_pos (by omega)] at h1
    have e : a + i - a = i := by omega
    rw [e] at h1
    have l := getBytes_length (putBytes m a bs) a bs.length
    simp only [List.getD_eq_getElem?_getD] at h1
    rw [List.getElem?_eq_getElem (by omega), List.getElem?_eq_getElem h] at h1 ⊢
    simpa using h1
  · have l := getBytes_length (putBytes m a bs) a bs.length
    rw [List.getElem?_eq_none (by omega), List.getElem?_eq_none (by omega)]

/-! The canonical form. -/

theorem mem_sSet (m : Store α) (q : Nat) (w : α) {e : Nat × α} (h : e ∈ sSet m q w) : e = (q, w) ∨ e ∈ m := by
  induction m with
  | nil => simpa [sSet] using h
  | cons x r ih =>
    obtain ⟨k, v⟩ := x
    simp only [sSet] at h
    split at h
    · simpa using h
    · split at h
      · rcases List.mem_cons.1 h with h | h
        · exact .inl h
        · exact .inr (List.mem_cons_of_mem _ h)
      · rcases List.mem_cons.1 h with h | h
        · exact .inr (h ▸ List.mem_cons_self ..)
        · rcases ih h with h | h
          · exact .inl h
          · exact .inr (List.mem_cons_of_mem _ h)

section
variable [DecidableEq α]

theorem sWf_cons (d : α) (k : Nat) (v : α) (r : Store α) :
    sWf d ((k, v) :: r) = true ↔ v ≠ d ∧ (∀ e ∈ r, k < e.1) ∧ sWf d r = true := by
  simp [sWf, and_assoc]

theorem sWf_sSet (d : α) (m : Store α) (q : Nat) (w : α) (hw : w ≠ d) (h : sWf d m = true) : sWf d (sSet m q w) = true := by
  induction m with
  | nil => simp [sSet, sWf, hw]
  | cons x r ih =>
    obtain ⟨k, v⟩ := x
    rw [sWf_cons] at h
    obtain ⟨hv, hk, hr⟩ := h
    simp only [sSet]
    split
    · rename_i hq
      rw [sWf_cons]
      refine ⟨hw, ?_, (sWf_cons d k v r).2 ⟨hv, hk, hr⟩⟩
      intro e he
      rcases List.mem_cons.1 he with he | he
      · subst he; exact hq
      · exact lt_trans hq (hk e he)
    · split
      · rename_i h1 h2
        subst h2
        exact (sWf_cons d k w r).2 ⟨hw, hk, hr⟩
      · rename_i h1 h2
        rw [sWf_cons]
        refine ⟨hv, ?_, ih hr⟩
        intro e he
        rcases mem_sSet r q w he with he | he
        · subst he; simp only; omega
        · exact hk e he

theorem sWf_filter (d : α) (m : Store α) (p : Nat × α → Bool) (h : sWf d m = true) : sWf d (m.filter p) = true := by
  induction m with
  | nil => simpa using h
  | cons x r ih =>
    obtain ⟨k, v⟩ := x
    rw [sWf_cons] at h
    obtain ⟨hv, hk, hr⟩ := h
    simp only [List.filter]
    split
    · exact (sWf_cons ..).2 ⟨hv, fun e he => hk e (List.mem_of_mem_filter he), ih hr⟩
    · exact ih hr

theorem sWf_sPut (d : α) (m : Store α) (q : Nat) (w : α) (h : sWf d m = true) : sWf d (sPut d m q w) = true := by
  unfold sPut
  split
  · exact sWf_filter d m _ h
  · exact sWf_sSet d m q w ‹_› h

end

theorem sWf_putBytes (m : Store W8) (a : Nat) (bs : Bytes) (h : sWf 0 m = true) : sWf 0 (putBytes m a bs) = true := by
  induction bs generalizing m a with
  | nil => exact h
  | cons b r ih => exact ih _ _ (sWf_sPut 0 m a b h)

end Sys2Proof.Machine
end

