-- ==== Sys2Proof/Laws/State.lean ====
section
/-! SUPPORT. What the setters of the device change and leave: one lemma for each part of the state and each setter. -/

namespace Sys2Proof.Machine

variable (d : Dev) (n m : Nat)

/-! Reading back what a setter wrote. -/

@[simp] theorem getCore_setCore (x : CoreSt) : getCore (setCore n x d) n = x := by simp [getCore, setCore]
theorem getCore_setCore_ne (x : CoreSt) (h : m ≠ n) : getCore (setCore n x d) m = getCore d m := by
  simp [getCore, setCore, sGet_sPut_other _ _ _ h]

@[simp] theorem getCore_modCore (f : CoreSt → CoreSt) : getCore (modCore n f d) n = f (getCore d n) := by simp [modCore]
theorem getCore_modCore_ne (f : CoreSt → CoreSt) (h : m ≠ n) : getCore (modCore n f d) m = getCore d m := by
  simp [modCore, getCore_setCore_ne _ _ _ _ h]

@[simp] theorem getDie_setDie (x : DieSt) : getDie (setDie n x d) n = x := by simp [getDie, setDie]
theorem getDie_setDie_ne (x : DieSt) (h : m ≠ n) : getDie (setDie n x d) m = getDie d m := by
  simp [getDie, setDie, sGet_sPut_other _ _ _ h]

@[simp] theorem getDie_modDie (f : DieSt → DieSt) : getDie (modDie n f d) n = f (getDie d n) := by simp [modDie]
theorem getDie_modDie_ne (f : DieSt → DieSt) (h : m ≠ n) : getDie (modDie n f d) m = getDie d m := by
  simp [modDie, getDie_setDie_ne _ _ _ _ h]

@[simp] theorem getTile_setTile (x : TileRec) : getTile (setTile n x d) n = x := by simp [getTile, setTile]
theorem getTile_setTile_ne (x : TileRec) (h : m ≠ n) : getTile (setTile n x d) m = getTile d m := by
  simp [getTile, setTile, sGet_sPut_other _ _ _ h]

@[simp] theorem getPlane_setPlane (x : PlaneSt) : getPlane (setPlane n x d) n = x := by simp [getPlane, setPlane]
theorem getPlane_setPlane_ne (x : PlaneSt) (h : m ≠ n) : getPlane (setPlane n x d) m = getPlane d m := by
  simp [getPlane, setPlane, sGet_sPut_other _ _ _ h]

@[simp] theorem getPlane_modPlane (f : PlaneSt → PlaneSt) : getPlane (modPlane n f d) n = f (getPlane d n) := by simp [modPlane]
theorem getPlane_modPlane_ne (f : PlaneSt → PlaneSt) (h : m ≠ n) : getPlane (modPlane n f d) m = getPlane d m := by
  simp [modPlane, getPlane_setPlane_ne _ _ _ _ h]

@[simp] theorem getHandle_setHandle (x : HandleEnt) : getHandle (setHandle n x d) n = x := by simp [getHandle, setHandle]
theorem getHandle_setHandle_ne (x : HandleEnt) (h : m ≠ n) : getHandle (setHandle n x d) m = getHandle d m := by
  simp [getHandle, setHandle, sGet_sPut_other _ _ _ h]

@[simp] theorem getFn_setFn (x : FnSt) : getFn (setFn n x d) n = x := by simp [getFn, setFn]
theorem getFn_setFn_ne (x : FnSt) (h : m ≠ n) : getFn (setFn n x d) m = getFn d m := by
  simp [getFn, setFn, sGet_sPut_other _ _ _ h]

@[simp] theorem getPort_setPort (x : PortSt) : getPort (setPort n x d) n = x := by simp [getPort, setPort]
theorem getPort_setPort_ne (x : PortSt) (h : m ≠ n) : getPort (setPort n x d) m = getPort d m := by
  simp [getPort, setPort, sGet_sPut_other _ _ _ h]

@[simp] theorem getPort_modPort (f : PortSt → PortSt) : getPort (modPort n f d) n = f (getPort d n) := by simp [modPort]
theorem getPort_modPort_ne (f : PortSt → PortSt) (h : m ≠ n) : getPort (modPort n f d) m = getPort d m := by
  simp [modPort, getPort_setPort_ne _ _ _ _ h]

@[simp] theorem getStage_setStage (x : StageSt) : getStage (setStage n x d) n = x := by simp [getStage, setStage]
theorem getStage_setStage_ne (x : StageSt) (h : m ≠ n) : getStage (setStage n x d) m = getStage d m := by
  simp [getStage, setStage, sGet_sPut_other _ _ _ h]

@[simp] theorem getStage_modStage (f : StageSt → StageSt) : getStage (modStage n f d) n = f (getStage d n) := by simp [modStage]
theorem getStage_modStage_ne (f : StageSt → StageSt) (h : m ≠ n) : getStage (modStage n f d) m = getStage d m := by
  simp [modStage, getStage_setStage_ne _ _ _ _ h]

@[simp] theorem getIsland_setIsland (x : IslandSt) : getIsland (setIsland n x d) n = x := by simp [getIsland, setIsland]
theorem getIsland_setIsland_ne (x : IslandSt) (h : m ≠ n) : getIsland (setIsland n x d) m = getIsland d m := by
  simp [getIsland, setIsland, sGet_sPut_other _ _ _ h]

@[simp] theorem getDom_setDom (x : DomSt) : getDom (setDom n x d) n = x := by simp [getDom, setDom]
theorem getDom_setDom_ne (x : DomSt) (h : m ≠ n) : getDom (setDom n x d) m = getDom d m := by
  simp [getDom, setDom, sGet_sPut_other _ _ _ h]

@[simp] theorem getDom_modDom (f : DomSt → DomSt) : getDom (modDom n f d) n = f (getDom d n) := by simp [modDom]
theorem getDom_modDom_ne (f : DomSt → DomSt) (h : m ≠ n) : getDom (modDom n f d) m = getDom d m := by
  simp [modDom, getDom_setDom_ne _ _ _ _ h]

@[simp] theorem getCtx_setCtx (x : CtxSt) : getCtx (setCtx n x d) n = some x := by simp [getCtx, setCtx]

@[simp] theorem getSess_setSess (x : SessSt) : getSess (setSess n x d) n = some x := by simp [getSess, setSess]

/-! Parts of the device that a setter leaves. -/

@[simp] theorem setCore_time (x : CoreSt) : (setCore n x d).time = d.time := rfl
@[simp] theorem setCore_log (x : CoreSt) : (setCore n x d).log = d.log := rfl
@[simp] theorem setCore_num (x : CoreSt) : (setCore n x d).num = d.num := rfl
@[simp] theorem setCore_arr (x : CoreSt) : (setCore n x d).arr = d.arr := rfl
@[simp] theorem setCore_rel (x : CoreSt) : (setCore n x d).rel = d.rel := rfl
@[simp] theorem setCore_att (x : CoreSt) : (setCore n x d).att = d.att := rfl
@[simp] theorem setCore_pwr (x : CoreSt) : (setCore n x d).pwr = d.pwr := rfl
@[simp] theorem setCore_lmp (x : CoreSt) : (setCore n x d).lmp = d.lmp := rfl
@[simp] theorem setCore_adc (x : CoreSt) : (setCore n x d).adc = d.adc := rfl
@[simp] theorem setCore_nor (x : CoreSt) : (setCore n x d).nor = d.nor := rfl
@[simp] theorem setCore_pins (x : CoreSt) : (setCore n x d).pins = d.pins := rfl
@[simp] theorem setCore_sec (x : CoreSt) : (setCore n x d).sec = d.sec := rfl
@[simp] theorem setCore_hif (x : CoreSt) : (setCore n x d).hif = d.hif := rfl
@[simp] theorem setCore_plc (x : CoreSt) : (setCore n x d).plc = d.plc := rfl
@[simp] theorem setCore_srv (x : CoreSt) : (setCore n x d).srv = d.srv := rfl
@[simp] theorem setCore_fab (x : CoreSt) : (setCore n x d).fab = d.fab := rfl
@[simp] theorem setCore_hbm (x : CoreSt) : (setCore n x d).hbm = d.hbm := rfl
@[simp] theorem setCore_cfg (x : CoreSt) : (setCore n x d).cfg = d.cfg := rfl
@[simp] theorem setCore_out (x : CoreSt) : (setCore n x d).out = d.out := rfl
@[simp] theorem setCore_freeCtr (x : CoreSt) : (setCore n x d).freeCtr = d.freeCtr := rfl

@[simp] theorem setDie_time (x : DieSt) : (setDie n x d).time = d.time := rfl
@[simp] theorem setDie_log (x : DieSt) : (setDie n x d).log = d.log := rfl
@[simp] theorem setDie_grid (x : DieSt) : (setDie n x d).grid = d.grid := rfl
@[simp] theorem setDie_num (x : DieSt) : (setDie n x d).num = d.num := rfl
@[simp] theorem setDie_rel (x : DieSt) : (setDie n x d).rel = d.rel := rfl
@[simp] theorem setDie_att (x : DieSt) : (setDie n x d).att = d.att := rfl
@[simp] theorem setDie_pwr (x : DieSt) : (setDie n x d).pwr = d.pwr := rfl
@[simp] theorem setDie_lmp (x : DieSt) : (setDie n x d).lmp = d.lmp := rfl
@[simp] theorem setDie_adc (x : DieSt) : (setDie n x d).adc = d.adc := rfl
@[simp] theorem setDie_nor (x : DieSt) : (setDie n x d).nor = d.nor := rfl
@[simp] theorem setDie_pins (x : DieSt) : (setDie n x d).pins = d.pins := rfl
@[simp] theorem setDie_sec (x : DieSt) : (setDie n x d).sec = d.sec := rfl
@[simp] theorem setDie_hif (x : DieSt) : (setDie n x d).hif = d.hif := rfl
@[simp] theorem setDie_plc (x : DieSt) : (setDie n x d).plc = d.plc := rfl
@[simp] theorem setDie_srv (x : DieSt) : (setDie n x d).srv = d.srv := rfl
@[simp] theorem setDie_fab (x : DieSt) : (setDie n x d).fab = d.fab := rfl
@[simp] theorem setDie_hbm (x : DieSt) : (setDie n x d).hbm = d.hbm := rfl
@[simp] theorem setDie_cfg (x : DieSt) : (setDie n x d).cfg = d.cfg := rfl
@[simp] theorem setDie_out (x : DieSt) : (setDie n x d).out = d.out := rfl
@[simp] theorem setDie_freeCtr (x : DieSt) : (setDie n x d).freeCtr = d.freeCtr := rfl

@[simp] theorem setTile_time (x : TileRec) : (setTile n x d).time = d.time := rfl
@[simp] theorem setTile_log (x : TileRec) : (setTile n x d).log = d.log := rfl
@[simp] theorem setTile_grid (x : TileRec) : (setTile n x d).grid = d.grid := rfl
@[simp] theorem setTile_num (x : TileRec) : (setTile n x d).num = d.num := rfl
@[simp] theorem setTile_rel (x : TileRec) : (setTile n x d).rel = d.rel := rfl
@[simp] theorem setTile_att (x : TileRec) : (setTile n x d).att = d.att := rfl
@[simp] theorem setTile_pwr (x : TileRec) : (setTile n x d).pwr = d.pwr := rfl
@[simp] theorem setTile_lmp (x : TileRec) : (setTile n x d).lmp = d.lmp := rfl
@[simp] theorem setTile_adc (x : TileRec) : (setTile n x d).adc = d.adc := rfl
@[simp] theorem setTile_nor (x : TileRec) : (setTile n x d).nor = d.nor := rfl
@[simp] theorem setTile_pins (x : TileRec) : (setTile n x d).pins = d.pins := rfl
@[simp] theorem setTile_sec (x : TileRec) : (setTile n x d).sec = d.sec := rfl
@[simp] theorem setTile_hif (x : TileRec) : (setTile n x d).hif = d.hif := rfl
@[simp] theorem setTile_plc (x : TileRec) : (setTile n x d).plc = d.plc := rfl
@[simp] theorem setTile_srv (x : TileRec) : (setTile n x d).srv = d.srv := rfl
@[simp] theorem setTile_fab (x : TileRec) : (setTile n x d).fab = d.fab := rfl
@[simp] theorem setTile_hbm (x : TileRec) : (setTile n x d).hbm = d.hbm := rfl
@[simp] theorem setTile_cfg (x : TileRec) : (setTile n x d).cfg = d.cfg := rfl
@[simp] theorem setTile_out (x : TileRec) : (setTile n x d).out = d.out := rfl
@[simp] theorem setTile_freeCtr (x : TileRec) : (setTile n x d).freeCtr = d.freeCtr := rfl

@[simp] theorem setPlane_time (x : PlaneSt) : (setPlane n x d).time = d.time := rfl
@[simp] theorem setPlane_log (x : PlaneSt) : (setPlane n x d).log = d.log := rfl
@[simp] theorem setPlane_grid (x : PlaneSt) : (setPlane n x d).grid = d.grid := rfl
@[simp] theorem setPlane_num (x : PlaneSt) : (setPlane n x d).num = d.num := rfl
@[simp] theorem setPlane_rel (x : PlaneSt) : (setPlane n x d).rel = d.rel := rfl
@[simp] theorem setPlane_att (x : PlaneSt) : (setPlane n x d).att = d.att := rfl
@[simp] theorem setPlane_pwr (x : PlaneSt) : (setPlane n x d).pwr = d.pwr := rfl
@[simp] theorem setPlane_lmp (x : PlaneSt) : (setPlane n x d).lmp = d.lmp := rfl
@[simp] theorem setPlane_adc (x : PlaneSt) : (setPlane n x d).adc = d.adc := rfl
@[simp] theorem setPlane_nor (x : PlaneSt) : (setPlane n x d).nor = d.nor := rfl
@[simp] theorem setPlane_pins (x : PlaneSt) : (setPlane n x d).pins = d.pins := rfl
@[simp] theorem setPlane_sec (x : PlaneSt) : (setPlane n x d).sec = d.sec := rfl
@[simp] theorem setPlane_hif (x : PlaneSt) : (setPlane n x d).hif = d.hif := rfl
@[simp] theorem setPlane_plc (x : PlaneSt) : (setPlane n x d).plc = d.plc := rfl
@[simp] theorem setPlane_srv (x : PlaneSt) : (setPlane n x d).srv = d.srv := rfl
@[simp] theorem setPlane_fab (x : PlaneSt) : (setPlane n x d).fab = d.fab := rfl
@[simp] theorem setPlane_hbm (x : PlaneSt) : (setPlane n x d).hbm = d.hbm := rfl
@[simp] theorem setPlane_cfg (x : PlaneSt) : (setPlane n x d).cfg = d.cfg := rfl
@[simp] theorem setPlane_out (x : PlaneSt) : (setPlane n x d).out = d.out := rfl
@[simp] theorem setPlane_freeCtr (x : PlaneSt) : (setPlane n x d).freeCtr = d.freeCtr := rfl

@[simp] theorem setHandle_time (x : HandleEnt) : (setHandle n x d).time = d.time := rfl
@[simp] theorem setHandle_log (x : HandleEnt) : (setHandle n x d).log = d.log := rfl
@[simp] theorem setHandle_grid (x : HandleEnt) : (setHandle n x d).grid = d.grid := rfl
@[simp] theorem setHandle_num (x : HandleEnt) : (setHandle n x d).num = d.num := rfl
@[simp] theorem setHandle_rel (x : HandleEnt) : (setHandle n x d).rel = d.rel := rfl
@[simp] theorem setHandle_att (x : HandleEnt) : (setHandle n x d).att = d.att := rfl
@[simp] theorem setHandle_pwr (x : HandleEnt) : (setHandle n x d).pwr = d.pwr := rfl
@[simp] theorem setHandle_lmp (x : HandleEnt) : (setHandle n x d).lmp = d.lmp := rfl
@[simp] theorem setHandle_adc (x : HandleEnt) : (setHandle n x d).adc = d.adc := rfl
@[simp] theorem setHandle_nor (x : HandleEnt) : (setHandle n x d).nor = d.nor := rfl
@[simp] theorem setHandle_pins (x : HandleEnt) : (setHandle n x d).pins = d.pins := rfl
@[simp] theorem setHandle_sec (x : HandleEnt) : (setHandle n x d).sec = d.sec := rfl
@[simp] theorem setHandle_hif (x : HandleEnt) : (setHandle n x d).hif = d.hif := rfl
@[simp] theorem setHandle_plc (x : HandleEnt) : (setHandle n x d).plc = d.plc := rfl
@[simp] theorem setHandle_srv (x : HandleEnt) : (setHandle n x d).srv = d.srv := rfl
@[simp] theorem setHandle_fab (x : HandleEnt) : (setHandle n x d).fab = d.fab := rfl
@[simp] theorem setHandle_hbm (x : HandleEnt) : (setHandle n x d).hbm = d.hbm := rfl
@[simp] theorem setHandle_cfg (x : HandleEnt) : (setHandle n x d).cfg = d.cfg := rfl
@[simp] theorem setHandle_out (x : HandleEnt) : (setHandle n x d).out = d.out := rfl
@[simp] theorem setHandle_freeCtr (x : HandleEnt) : (setHandle n x d).freeCtr = d.freeCtr := rfl

@[simp] theorem setFn_time (x : FnSt) : (setFn n x d).time = d.time := rfl
@[simp] theorem setFn_log (x : FnSt) : (setFn n x d).log = d.log := rfl
@[simp] theorem setFn_grid (x : FnSt) : (setFn n x d).grid = d.grid := rfl
@[simp] theorem setFn_num (x : FnSt) : (setFn n x d).num = d.num := rfl
@[simp] theorem setFn_arr (x : FnSt) : (setFn n x d).arr = d.arr := rfl
@[simp] theorem setFn_rel (x : FnSt) : (setFn n x d).rel = d.rel := rfl
@[simp] theorem setFn_att (x : FnSt) : (setFn n x d).att = d.att := rfl
@[simp] theorem setFn_pwr (x : FnSt) : (setFn n x d).pwr = d.pwr := rfl
@[simp] theorem setFn_lmp (x : FnSt) : (setFn n x d).lmp = d.lmp := rfl
@[simp] theorem setFn_adc (x : FnSt) : (setFn n x d).adc = d.adc := rfl
@[simp] theorem setFn_nor (x : FnSt) : (setFn n x d).nor = d.nor := rfl
@[simp] theorem setFn_pins (x : FnSt) : (setFn n x d).pins = d.pins := rfl
@[simp] theorem setFn_sec (x : FnSt) : (setFn n x d).sec = d.sec := rfl
@[simp] theorem setFn_plc (x : FnSt) : (setFn n x d).plc = d.plc := rfl
@[simp] theorem setFn_srv (x : FnSt) : (setFn n x d).srv = d.srv := rfl
@[simp] theorem setFn_fab (x : FnSt) : (setFn n x d).fab = d.fab := rfl
@[simp] theorem setFn_hbm (x : FnSt) : (setFn n x d).hbm = d.hbm := rfl
@[simp] theorem setFn_cfg (x : FnSt) : (setFn n x d).cfg = d.cfg := rfl
@[simp] theorem setFn_out (x : FnSt) : (setFn n x d).out = d.out := rfl
@[simp] theorem setFn_freeCtr (x : FnSt) : (setFn n x d).freeCtr = d.freeCtr := rfl

@[simp] theorem setPort_time (x : PortSt) : (setPort n x d).time = d.time := rfl
@[simp] theorem setPort_log (x : PortSt) : (setPort n x d).log = d.log := rfl
@[simp] theorem setPort_grid (x : PortSt) : (setPort n x d).grid = d.grid := rfl
@[simp] theorem setPort_num (x : PortSt) : (setPort n x d).num = d.num := rfl
@[simp] theorem setPort_arr (x : PortSt) : (setPort n x d).arr = d.arr := rfl
@[simp] theorem setPort_rel (x : PortSt) : (setPort n x d).rel = d.rel := rfl
@[simp] theorem setPort_att (x : PortSt) : (setPort n x d).att = d.att := rfl
@[simp] theorem setPort_pwr (x : PortSt) : (setPort n x d).pwr = d.pwr := rfl
@[simp] theorem setPort_lmp (x : PortSt) : (setPort n x d).lmp = d.lmp := rfl
@[simp] theorem setPort_adc (x : PortSt) : (setPort n x d).adc = d.adc := rfl
@[simp] theorem setPort_nor (x : PortSt) : (setPort n x d).nor = d.nor := rfl
@[simp] theorem setPort_pins (x : PortSt) : (setPort n x d).pins = d.pins := rfl
@[simp] theorem setPort_sec (x : PortSt) : (setPort n x d).sec = d.sec := rfl
@[simp] theorem setPort_hif (x : PortSt) : (setPort n x d).hif = d.hif := rfl
@[simp] theorem setPort_plc (x : PortSt) : (setPort n x d).plc = d.plc := rfl
@[simp] theorem setPort_srv (x : PortSt) : (setPort n x d).srv = d.srv := rfl
@[simp] theorem setPort_hbm (x : PortSt) : (setPort n x d).hbm = d.hbm := rfl
@[simp] theorem setPort_cfg (x : PortSt) : (setPort n x d).cfg = d.cfg := rfl
@[simp] theorem setPort_out (x : PortSt) : (setPort n x d).out = d.out := rfl
@[simp] theorem setPort_freeCtr (x : PortSt) : (setPort n x d).freeCtr = d.freeCtr := rfl

@[simp] theorem setStage_time (x : StageSt) : (setStage n x d).time = d.time := rfl
@[simp] theorem setStage_log (x : StageSt) : (setStage n x d).log = d.log := rfl
@[simp] theorem setStage_grid (x : StageSt) : (setStage n x d).grid = d.grid := rfl
@[simp] theorem setStage_num (x : StageSt) : (setStage n x d).num = d.num := rfl
@[simp] theorem setStage_arr (x : StageSt) : (setStage n x d).arr = d.arr := rfl
@[simp] theorem setStage_rel (x : StageSt) : (setStage n x d).rel = d.rel := rfl
@[simp] theorem setStage_att (x : StageSt) : (setStage n x d).att = d.att := rfl
@[simp] theorem setStage_lmp (x : StageSt) : (setStage n x d).lmp = d.lmp := rfl
@[simp] theorem setStage_adc (x : StageSt) : (setStage n x d).adc = d.adc := rfl
@[simp] theorem setStage_nor (x : StageSt) : (setStage n x d).nor = d.nor := rfl
@[simp] theorem setStage_pins (x : StageSt) : (setStage n x d).pins = d.pins := rfl
@[simp] theorem setStage_sec (x : StageSt) : (setStage n x d).sec = d.sec := rfl
@[simp] theorem setStage_hif (x : StageSt) : (setStage n x d).hif = d.hif := rfl
@[simp] theorem setStage_plc (x : StageSt) : (setStage n x d).plc = d.plc := rfl
@[simp] theorem setStage_srv (x : StageSt) : (setStage n x d).srv = d.srv := rfl
@[simp] theorem setStage_fab (x : StageSt) : (setStage n x d).fab = d.fab := rfl
@[simp] theorem setStage_hbm (x : StageSt) : (setStage n x d).hbm = d.hbm := rfl
@[simp] theorem setStage_cfg (x : StageSt) : (setStage n x d).cfg = d.cfg := rfl
@[simp] theorem setStage_out (x : StageSt) : (setStage n x d).out = d.out := rfl
@[simp] theorem setStage_freeCtr (x : StageSt) : (setStage n x d).freeCtr = d.freeCtr := rfl

@[simp] theorem setIsland_time (x : IslandSt) : (setIsland n x d).time = d.time := rfl
@[simp] theorem setIsland_log (x : IslandSt) : (setIsland n x d).log = d.log := rfl
@[simp] theorem setIsland_grid (x : IslandSt) : (setIsland n x d).grid = d.grid := rfl
@[simp] theorem setIsland_num (x : IslandSt) : (setIsland n x d).num = d.num := rfl
@[simp] theorem setIsland_arr (x : IslandSt) : (setIsland n x d).arr = d.arr := rfl
@[simp] theorem setIsland_rel (x : IslandSt) : (setIsland n x d).rel = d.rel := rfl
@[simp] theorem setIsland_att (x : IslandSt) : (setIsland n x d).att = d.att := rfl
@[simp] theorem setIsland_lmp (x : IslandSt) : (setIsland n x d).lmp = d.lmp := rfl
@[simp] theorem setIsland_adc (x : IslandSt) : (setIsland n x d).adc = d.adc := rfl
@[simp] theorem setIsland_nor (x : IslandSt) : (setIsland n x d).nor = d.nor := rfl
@[simp] theorem setIsland_pins (x : IslandSt) : (setIsland n x d).pins = d.pins := rfl
@[simp] theorem setIsland_sec (x : IslandSt) : (setIsland n x d).sec = d.sec := rfl
@[simp] theorem setIsland_hif (x : IslandSt) : (setIsland n x d).hif = d.hif := rfl
@[simp] theorem setIsland_plc (x : IslandSt) : (setIsland n x d).plc = d.plc := rfl
@[simp] theorem setIsland_srv (x : IslandSt) : (setIsland n x d).srv = d.srv := rfl
@[simp] theorem setIsland_fab (x : IslandSt) : (setIsland n x d).fab = d.fab := rfl
@[simp] theorem setIsland_hbm (x : IslandSt) : (setIsland n x d).hbm = d.hbm := rfl
@[simp] theorem setIsland_cfg (x : IslandSt) : (setIsland n x d).cfg = d.cfg := rfl
@[simp] theorem setIsland_out (x : IslandSt) : (setIsland n x d).out = d.out := rfl
@[simp] theorem setIsland_freeCtr (x : IslandSt) : (setIsland n x d).freeCtr = d.freeCtr := rfl

@[simp] theorem setDom_time (x : DomSt) : (setDom n x d).time = d.time := rfl
@[simp] theorem setDom_log (x : DomSt) : (setDom n x d).log = d.log := rfl
@[simp] theorem setDom_grid (x : DomSt) : (setDom n x d).grid = d.grid := rfl
@[simp] theorem setDom_num (x : DomSt) : (setDom n x d).num = d.num := rfl
@[simp] theorem setDom_arr (x : DomSt) : (setDom n x d).arr = d.arr := rfl
@[simp] theorem setDom_rel (x : DomSt) : (setDom n x d).rel = d.rel := rfl
@[simp] theorem setDom_att (x : DomSt) : (setDom n x d).att = d.att := rfl
@[simp] theorem setDom_lmp (x : DomSt) : (setDom n x d).lmp = d.lmp := rfl
@[simp] theorem setDom_adc (x : DomSt) : (setDom n x d).adc = d.adc := rfl
@[simp] theorem setDom_nor (x : DomSt) : (setDom n x d).nor = d.nor := rfl
@[simp] theorem setDom_pins (x : DomSt) : (setDom n x d).pins = d.pins := rfl
@[simp] theorem setDom_sec (x : DomSt) : (setDom n x d).sec = d.sec := rfl
@[simp] theorem setDom_hif (x : DomSt) : (setDom n x d).hif = d.hif := rfl
@[simp] theorem setDom_plc (x : DomSt) : (setDom n x d).plc = d.plc := rfl
@[simp] theorem setDom_srv (x : DomSt) : (setDom n x d).srv = d.srv := rfl
@[simp] theorem setDom_fab (x : DomSt) : (setDom n x d).fab = d.fab := rfl
@[simp] theorem setDom_hbm (x : DomSt) : (setDom n x d).hbm = d.hbm := rfl
@[simp] theorem setDom_cfg (x : DomSt) : (setDom n x d).cfg = d.cfg := rfl
@[simp] theorem setDom_out (x : DomSt) : (setDom n x d).out = d.out := rfl
@[simp] theorem setDom_freeCtr (x : DomSt) : (setDom n x d).freeCtr = d.freeCtr := rfl

@[simp] theorem setCtx_time (x : CtxSt) : (setCtx n x d).time = d.time := rfl
@[simp] theorem setCtx_log (x : CtxSt) : (setCtx n x d).log = d.log := rfl
@[simp] theorem setCtx_grid (x : CtxSt) : (setCtx n x d).grid = d.grid := rfl
@[simp] theorem setCtx_num (x : CtxSt) : (setCtx n x d).num = d.num := rfl
@[simp] theorem setCtx_arr (x : CtxSt) : (setCtx n x d).arr = d.arr := rfl
@[simp] theorem setCtx_rel (x : CtxSt) : (setCtx n x d).rel = d.rel := rfl
@[simp] theorem setCtx_att (x : CtxSt) : (setCtx n x d).att = d.att := rfl
@[simp] theorem setCtx_pwr (x : CtxSt) : (setCtx n x d).pwr = d.pwr := rfl
@[simp] theorem setCtx_lmp (x : CtxSt) : (setCtx n x d).lmp = d.lmp := rfl
@[simp] theorem setCtx_adc (x : CtxSt) : (setCtx n x d).adc = d.adc := rfl
@[simp] theorem setCtx_nor (x : CtxSt) : (setCtx n x d).nor = d.nor := rfl
@[simp] theorem setCtx_pins (x : CtxSt) : (setCtx n x d).pins = d.pins := rfl
@[simp] theorem setCtx_sec (x : CtxSt) : (setCtx n x d).sec = d.sec := rfl
@[simp] theorem setCtx_hif (x : CtxSt) : (setCtx n x d).hif = d.hif := rfl
@[simp] theorem setCtx_plc (x : CtxSt) : (setCtx n x d).plc = d.plc := rfl
@[simp] theorem setCtx_fab (x : CtxSt) : (setCtx n x d).fab = d.fab := rfl
@[simp] theorem setCtx_hbm (x : CtxSt) : (setCtx n x d).hbm = d.hbm := rfl
@[simp] theorem setCtx_cfg (x : CtxSt) : (setCtx n x d).cfg = d.cfg := rfl
@[simp] theorem setCtx_out (x : CtxSt) : (setCtx n x d).out = d.out := rfl
@[simp] theorem setCtx_freeCtr (x : CtxSt) : (setCtx n x d).freeCtr = d.freeCtr := rfl

@[simp] theorem setSess_time (x : SessSt) : (setSess n x d).time = d.time := rfl
@[simp] theorem setSess_log (x : SessSt) : (setSess n x d).log = d.log := rfl
@[simp] theorem setSess_grid (x : SessSt) : (setSess n x d).grid = d.grid := rfl
@[simp] theorem setSess_num (x : SessSt) : (setSess n x d).num = d.num := rfl
@[simp] theorem setSess_arr (x : SessSt) : (setSess n x d).arr = d.arr := rfl
@[simp] theorem setSess_rel (x : SessSt) : (setSess n x d).rel = d.rel := rfl
@[simp] theorem setSess_att (x : SessSt) : (setSess n x d).att = d.att := rfl
@[simp] theorem setSess_pwr (x : SessSt) : (setSess n x d).pwr = d.pwr := rfl
@[simp] theorem setSess_lmp (x : SessSt) : (setSess n x d).lmp = d.lmp := rfl
@[simp] theorem setSess_adc (x : SessSt) : (setSess n x d).adc = d.adc := rfl
@[simp] theorem setSess_nor (x : SessSt) : (setSess n x d).nor = d.nor := rfl
@[simp] theorem setSess_pins (x : SessSt) : (setSess n x d).pins = d.pins := rfl
@[simp] theorem setSess_hif (x : SessSt) : (setSess n x d).hif = d.hif := rfl
@[simp] theorem setSess_plc (x : SessSt) : (setSess n x d).plc = d.plc := rfl
@[simp] theorem setSess_srv (x : SessSt) : (setSess n x d).srv = d.srv := rfl
@[simp] theorem setSess_fab (x : SessSt) : (setSess n x d).fab = d.fab := rfl
@[simp] theorem setSess_hbm (x : SessSt) : (setSess n x d).hbm = d.hbm := rfl
@[simp] theorem setSess_cfg (x : SessSt) : (setSess n x d).cfg = d.cfg := rfl
@[simp] theorem setSess_out (x : SessSt) : (setSess n x d).out = d.out := rfl
@[simp] theorem setSess_freeCtr (x : SessSt) : (setSess n x d).freeCtr = d.freeCtr := rfl

@[simp] theorem emit_time (y : Output) : (emit y d).time = d.time := rfl
@[simp] theorem emit_log (y : Output) : (emit y d).log = d.log := rfl
@[simp] theorem emit_grid (y : Output) : (emit y d).grid = d.grid := rfl
@[simp] theorem emit_num (y : Output) : (emit y d).num = d.num := rfl
@[simp] theorem emit_arr (y : Output) : (emit y d).arr = d.arr := rfl
@[simp] theorem emit_rel (y : Output) : (emit y d).rel = d.rel := rfl
@[simp] theorem emit_att (y : Output) : (emit y d).att = d.att := rfl
@[simp] theorem emit_pwr (y : Output) : (emit y d).pwr = d.pwr := rfl
@[simp] theorem emit_lmp (y : Output) : (emit y d).lmp = d.lmp := rfl
@[simp] theorem emit_adc (y : Output) : (emit y d).adc = d.adc := rfl
@[simp] theorem emit_nor (y : Output) : (emit y d).nor = d.nor := rfl
@[simp] theorem emit_pins (y : Output) : (emit y d).pins = d.pins := rfl
@[simp] theorem emit_sec (y : Output) : (emit y d).sec = d.sec := rfl
@[simp] theorem emit_hif (y : Output) : (emit y d).hif = d.hif := rfl
@[simp] theorem emit_plc (y : Output) : (emit y d).plc = d.plc := rfl
@[simp] theorem emit_srv (y : Output) : (emit y d).srv = d.srv := rfl
@[simp] theorem emit_fab (y : Output) : (emit y d).fab = d.fab := rfl
@[simp] theorem emit_hbm (y : Output) : (emit y d).hbm = d.hbm := rfl
@[simp] theorem emit_cfg (y : Output) : (emit y d).cfg = d.cfg := rfl
@[simp] theorem emit_freeCtr (y : Output) : (emit y d).freeCtr = d.freeCtr := rfl
@[simp] theorem emit_out (y : Output) : (emit y d).out = d.out ++ [y] := rfl
@[simp] theorem fresh_time (w : Nat) : (fresh w d).2.time = d.time := rfl
@[simp] theorem fresh_log (w : Nat) : (fresh w d).2.log = d.log := rfl
@[simp] theorem fresh_grid (w : Nat) : (fresh w d).2.grid = d.grid := rfl
@[simp] theorem fresh_num (w : Nat) : (fresh w d).2.num = d.num := rfl
@[simp] theorem fresh_arr (w : Nat) : (fresh w d).2.arr = d.arr := rfl
@[simp] theorem fresh_rel (w : Nat) : (fresh w d).2.rel = d.rel := rfl
@[simp] theorem fresh_att (w : Nat) : (fresh w d).2.att = d.att := rfl
@[simp] theorem fresh_pwr (w : Nat) : (fresh w d).2.pwr = d.pwr := rfl
@[simp] theorem fresh_lmp (w : Nat) : (fresh w d).2.lmp = d.lmp := rfl
@[simp] theorem fresh_adc (w : Nat) : (fresh w d).2.adc = d.adc := rfl
@[simp] theorem fresh_nor (w : Nat) : (fresh w d).2.nor = d.nor := rfl
@[simp] theorem fresh_pins (w : Nat) : (fresh w d).2.pins = d.pins := rfl
@[simp] theorem fresh_sec (w : Nat) : (fresh w d).2.sec = d.sec := rfl
@[simp] theorem fresh_hif (w : Nat) : (fresh w d).2.hif = d.hif := rfl
@[simp] theorem fresh_plc (w : Nat) : (fresh w d).2.plc = d.plc := rfl
@[simp] theorem fresh_srv (w : Nat) : (fresh w d).2.srv = d.srv := rfl
@[simp] theorem fresh_fab (w : Nat) : (fresh w d).2.fab = d.fab := rfl
@[simp] theorem fresh_hbm (w : Nat) : (fresh w d).2.hbm = d.hbm := rfl
@[simp] theorem fresh_cfg (w : Nat) : (fresh w d).2.cfg = d.cfg := rfl
@[simp] theorem fresh_out (w : Nat) : (fresh w d).2.out = d.out := rfl
@[simp] theorem fresh_freeCtr (w : Nat) : (fresh w d).2.freeCtr = d.freeCtr + 1 := rfl

/-! Getters of one part past the setters of another. -/

@[simp] theorem getCore_setDie (x : DieSt) : getCore (setDie m x d) n = getCore d n := rfl
@[simp] theorem getCore_setTile (x : TileRec) : getCore (setTile m x d) n = getCore d n := rfl
@[simp] theorem getCore_setPlane (x : PlaneSt) : getCore (setPlane m x d) n = getCore d n := rfl
@[simp] theorem getCore_setHandle (x : HandleEnt) : getCore (setHandle m x d) n = getCore d n := rfl
@[simp] theorem getCore_setFn (x : FnSt) : getCore (setFn m x d) n = getCore d n := rfl
@[simp] theorem getCore_setPort (x : PortSt) : getCore (setPort m x d) n = getCore d n := rfl
@[simp] theorem getCore_setStage (x : StageSt) : getCore (setStage m x d) n = getCore d n := rfl
@[simp] theorem getCore_setIsland (x : IslandSt) : getCore (setIsland m x d) n = getCore d n := rfl
@[simp] theorem getCore_setDom (x : DomSt) : getCore (setDom m x d) n = getCore d n := rfl
@[simp] theorem getCore_emit (y : Output) : getCore (emit y d) n = getCore d n := rfl
@[simp] theorem getDie_setCore (x : CoreSt) : getDie (setCore m x d) n = getDie d n := rfl
@[simp] theorem getDie_setFn (x : FnSt) : getDie (setFn m x d) n = getDie d n := rfl
@[simp] theorem getDie_setPort (x : PortSt) : getDie (setPort m x d) n = getDie d n := rfl
@[simp] theorem getDie_setStage (x : StageSt) : getDie (setStage m x d) n = getDie d n := rfl
@[simp] theorem getDie_setIsland (x : IslandSt) : getDie (setIsland m x d) n = getDie d n := rfl
@[simp] theorem getDie_setDom (x : DomSt) : getDie (setDom m x d) n = getDie d n := rfl
@[simp] theorem getDie_emit (y : Output) : getDie (emit y d) n = getDie d n := rfl
@[simp] theorem getTile_setCore (x : CoreSt) : getTile (setCore m x d) n = getTile d n := rfl
@[simp] theorem getTile_setFn (x : FnSt) : getTile (setFn m x d) n = getTile d n := rfl
@[simp] theorem getTile_setPort (x : PortSt) : getTile (setPort m x d) n = getTile d n := rfl
@[simp] theorem getTile_setStage (x : StageSt) : getTile (setStage m x d) n = getTile d n := rfl
@[simp] theorem getTile_setIsland (x : IslandSt) : getTile (setIsland m x d) n = getTile d n := rfl
@[simp] theorem getTile_setDom (x : DomSt) : getTile (setDom m x d) n = getTile d n := rfl
@[simp] theorem getTile_emit (y : Output) : getTile (emit y d) n = getTile d n := rfl
@[simp] theorem getPlane_setCore (x : CoreSt) : getPlane (setCore m x d) n = getPlane d n := rfl
@[simp] theorem getPlane_setFn (x : FnSt) : getPlane (setFn m x d) n = getPlane d n := rfl
@[simp] theorem getPlane_setPort (x : PortSt) : getPlane (setPort m x d) n = getPlane d n := rfl
@[simp] theorem getPlane_setStage (x : StageSt) : getPlane (setStage m x d) n = getPlane d n := rfl
@[simp] theorem getPlane_setIsland (x : IslandSt) : getPlane (setIsland m x d) n = getPlane d n := rfl
@[simp] theorem getPlane_setDom (x : DomSt) : getPlane (setDom m x d) n = getPlane d n := rfl
@[simp] theorem getPlane_emit (y : Output) : getPlane (emit y d) n = getPlane d n := rfl
@[simp] theorem getHandle_setCore (x : CoreSt) : getHandle (setCore m x d) n = getHandle d n := rfl
@[simp] theorem getHandle_setFn (x : FnSt) : getHandle (setFn m x d) n = getHandle d n := rfl
@[simp] theorem getHandle_setPort (x : PortSt) : getHandle (setPort m x d) n = getHandle d n := rfl
@[simp] theorem getHandle_setStage (x : StageSt) : getHandle (setStage m x d) n = getHandle d n := rfl
@[simp] theorem getHandle_setIsland (x : IslandSt) : getHandle (setIsland m x d) n = getHandle d n := rfl
@[simp] theorem getHandle_setDom (x : DomSt) : getHandle (setDom m x d) n = getHandle d n := rfl
@[simp] theorem getHandle_emit (y : Output) : getHandle (emit y d) n = getHandle d n := rfl
@[simp] theorem getFn_setCore (x : CoreSt) : getFn (setCore m x d) n = getFn d n := rfl
@[simp] theorem getFn_setDie (x : DieSt) : getFn (setDie m x d) n = getFn d n := rfl
@[simp] theorem getFn_setTile (x : TileRec) : getFn (setTile m x d) n = getFn d n := rfl
@[simp] theorem getFn_setPlane (x : PlaneSt) : getFn (setPlane m x d) n = getFn d n := rfl
@[simp] theorem getFn_setHandle (x : HandleEnt) : getFn (setHandle m x d) n = getFn d n := rfl
@[simp] theorem getFn_setPort (x : PortSt) : getFn (setPort m x d) n = getFn d n := rfl
@[simp] theorem getFn_setStage (x : StageSt) : getFn (setStage m x d) n = getFn d n := rfl
@[simp] theorem getFn_setIsland (x : IslandSt) : getFn (setIsland m x d) n = getFn d n := rfl
@[simp] theorem getFn_setDom (x : DomSt) : getFn (setDom m x d) n = getFn d n := rfl
@[simp] theorem getFn_emit (y : Output) : getFn (emit y d) n = getFn d n := rfl
@[simp] theorem getPort_setCore (x : CoreSt) : getPort (setCore m x d) n = getPort d n := rfl
@[simp] theorem getPort_setDie (x : DieSt) : getPort (setDie m x d) n = getPort d n := rfl
@[simp] theorem getPort_setTile (x : TileRec) : getPort (setTile m x d) n = getPort d n := rfl
@[simp] theorem getPort_setPlane (x : PlaneSt) : getPort (setPlane m x d) n = getPort d n := rfl
@[simp] theorem getPort_setHandle (x : HandleEnt) : getPort (setHandle m x d) n = getPort d n := rfl
@[simp] theorem getPort_setFn (x : FnSt) : getPort (setFn m x d) n = getPort d n := rfl
@[simp] theorem getPort_setStage (x : StageSt) : getPort (setStage m x d) n = getPort d n := rfl
@[simp] theorem getPort_setIsland (x : IslandSt) : getPort (setIsland m x d) n = getPort d n := rfl
@[simp] theorem getPort_setDom (x : DomSt) : getPort (setDom m x d) n = getPort d n := rfl
@[simp] theorem getPort_emit (y : Output) : getPort (emit y d) n = getPort d n := rfl
@[simp] theorem getStage_setCore (x : CoreSt) : getStage (setCore m x d) n = getStage d n := rfl
@[simp] theorem getStage_setDie (x : DieSt) : getStage (setDie m x d) n = getStage d n := rfl
@[simp] theorem getStage_setTile (x : TileRec) : getStage (setTile m x d) n = getStage d n := rfl
@[simp] theorem getStage_setPlane (x : PlaneSt) : getStage (setPlane m x d) n = getStage d n := rfl
@[simp] theorem getStage_setHandle (x : HandleEnt) : getStage (setHandle m x d) n = getStage d n := rfl
@[simp] theorem getStage_setFn (x : FnSt) : getStage (setFn m x d) n = getStage d n := rfl
@[simp] theorem getStage_setPort (x : PortSt) : getStage (setPort m x d) n = getStage d n := rfl
@[simp] theorem getStage_emit (y : Output) : getStage (emit y d) n = getStage d n := rfl
@[simp] theorem getIsland_setCore (x : CoreSt) : getIsland (setCore m x d) n = getIsland d n := rfl
@[simp] theorem getIsland_setDie (x : DieSt) : getIsland (setDie m x d) n = getIsland d n := rfl
@[simp] theorem getIsland_setTile (x : TileRec) : getIsland (setTile m x d) n = getIsland d n := rfl
@[simp] theorem getIsland_setPlane (x : PlaneSt) : getIsland (setPlane m x d) n = getIsland d n := rfl
@[simp] theorem getIsland_setHandle (x : HandleEnt) : getIsland (setHandle m x d) n = getIsland d n := rfl
@[simp] theorem getIsland_setFn (x : FnSt) : getIsland (setFn m x d) n = getIsland d n := rfl
@[simp] theorem getIsland_setPort (x : PortSt) : getIsland (setPort m x d) n = getIsland d n := rfl
@[simp] theorem getIsland_emit (y : Output) : getIsland (emit y d) n = getIsland d n := rfl
@[simp] theorem getDom_setCore (x : CoreSt) : getDom (setCore m x d) n = getDom d n := rfl
@[simp] theorem getDom_setDie (x : DieSt) : getDom (setDie m x d) n = getDom d n := rfl
@[simp] theorem getDom_setTile (x : TileRec) : getDom (setTile m x d) n = getDom d n := rfl
@[simp] theorem getDom_setPlane (x : PlaneSt) : getDom (setPlane m x d) n = getDom d n := rfl
@[simp] theorem getDom_setHandle (x : HandleEnt) : getDom (setHandle m x d) n = getDom d n := rfl
@[simp] theorem getDom_setFn (x : FnSt) : getDom (setFn m x d) n = getDom d n := rfl
@[simp] theorem getDom_setPort (x : PortSt) : getDom (setPort m x d) n = getDom d n := rfl
@[simp] theorem getDom_emit (y : Output) : getDom (emit y d) n = getDom d n := rfl
@[simp] theorem getDie_setTile (x : TileRec) : getDie (setTile m x d) n = getDie d n := rfl
@[simp] theorem getTile_setDie (x : DieSt) : getTile (setDie m x d) n = getTile d n := rfl
@[simp] theorem getDie_setPlane (x : PlaneSt) : getDie (setPlane m x d) n = getDie d n := rfl
@[simp] theorem getPlane_setDie (x : DieSt) : getPlane (setDie m x d) n = getPlane d n := rfl
@[simp] theorem getTile_setPlane (x : PlaneSt) : getTile (setPlane m x d) n = getTile d n := rfl
@[simp] theorem getPlane_setTile (x : TileRec) : getPlane (setTile m x d) n = getPlane d n := rfl
@[simp] theorem getDie_setHandle (x : HandleEnt) : getDie (setHandle m x d) n = getDie d n := rfl
@[simp] theorem getHandle_setDie (x : DieSt) : getHandle (setDie m x d) n = getHandle d n := rfl
@[simp] theorem getTile_setHandle (x : HandleEnt) : getTile (setHandle m x d) n = getTile d n := rfl
@[simp] theorem getHandle_setTile (x : TileRec) : getHandle (setTile m x d) n = getHandle d n := rfl
@[simp] theorem getPlane_setHandle (x : HandleEnt) : getPlane (setHandle m x d) n = getPlane d n := rfl
@[simp] theorem getHandle_setPlane (x : PlaneSt) : getHandle (setPlane m x d) n = getHandle d n := rfl
@[simp] theorem getStage_setIsland (x : IslandSt) : getStage (setIsland m x d) n = getStage d n := rfl
@[simp] theorem getIsland_setStage (x : StageSt) : getIsland (setStage m x d) n = getIsland d n := rfl
@[simp] theorem getStage_setDom (x : DomSt) : getStage (setDom m x d) n = getStage d n := rfl
@[simp] theorem getDom_setStage (x : StageSt) : getDom (setStage m x d) n = getDom d n := rfl
@[simp] theorem getIsland_setDom (x : DomSt) : getIsland (setDom m x d) n = getIsland d n := rfl
@[simp] theorem getDom_setIsland (x : IslandSt) : getDom (setIsland m x d) n = getDom d n := rfl

/-! Registers of a core. -/

variable (c : CoreSt) (i j : Nat)

@[simp] theorem rs_zero : rs c 0 = 0 := rfl
@[simp] theorem rp_zero : rp c 0 = 0xFFFFFFFF := rfl
@[simp] theorem ws_zero (v : W64) : ws 0 v c = c := rfl
@[simp] theorem wp_zero (v : W32) : wp 0 v c = c := rfl
theorem rs_ws_same (v : W64) (h : i ≠ 0) : rs (ws i v c) i = v := by simp [rs, ws, h]
theorem rs_ws_ne (v : W64) (h : j ≠ i) : rs (ws i v c) j = rs c j := by
  by_cases hj : j = 0
  · simp [rs, hj]
  · by_cases hi : i = 0
    · simp [ws, hi]
    · simp [rs, ws, hi, hj, sFind_sSet, h]
@[simp] theorem rv_wv_same (v : BitVec 1024) : rv (wv i v c) i = v := by simp [rv, wv]
theorem rv_wv_ne (v : BitVec 1024) (h : j ≠ i) : rv (wv i v c) j = rv c j := by simp [rv, wv, sFind_sSet, h]
theorem rp_wp_same (v : W32) (h : i ≠ 0) : rp (wp i v c) i = v := by simp [rp, wp, h]
theorem rp_wp_ne (v : W32) (h : j ≠ i) : rp (wp i v c) j = rp c j := by
  by_cases hj : j = 0
  · simp [rp, hj]
  · by_cases hi : i = 0
    · simp [wp, hi]
    · simp [rp, wp, hi, hj, sFind_sSet, h]
@[simp] theorem rc_wc_same (v : RedCtx) : rc (wc i v c) i = v := by simp [rc, wc]

@[simp] theorem ws_v (v : W64) : (ws i v c).v = c.v := by unfold ws; split <;> rfl
@[simp] theorem ws_acc (v : W64) : (ws i v c).acc = c.acc := by unfold ws; split <;> rfl
@[simp] theorem ws_p (v : W64) : (ws i v c).p = c.p := by unfold ws; split <;> rfl
@[simp] theorem ws_ctx (v : W64) : (ws i v c).ctx = c.ctx := by unfold ws; split <;> rfl
@[simp] theorem ws_epoch (v : W64) : (ws i v c).epoch = c.epoch := by unfold ws; split <;> rfl
@[simp] theorem ws_pc (v : W64) : (ws i v c).pc = c.pc := by unfold ws; split <;> rfl
@[simp] theorem ws_sram (v : W64) : (ws i v c).sram = c.sram := by unfold ws; split <;> rfl
@[simp] theorem ws_ch (v : W64) : (ws i v c).ch = c.ch := by unfold ws; split <;> rfl
@[simp] theorem ws_dma (v : W64) : (ws i v c).dma = c.dma := by unfold ws; split <;> rfl
@[simp] theorem ws_calls (v : W64) : (ws i v c).calls = c.calls := by unfold ws; split <;> rfl
@[simp] theorem ws_nextTicket (v : W64) : (ws i v c).nextTicket = c.nextTicket := by unfold ws; split <;> rfl
@[simp] theorem ws_attCall (v : W64) : (ws i v c).attCall = c.attCall := by unfold ws; split <;> rfl
@[simp] theorem ws_attTicket (v : W64) : (ws i v c).attTicket = c.attTicket := by unfold ws; split <;> rfl
@[simp] theorem ws_state (v : W64) : (ws i v c).state = c.state := by unfold ws; split <;> rfl
@[simp] theorem ws_resumeTo (v : W64) : (ws i v c).resumeTo = c.resumeTo := by unfold ws; split <;> rfl
@[simp] theorem ws_stalled (v : W64) : (ws i v c).stalled = c.stalled := by unfold ws; split <;> rfl
@[simp] theorem ws_cause (v : W64) : (ws i v c).cause = c.cause := by unfold ws; split <;> rfl
@[simp] theorem ws_req (v : W64) : (ws i v c).req = c.req := by unfold ws; split <;> rfl
@[simp] theorem ws_actual (v : W64) : (ws i v c).actual = c.actual := by unfold ws; split <;> rfl
@[simp] theorem ws_changing (v : W64) : (ws i v c).changing = c.changing := by unfold ws; split <;> rfl
@[simp] theorem ws_tenant (v : W64) : (ws i v c).tenant = c.tenant := by unfold ws; split <;> rfl
@[simp] theorem ws_infMade (v : W64) : (ws i v c).infMade = c.infMade := by unfold ws; split <;> rfl
@[simp] theorem ws_nanMade (v : W64) : (ws i v c).nanMade = c.nanMade := by unfold ws; split <;> rfl
@[simp] theorem ws_empty (v : W64) : (ws i v c).empty = c.empty := by unfold ws; split <;> rfl
@[simp] theorem ws_infCount (v : W64) : (ws i v c).infCount = c.infCount := by unfold ws; split <;> rfl
@[simp] theorem ws_nanCount (v : W64) : (ws i v c).nanCount = c.nanCount := by unfold ws; split <;> rfl
@[simp] theorem ws_cycBase (v : W64) : (ws i v c).cycBase = c.cycBase := by unfold ws; split <;> rfl
@[simp] theorem ws_cycFrom (v : W64) : (ws i v c).cycFrom = c.cycFrom := by unfold ws; split <;> rfl
@[simp] theorem ws_faultPc (v : W64) : (ws i v c).faultPc = c.faultPc := by unfold ws; split <;> rfl
@[simp] theorem ws_faultAddr (v : W64) : (ws i v c).faultAddr = c.faultAddr := by unfold ws; split <;> rfl
@[simp] theorem ws_faultCode (v : W64) : (ws i v c).faultCode = c.faultCode := by unfold ws; split <;> rfl
@[simp] theorem ws_faultValid (v : W64) : (ws i v c).faultValid = c.faultValid := by unfold ws; split <;> rfl
@[simp] theorem ws_wd (v : W64) : (ws i v c).wd = c.wd := by unfold ws; split <;> rfl
@[simp] theorem ws_traceEn (v : W64) : (ws i v c).traceEn = c.traceEn := by unfold ws; split <;> rfl
@[simp] theorem ws_attached (v : W64) : (ws i v c).attached = c.attached := by unfold ws; split <;> rfl
@[simp] theorem ws_brk (v : W64) : (ws i v c).brk = c.brk := by unfold ws; split <;> rfl
@[simp] theorem ws_wp (v : W64) : (ws i v c).wp = c.wp := by unfold ws; split <;> rfl
@[simp] theorem ws_brkSkip (v : W64) : (ws i v c).brkSkip = c.brkSkip := by unfold ws; split <;> rfl
@[simp] theorem ws_stepping (v : W64) : (ws i v c).stepping = c.stepping := by unfold ws; split <;> rfl
@[simp] theorem ws_trace (v : W64) : (ws i v c).trace = c.trace := by unfold ws; split <;> rfl
@[simp] theorem ws_job (v : W64) : (ws i v c).job = c.job := by unfold ws; split <;> rfl
@[simp] theorem ws_dbgSel (v : W64) : (ws i v c).dbgSel = c.dbgSel := by unfold ws; split <;> rfl
@[simp] theorem wp_s (v : W32) : (wp i v c).s = c.s := by unfold wp; split <;> rfl
@[simp] theorem wp_v (v : W32) : (wp i v c).v = c.v := by unfold wp; split <;> rfl
@[simp] theorem wp_acc (v : W32) : (wp i v c).acc = c.acc := by unfold wp; split <;> rfl
@[simp] theorem wp_ctx (v : W32) : (wp i v c).ctx = c.ctx := by unfold wp; split <;> rfl
@[simp] theorem wp_epoch (v : W32) : (wp i v c).epoch = c.epoch := by unfold wp; split <;> rfl
@[simp] theorem wp_pc (v : W32) : (wp i v c).pc = c.pc := by unfold wp; split <;> rfl
@[simp] theorem wp_sram (v : W32) : (wp i v c).sram = c.sram := by unfold wp; split <;> rfl
@[simp] theorem wp_ch (v : W32) : (wp i v c).ch = c.ch := by unfold wp; split <;> rfl
@[simp] theorem wp_dma (v : W32) : (wp i v c).dma = c.dma := by unfold wp; split <;> rfl
@[simp] theorem wp_calls (v : W32) : (wp i v c).calls = c.calls := by unfold wp; split <;> rfl
@[simp] theorem wp_nextTicket (v : W32) : (wp i v c).nextTicket = c.nextTicket := by unfold wp; split <;> rfl
@[simp] theorem wp_attCall (v : W32) : (wp i v c).attCall = c.attCall := by unfold wp; split <;> rfl
@[simp] theorem wp_attTicket (v : W32) : (wp i v c).attTicket = c.attTicket := by unfold wp; split <;> rfl
@[simp] theorem wp_state (v : W32) : (wp i v c).state = c.state := by unfold wp; split <;> rfl
@[simp] theorem wp_resumeTo (v : W32) : (wp i v c).resumeTo = c.resumeTo := by unfold wp; split <;> rfl
@[simp] theorem wp_stalled (v : W32) : (wp i v c).stalled = c.stalled := by unfold wp; split <;> rfl
@[simp] theorem wp_cause (v : W32) : (wp i v c).cause = c.cause := by unfold wp; split <;> rfl
@[simp] theorem wp_req (v : W32) : (wp i v c).req = c.req := by unfold wp; split <;> rfl
@[simp] theorem wp_actual (v : W32) : (wp i v c).actual = c.actual := by unfold wp; split <;> rfl
@[simp] theorem wp_changing (v : W32) : (wp i v c).changing = c.changing := by unfold wp; split <;> rfl
@[simp] theorem wp_tenant (v : W32) : (wp i v c).tenant = c.tenant := by unfold wp; split <;> rfl
@[simp] theorem wp_infMade (v : W32) : (wp i v c).infMade = c.infMade := by unfold wp; split <;> rfl
@[simp] theorem wp_nanMade (v : W32) : (wp i v c).nanMade = c.nanMade := by unfold wp; split <;> rfl
@[simp] theorem wp_empty (v : W32) : (wp i v c).empty = c.empty := by unfold wp; split <;> rfl
@[simp] theorem wp_infCount (v : W32) : (wp i v c).infCount = c.infCount := by unfold wp; split <;> rfl
@[simp] theorem wp_nanCount (v : W32) : (wp i v c).nanCount = c.nanCount := by unfold wp; split <;> rfl
@[simp] theorem wp_cycBase (v : W32) : (wp i v c).cycBase = c.cycBase := by unfold wp; split <;> rfl
@[simp] theorem wp_cycFrom (v : W32) : (wp i v c).cycFrom = c.cycFrom := by unfold wp; split <;> rfl
@[simp] theorem wp_faultPc (v : W32) : (wp i v c).faultPc = c.faultPc := by unfold wp; split <;> rfl
@[simp] theorem wp_faultAddr (v : W32) : (wp i v c).faultAddr = c.faultAddr := by unfold wp; split <;> rfl
@[simp] theorem wp_faultCode (v : W32) : (wp i v c).faultCode = c.faultCode := by unfold wp; split <;> rfl
@[simp] theorem wp_faultValid (v : W32) : (wp i v c).faultValid = c.faultValid := by unfold wp; split <;> rfl
@[simp] theorem wp_wd (v : W32) : (wp i v c).wd = c.wd := by unfold wp; split <;> rfl
@[simp] theorem wp_traceEn (v : W32) : (wp i v c).traceEn = c.traceEn := by unfold wp; split <;> rfl
@[simp] theorem wp_attached (v : W32) : (wp i v c).attached = c.attached := by unfold wp; split <;> rfl
@[simp] theorem wp_brk (v : W32) : (wp i v c).brk = c.brk := by unfold wp; split <;> rfl
@[simp] theorem wp_wp (v : W32) : (wp i v c).wp = c.wp := by unfold wp; split <;> rfl
@[simp] theorem wp_brkSkip (v : W32) : (wp i v c).brkSkip = c.brkSkip := by unfold wp; split <;> rfl
@[simp] theorem wp_stepping (v : W32) : (wp i v c).stepping = c.stepping := by unfold wp; split <;> rfl
@[simp] theorem wp_trace (v : W32) : (wp i v c).trace = c.trace := by unfold wp; split <;> rfl
@[simp] theorem wp_job (v : W32) : (wp i v c).job = c.job := by unfold wp; split <;> rfl
@[simp] theorem wp_dbgSel (v : W32) : (wp i v c).dbgSel = c.dbgSel := by unfold wp; split <;> rfl
@[simp] theorem wv_s (v : BitVec 1024) : (wv i v c).s = c.s := rfl
@[simp] theorem wv_acc (v : BitVec 1024) : (wv i v c).acc = c.acc := rfl
@[simp] theorem wv_p (v : BitVec 1024) : (wv i v c).p = c.p := rfl
@[simp] theorem wv_ctx (v : BitVec 1024) : (wv i v c).ctx = c.ctx := rfl
@[simp] theorem wv_epoch (v : BitVec 1024) : (wv i v c).epoch = c.epoch := rfl
@[simp] theorem wv_pc (v : BitVec 1024) : (wv i v c).pc = c.pc := rfl
@[simp] theorem wv_sram (v : BitVec 1024) : (wv i v c).sram = c.sram := rfl
@[simp] theorem wv_ch (v : BitVec 1024) : (wv i v c).ch = c.ch := rfl
@[simp] theorem wv_dma (v : BitVec 1024) : (wv i v c).dma = c.dma := rfl
@[simp] theorem wv_calls (v : BitVec 1024) : (wv i v c).calls = c.calls := rfl
@[simp] theorem wv_nextTicket (v : BitVec 1024) : (wv i v c).nextTicket = c.nextTicket := rfl
@[simp] theorem wv_attCall (v : BitVec 1024) : (wv i v c).attCall = c.attCall := rfl
@[simp] theorem wv_attTicket (v : BitVec 1024) : (wv i v c).attTicket = c.attTicket := rfl
@[simp] theorem wv_state (v : BitVec 1024) : (wv i v c).state = c.state := rfl
@[simp] theorem wv_resumeTo (v : BitVec 1024) : (wv i v c).resumeTo = c.resumeTo := rfl
@[simp] theorem wv_stalled (v : BitVec 1024) : (wv i v c).stalled = c.stalled := rfl
@[simp] theorem wv_cause (v : BitVec 1024) : (wv i v c).cause = c.cause := rfl
@[simp] theorem wv_req (v : BitVec 1024) : (wv i v c).req = c.req := rfl
@[simp] theorem wv_actual (v : BitVec 1024) : (wv i v c).actual = c.actual := rfl
@[simp] theorem wv_changing (v : BitVec 1024) : (wv i v c).changing = c.changing := rfl
@[simp] theorem wv_tenant (v : BitVec 1024) : (wv i v c).tenant = c.tenant := rfl
@[simp] theorem wv_infMade (v : BitVec 1024) : (wv i v c).infMade = c.infMade := rfl
@[simp] theorem wv_nanMade (v : BitVec 1024) : (wv i v c).nanMade = c.nanMade := rfl
@[simp] theorem wv_empty (v : BitVec 1024) : (wv i v c).empty = c.empty := rfl
@[simp] theorem wv_infCount (v : BitVec 1024) : (wv i v c).infCount = c.infCount := rfl
@[simp] theorem wv_nanCount (v : BitVec 1024) : (wv i v c).nanCount = c.nanCount := rfl
@[simp] theorem wv_cycBase (v : BitVec 1024) : (wv i v c).cycBase = c.cycBase := rfl
@[simp] theorem wv_cycFrom (v : BitVec 1024) : (wv i v c).cycFrom = c.cycFrom := rfl
@[simp] theorem wv_faultPc (v : BitVec 1024) : (wv i v c).faultPc = c.faultPc := rfl
@[simp] theorem wv_faultAddr (v : BitVec 1024) : (wv i v c).faultAddr = c.faultAddr := rfl
@[simp] theorem wv_faultCode (v : BitVec 1024) : (wv i v c).faultCode = c.faultCode := rfl
@[simp] theorem wv_faultValid (v : BitVec 1024) : (wv i v c).faultValid = c.faultValid := rfl
@[simp] theorem wv_wd (v : BitVec 1024) : (wv i v c).wd = c.wd := rfl
@[simp] theorem wv_traceEn (v : BitVec 1024) : (wv i v c).traceEn = c.traceEn := rfl
@[simp] theorem wv_attached (v : BitVec 1024) : (wv i v c).attached = c.attached := rfl
@[simp] theorem wv_brk (v : BitVec 1024) : (wv i v c).brk = c.brk := rfl
@[simp] theorem wv_wp (v : BitVec 1024) : (wv i v c).wp = c.wp := rfl
@[simp] theorem wv_brkSkip (v : BitVec 1024) : (wv i v c).brkSkip = c.brkSkip := rfl
@[simp] theorem wv_stepping (v : BitVec 1024) : (wv i v c).stepping = c.stepping := rfl
@[simp] theorem wv_trace (v : BitVec 1024) : (wv i v c).trace = c.trace := rfl
@[simp] theorem wv_job (v : BitVec 1024) : (wv i v c).job = c.job := rfl
@[simp] theorem wv_dbgSel (v : BitVec 1024) : (wv i v c).dbgSel = c.dbgSel := rfl
@[simp] theorem wc_s (v : RedCtx) : (wc i v c).s = c.s := rfl
@[simp] theorem wc_v (v : RedCtx) : (wc i v c).v = c.v := rfl
@[simp] theorem wc_acc (v : RedCtx) : (wc i v c).acc = c.acc := rfl
@[simp] theorem wc_p (v : RedCtx) : (wc i v c).p = c.p := rfl
@[simp] theorem wc_epoch (v : RedCtx) : (wc i v c).epoch = c.epoch := rfl
@[simp] theorem wc_pc (v : RedCtx) : (wc i v c).pc = c.pc := rfl
@[simp] theorem wc_sram (v : RedCtx) : (wc i v c).sram = c.sram := rfl
@[simp] theorem wc_ch (v : RedCtx) : (wc i v c).ch = c.ch := rfl
@[simp] theorem wc_dma (v : RedCtx) : (wc i v c).dma = c.dma := rfl
@[simp] theorem wc_calls (v : RedCtx) : (wc i v c).calls = c.calls := rfl
@[simp] theorem wc_nextTicket (v : RedCtx) : (wc i v c).nextTicket = c.nextTicket := rfl
@[simp] theorem wc_attCall (v : RedCtx) : (wc i v c).attCall = c.attCall := rfl
@[simp] theorem wc_attTicket (v : RedCtx) : (wc i v c).attTicket = c.attTicket := rfl
@[simp] theorem wc_state (v : RedCtx) : (wc i v c).state = c.state := rfl
@[simp] theorem wc_resumeTo (v : RedCtx) : (wc i v c).resumeTo = c.resumeTo := rfl
@[simp] theorem wc_stalled (v : RedCtx) : (wc i v c).stalled = c.stalled := rfl
@[simp] theorem wc_cause (v : RedCtx) : (wc i v c).cause = c.cause := rfl
@[simp] theorem wc_req (v : RedCtx) : (wc i v c).req = c.req := rfl
@[simp] theorem wc_actual (v : RedCtx) : (wc i v c).actual = c.actual := rfl
@[simp] theorem wc_changing (v : RedCtx) : (wc i v c).changing = c.changing := rfl
@[simp] theorem wc_tenant (v : RedCtx) : (wc i v c).tenant = c.tenant := rfl
@[simp] theorem wc_infMade (v : RedCtx) : (wc i v c).infMade = c.infMade := rfl
@[simp] theorem wc_nanMade (v : RedCtx) : (wc i v c).nanMade = c.nanMade := rfl
@[simp] theorem wc_empty (v : RedCtx) : (wc i v c).empty = c.empty := rfl
@[simp] theorem wc_infCount (v : RedCtx) : (wc i v c).infCount = c.infCount := rfl
@[simp] theorem wc_nanCount (v : RedCtx) : (wc i v c).nanCount = c.nanCount := rfl
@[simp] theorem wc_cycBase (v : RedCtx) : (wc i v c).cycBase = c.cycBase := rfl
@[simp] theorem wc_cycFrom (v : RedCtx) : (wc i v c).cycFrom = c.cycFrom := rfl
@[simp] theorem wc_faultPc (v : RedCtx) : (wc i v c).faultPc = c.faultPc := rfl
@[simp] theorem wc_faultAddr (v : RedCtx) : (wc i v c).faultAddr = c.faultAddr := rfl
@[simp] theorem wc_faultCode (v : RedCtx) : (wc i v c).faultCode = c.faultCode := rfl
@[simp] theorem wc_faultValid (v : RedCtx) : (wc i v c).faultValid = c.faultValid := rfl
@[simp] theorem wc_wd (v : RedCtx) : (wc i v c).wd = c.wd := rfl
@[simp] theorem wc_traceEn (v : RedCtx) : (wc i v c).traceEn = c.traceEn := rfl
@[simp] theorem wc_attached (v : RedCtx) : (wc i v c).attached = c.attached := rfl
@[simp] theorem wc_brk (v : RedCtx) : (wc i v c).brk = c.brk := rfl
@[simp] theorem wc_wp (v : RedCtx) : (wc i v c).wp = c.wp := rfl
@[simp] theorem wc_brkSkip (v : RedCtx) : (wc i v c).brkSkip = c.brkSkip := rfl
@[simp] theorem wc_stepping (v : RedCtx) : (wc i v c).stepping = c.stepping := rfl
@[simp] theorem wc_trace (v : RedCtx) : (wc i v c).trace = c.trace := rfl
@[simp] theorem wc_job (v : RedCtx) : (wc i v c).job = c.job := rfl
@[simp] theorem wc_dbgSel (v : RedCtx) : (wc i v c).dbgSel = c.dbgSel := rfl
@[simp] theorem wa_s (v : W32) : (wa i v c).s = c.s := rfl
@[simp] theorem wa_v (v : W32) : (wa i v c).v = c.v := rfl
@[simp] theorem wa_p (v : W32) : (wa i v c).p = c.p := rfl
@[simp] theorem wa_ctx (v : W32) : (wa i v c).ctx = c.ctx := rfl
@[simp] theorem wa_epoch (v : W32) : (wa i v c).epoch = c.epoch := rfl
@[simp] theorem wa_pc (v : W32) : (wa i v c).pc = c.pc := rfl
@[simp] theorem wa_sram (v : W32) : (wa i v c).sram = c.sram := rfl
@[simp] theorem wa_ch (v : W32) : (wa i v c).ch = c.ch := rfl
@[simp] theorem wa_dma (v : W32) : (wa i v c).dma = c.dma := rfl
@[simp] theorem wa_calls (v : W32) : (wa i v c).calls = c.calls := rfl
@[simp] theorem wa_nextTicket (v : W32) : (wa i v c).nextTicket = c.nextTicket := rfl
@[simp] theorem wa_attCall (v : W32) : (wa i v c).attCall = c.attCall := rfl
@[simp] theorem wa_attTicket (v : W32) : (wa i v c).attTicket = c.attTicket := rfl
@[simp] theorem wa_state (v : W32) : (wa i v c).state = c.state := rfl
@[simp] theorem wa_resumeTo (v : W32) : (wa i v c).resumeTo = c.resumeTo := rfl
@[simp] theorem wa_stalled (v : W32) : (wa i v c).stalled = c.stalled := rfl
@[simp] theorem wa_cause (v : W32) : (wa i v c).cause = c.cause := rfl
@[simp] theorem wa_req (v : W32) : (wa i v c).req = c.req := rfl
@[simp] theorem wa_actual (v : W32) : (wa i v c).actual = c.actual := rfl
@[simp] theorem wa_changing (v : W32) : (wa i v c).changing = c.changing := rfl
@[simp] theorem wa_tenant (v : W32) : (wa i v c).tenant = c.tenant := rfl
@[simp] theorem wa_infMade (v : W32) : (wa i v c).infMade = c.infMade := rfl
@[simp] theorem wa_nanMade (v : W32) : (wa i v c).nanMade = c.nanMade := rfl
@[simp] theorem wa_empty (v : W32) : (wa i v c).empty = c.empty := rfl
@[simp] theorem wa_infCount (v : W32) : (wa i v c).infCount = c.infCount := rfl
@[simp] theorem wa_nanCount (v : W32) : (wa i v c).nanCount = c.nanCount := rfl
@[simp] theorem wa_cycBase (v : W32) : (wa i v c).cycBase = c.cycBase := rfl
@[simp] theorem wa_cycFrom (v : W32) : (wa i v c).cycFrom = c.cycFrom := rfl
@[simp] theorem wa_faultPc (v : W32) : (wa i v c).faultPc = c.faultPc := rfl
@[simp] theorem wa_faultAddr (v : W32) : (wa i v c).faultAddr = c.faultAddr := rfl
@[simp] theorem wa_faultCode (v : W32) : (wa i v c).faultCode = c.faultCode := rfl
@[simp] theorem wa_faultValid (v : W32) : (wa i v c).faultValid = c.faultValid := rfl
@[simp] theorem wa_wd (v : W32) : (wa i v c).wd = c.wd := rfl
@[simp] theorem wa_traceEn (v : W32) : (wa i v c).traceEn = c.traceEn := rfl
@[simp] theorem wa_attached (v : W32) : (wa i v c).attached = c.attached := rfl
@[simp] theorem wa_brk (v : W32) : (wa i v c).brk = c.brk := rfl
@[simp] theorem wa_wp (v : W32) : (wa i v c).wp = c.wp := rfl
@[simp] theorem wa_brkSkip (v : W32) : (wa i v c).brkSkip = c.brkSkip := rfl
@[simp] theorem wa_stepping (v : W32) : (wa i v c).stepping = c.stepping := rfl
@[simp] theorem wa_trace (v : W32) : (wa i v c).trace = c.trace := rfl
@[simp] theorem wa_job (v : W32) : (wa i v c).job = c.job := rfl
@[simp] theorem wa_dbgSel (v : W32) : (wa i v c).dbgSel = c.dbgSel := rfl
@[simp] theorem putLocal_s (b : Bytes) : (putLocal i b c).s = c.s := rfl
@[simp] theorem setCh_s (h : ChanSt) : (setCh i h c).s = c.s := rfl
@[simp] theorem setQ_s (q : DmaQ) : (setQ i q c).s = c.s := rfl
@[simp] theorem setAcc_s (f : Nat → W32) : (setAcc i f c).s = c.s := rfl
@[simp] theorem putLocal_v (b : Bytes) : (putLocal i b c).v = c.v := rfl
@[simp] theorem setCh_v (h : ChanSt) : (setCh i h c).v = c.v := rfl
@[simp] theorem setQ_v (q : DmaQ) : (setQ i q c).v = c.v := rfl
@[simp] theorem setAcc_v (f : Nat → W32) : (setAcc i f c).v = c.v := rfl
@[simp] theorem putLocal_acc (b : Bytes) : (putLocal i b c).acc = c.acc := rfl
@[simp] theorem setCh_acc (h : ChanSt) : (setCh i h c).acc = c.acc := rfl
@[simp] theorem setQ_acc (q : DmaQ) : (setQ i q c).acc = c.acc := rfl
@[simp] theorem putLocal_p (b : Bytes) : (putLocal i b c).p = c.p := rfl
@[simp] theorem setCh_p (h : ChanSt) : (setCh i h c).p = c.p := rfl
@[simp] theorem setQ_p (q : DmaQ) : (setQ i q c).p = c.p := rfl
@[simp] theorem setAcc_p (f : Nat → W32) : (setAcc i f c).p = c.p := rfl
@[simp] theorem putLocal_ctx (b : Bytes) : (putLocal i b c).ctx = c.ctx := rfl
@[simp] theorem setCh_ctx (h : ChanSt) : (setCh i h c).ctx = c.ctx := rfl
@[simp] theorem setQ_ctx (q : DmaQ) : (setQ i q c).ctx = c.ctx := rfl
@[simp] theorem setAcc_ctx (f : Nat → W32) : (setAcc i f c).ctx = c.ctx := rfl
@[simp] theorem putLocal_epoch (b : Bytes) : (putLocal i b c).epoch = c.epoch := rfl
@[simp] theorem setCh_epoch (h : ChanSt) : (setCh i h c).epoch = c.epoch := rfl
@[simp] theorem setQ_epoch (q : DmaQ) : (setQ i q c).epoch = c.epoch := rfl
@[simp] theorem setAcc_epoch (f : Nat → W32) : (setAcc i f c).epoch = c.epoch := rfl
@[simp] theorem putLocal_pc (b : Bytes) : (putLocal i b c).pc = c.pc := rfl
@[simp] theorem setCh_pc (h : ChanSt) : (setCh i h c).pc = c.pc := rfl
@[simp] theorem setQ_pc (q : DmaQ) : (setQ i q c).pc = c.pc := rfl
@[simp] theorem setAcc_pc (f : Nat → W32) : (setAcc i f c).pc = c.pc := rfl
@[simp] theorem setCh_sram (h : ChanSt) : (setCh i h c).sram = c.sram := rfl
@[simp] theorem setQ_sram (q : DmaQ) : (setQ i q c).sram = c.sram := rfl
@[simp] theorem setAcc_sram (f : Nat → W32) : (setAcc i f c).sram = c.sram := rfl
@[simp] theorem putLocal_ch (b : Bytes) : (putLocal i b c).ch = c.ch := rfl
@[simp] theorem setQ_ch (q : DmaQ) : (setQ i q c).ch = c.ch := rfl
@[simp] theorem setAcc_ch (f : Nat → W32) : (setAcc i f c).ch = c.ch := rfl
@[simp] theorem putLocal_dma (b : Bytes) : (putLocal i b c).dma = c.dma := rfl
@[simp] theorem setCh_dma (h : ChanSt) : (setCh i h c).dma = c.dma := rfl
@[simp] theorem setAcc_dma (f : Nat → W32) : (setAcc i f c).dma = c.dma := rfl
@[simp] theorem putLocal_calls (b : Bytes) : (putLocal i b c).calls = c.calls := rfl
@[simp] theorem setCh_calls (h : ChanSt) : (setCh i h c).calls = c.calls := rfl
@[simp] theorem setQ_calls (q : DmaQ) : (setQ i q c).calls = c.calls := rfl
@[simp] theorem setAcc_calls (f : Nat → W32) : (setAcc i f c).calls = c.calls := rfl
@[simp] theorem putLocal_nextTicket (b : Bytes) : (putLocal i b c).nextTicket = c.nextTicket := rfl
@[simp] theorem setCh_nextTicket (h : ChanSt) : (setCh i h c).nextTicket = c.nextTicket := rfl
@[simp] theorem setQ_nextTicket (q : DmaQ) : (setQ i q c).nextTicket = c.nextTicket := rfl
@[simp] theorem setAcc_nextTicket (f : Nat → W32) : (setAcc i f c).nextTicket = c.nextTicket := rfl
@[simp] theorem putLocal_attCall (b : Bytes) : (putLocal i b c).attCall = c.attCall := rfl
@[simp] theorem setCh_attCall (h : ChanSt) : (setCh i h c).attCall = c.attCall := rfl
@[simp] theorem setQ_attCall (q : DmaQ) : (setQ i q c).attCall = c.attCall := rfl
@[simp] theorem setAcc_attCall (f : Nat → W32) : (setAcc i f c).attCall = c.attCall := rfl
@[simp] theorem putLocal_attTicket (b : Bytes) : (putLocal i b c).attTicket = c.attTicket := rfl
@[simp] theorem setCh_attTicket (h : ChanSt) : (setCh i h c).attTicket = c.attTicket := rfl
@[simp] theorem setQ_attTicket (q : DmaQ) : (setQ i q c).attTicket = c.attTicket := rfl
@[simp] theorem setAcc_attTicket (f : Nat → W32) : (setAcc i f c).attTicket = c.attTicket := rfl
@[simp] theorem putLocal_state (b : Bytes) : (putLocal i b c).state = c.state := rfl
@[simp] theorem setCh_state (h : ChanSt) : (setCh i h c).state = c.state := rfl
@[simp] theorem setQ_state (q : DmaQ) : (setQ i q c).state = c.state := rfl
@[simp] theorem setAcc_state (f : Nat → W32) : (setAcc i f c).state = c.state := rfl
@[simp] theorem putLocal_resumeTo (b : Bytes) : (putLocal i b c).resumeTo = c.resumeTo := rfl
@[simp] theorem setCh_resumeTo (h : ChanSt) : (setCh i h c).resumeTo = c.resumeTo := rfl
@[simp] theorem setQ_resumeTo (q : DmaQ) : (setQ i q c).resumeTo = c.resumeTo := rfl
@[simp] theorem setAcc_resumeTo (f : Nat → W32) : (setAcc i f c).resumeTo = c.resumeTo := rfl
@[simp] theorem putLocal_stalled (b : Bytes) : (putLocal i b c).stalled = c.stalled := rfl
@[simp] theorem setCh_stalled (h : ChanSt) : (setCh i h c).stalled = c.stalled := rfl
@[simp] theorem setQ_stalled (q : DmaQ) : (setQ i q c).stalled = c.stalled := rfl
@[simp] theorem setAcc_stalled (f : Nat → W32) : (setAcc i f c).stalled = c.stalled := rfl
@[simp] theorem putLocal_cause (b : Bytes) : (putLocal i b c).cause = c.cause := rfl
@[simp] theorem setCh_cause (h : ChanSt) : (setCh i h c).cause = c.cause := rfl
@[simp] theorem setQ_cause (q : DmaQ) : (setQ i q c).cause = c.cause := rfl
@[simp] theorem setAcc_cause (f : Nat → W32) : (setAcc i f c).cause = c.cause := rfl
@[simp] theorem putLocal_req (b : Bytes) : (putLocal i b c).req = c.req := rfl
@[simp] theorem setCh_req (h : ChanSt) : (setCh i h c).req = c.req := rfl
@[simp] theorem setQ_req (q : DmaQ) : (setQ i q c).req = c.req := rfl
@[simp] theorem setAcc_req (f : Nat → W32) : (setAcc i f c).req = c.req := rfl
@[simp] theorem putLocal_actual (b : Bytes) : (putLocal i b c).actual = c.actual := rfl
@[simp] theorem setCh_actual (h : ChanSt) : (setCh i h c).actual = c.actual := rfl
@[simp] theorem setQ_actual (q : DmaQ) : (setQ i q c).actual = c.actual := rfl
@[simp] theorem setAcc_actual (f : Nat → W32) : (setAcc i f c).actual = c.actual := rfl
@[simp] theorem putLocal_changing (b : Bytes) : (putLocal i b c).changing = c.changing := rfl
@[simp] theorem setCh_changing (h : ChanSt) : (setCh i h c).changing = c.changing := rfl
@[simp] theorem setQ_changing (q : DmaQ) : (setQ i q c).changing = c.changing := rfl
@[simp] theorem setAcc_changing (f : Nat → W32) : (setAcc i f c).changing = c.changing := rfl
@[simp] theorem putLocal_tenant (b : Bytes) : (putLocal i b c).tenant = c.tenant := rfl
@[simp] theorem setCh_tenant (h : ChanSt) : (setCh i h c).tenant = c.tenant := rfl
@[simp] theorem setQ_tenant (q : DmaQ) : (setQ i q c).tenant = c.tenant := rfl
@[simp] theorem setAcc_tenant (f : Nat → W32) : (setAcc i f c).tenant = c.tenant := rfl
@[simp] theorem putLocal_infMade (b : Bytes) : (putLocal i b c).infMade = c.infMade := rfl
@[simp] theorem setCh_infMade (h : ChanSt) : (setCh i h c).infMade = c.infMade := rfl
@[simp] theorem setQ_infMade (q : DmaQ) : (setQ i q c).infMade = c.infMade := rfl
@[simp] theorem setAcc_infMade (f : Nat → W32) : (setAcc i f c).infMade = c.infMade := rfl
@[simp] theorem putLocal_nanMade (b : Bytes) : (putLocal i b c).nanMade = c.nanMade := rfl
@[simp] theorem setCh_nanMade (h : ChanSt) : (setCh i h c).nanMade = c.nanMade := rfl
@[simp] theorem setQ_nanMade (q : DmaQ) : (setQ i q c).nanMade = c.nanMade := rfl
@[simp] theorem setAcc_nanMade (f : Nat → W32) : (setAcc i f c).nanMade = c.nanMade := rfl
@[simp] theorem putLocal_empty (b : Bytes) : (putLocal i b c).empty = c.empty := rfl
@[simp] theorem setCh_empty (h : ChanSt) : (setCh i h c).empty = c.empty := rfl
@[simp] theorem setQ_empty (q : DmaQ) : (setQ i q c).empty = c.empty := rfl
@[simp] theorem setAcc_empty (f : Nat → W32) : (setAcc i f c).empty = c.empty := rfl
@[simp] theorem putLocal_infCount (b : Bytes) : (putLocal i b c).infCount = c.infCount := rfl
@[simp] theorem setCh_infCount (h : ChanSt) : (setCh i h c).infCount = c.infCount := rfl
@[simp] theorem setQ_infCount (q : DmaQ) : (setQ i q c).infCount = c.infCount := rfl
@[simp] theorem setAcc_infCount (f : Nat → W32) : (setAcc i f c).infCount = c.infCount := rfl
@[simp] theorem putLocal_nanCount (b : Bytes) : (putLocal i b c).nanCount = c.nanCount := rfl
@[simp] theorem setCh_nanCount (h : ChanSt) : (setCh i h c).nanCount = c.nanCount := rfl
@[simp] theorem setQ_nanCount (q : DmaQ) : (setQ i q c).nanCount = c.nanCount := rfl
@[simp] theorem setAcc_nanCount (f : Nat → W32) : (setAcc i f c).nanCount = c.nanCount := rfl
@[simp] theorem putLocal_cycBase (b : Bytes) : (putLocal i b c).cycBase = c.cycBase := rfl
@[simp] theorem setCh_cycBase (h : ChanSt) : (setCh i h c).cycBase = c.cycBase := rfl
@[simp] theorem setQ_cycBase (q : DmaQ) : (setQ i q c).cycBase = c.cycBase := rfl
@[simp] theorem setAcc_cycBase (f : Nat → W32) : (setAcc i f c).cycBase = c.cycBase := rfl
@[simp] theorem putLocal_cycFrom (b : Bytes) : (putLocal i b c).cycFrom = c.cycFrom := rfl
@[simp] theorem setCh_cycFrom (h : ChanSt) : (setCh i h c).cycFrom = c.cycFrom := rfl
@[simp] theorem setQ_cycFrom (q : DmaQ) : (setQ i q c).cycFrom = c.cycFrom := rfl
@[simp] theorem setAcc_cycFrom (f : Nat → W32) : (setAcc i f c).cycFrom = c.cycFrom := rfl
@[simp] theorem putLocal_faultPc (b : Bytes) : (putLocal i b c).faultPc = c.faultPc := rfl
@[simp] theorem setCh_faultPc (h : ChanSt) : (setCh i h c).faultPc = c.faultPc := rfl
@[simp] theorem setQ_faultPc (q : DmaQ) : (setQ i q c).faultPc = c.faultPc := rfl
@[simp] theorem setAcc_faultPc (f : Nat → W32) : (setAcc i f c).faultPc = c.faultPc := rfl
@[simp] theorem putLocal_faultAddr (b : Bytes) : (putLocal i b c).faultAddr = c.faultAddr := rfl
@[simp] theorem setCh_faultAddr (h : ChanSt) : (setCh i h c).faultAddr = c.faultAddr := rfl
@[simp] theorem setQ_faultAddr (q : DmaQ) : (setQ i q c).faultAddr = c.faultAddr := rfl
@[simp] theorem setAcc_faultAddr (f : Nat → W32) : (setAcc i f c).faultAddr = c.faultAddr := rfl
@[simp] theorem putLocal_faultCode (b : Bytes) : (putLocal i b c).faultCode = c.faultCode := rfl
@[simp] theorem setCh_faultCode (h : ChanSt) : (setCh i h c).faultCode = c.faultCode := rfl
@[simp] theorem setQ_faultCode (q : DmaQ) : (setQ i q c).faultCode = c.faultCode := rfl
@[simp] theorem setAcc_faultCode (f : Nat → W32) : (setAcc i f c).faultCode = c.faultCode := rfl
@[simp] theorem putLocal_faultValid (b : Bytes) : (putLocal i b c).faultValid = c.faultValid := rfl
@[simp] theorem setCh_faultValid (h : ChanSt) : (setCh i h c).faultValid = c.faultValid := rfl
@[simp] theorem setQ_faultValid (q : DmaQ) : (setQ i q c).faultValid = c.faultValid := rfl
@[simp] theorem setAcc_faultValid (f : Nat → W32) : (setAcc i f c).faultValid = c.faultValid := rfl
@[simp] theorem putLocal_wd (b : Bytes) : (putLocal i b c).wd = c.wd := rfl
@[simp] theorem setCh_wd (h : ChanSt) : (setCh i h c).wd = c.wd := rfl
@[simp] theorem setQ_wd (q : DmaQ) : (setQ i q c).wd = c.wd := rfl
@[simp] theorem setAcc_wd (f : Nat → W32) : (setAcc i f c).wd = c.wd := rfl
@[simp] theorem putLocal_traceEn (b : Bytes) : (putLocal i b c).traceEn = c.traceEn := rfl
@[simp] theorem setCh_traceEn (h : ChanSt) : (setCh i h c).traceEn = c.traceEn := rfl
@[simp] theorem setQ_traceEn (q : DmaQ) : (setQ i q c).traceEn = c.traceEn := rfl
@[simp] theorem setAcc_traceEn (f : Nat → W32) : (setAcc i f c).traceEn = c.traceEn := rfl
@[simp] theorem putLocal_attached (b : Bytes) : (putLocal i b c).attached = c.attached := rfl
@[simp] theorem setCh_attached (h : ChanSt) : (setCh i h c).attached = c.attached := rfl
@[simp] theorem setQ_attached (q : DmaQ) : (setQ i q c).attached = c.attached := rfl
@[simp] theorem setAcc_attached (f : Nat → W32) : (setAcc i f c).attached = c.attached := rfl
@[simp] theorem putLocal_brk (b : Bytes) : (putLocal i b c).brk = c.brk := rfl
@[simp] theorem setCh_brk (h : ChanSt) : (setCh i h c).brk = c.brk := rfl
@[simp] theorem setQ_brk (q : DmaQ) : (setQ i q c).brk = c.brk := rfl
@[simp] theorem setAcc_brk (f : Nat → W32) : (setAcc i f c).brk = c.brk := rfl
@[simp] theorem putLocal_wp (b : Bytes) : (putLocal i b c).wp = c.wp := rfl
@[simp] theorem setCh_wp (h : ChanSt) : (setCh i h c).wp = c.wp := rfl
@[simp] theorem setQ_wp (q : DmaQ) : (setQ i q c).wp = c.wp := rfl
@[simp] theorem setAcc_wp (f : Nat → W32) : (setAcc i f c).wp = c.wp := rfl
@[simp] theorem putLocal_brkSkip (b : Bytes) : (putLocal i b c).brkSkip = c.brkSkip := rfl
@[simp] theorem setCh_brkSkip (h : ChanSt) : (setCh i h c).brkSkip = c.brkSkip := rfl
@[simp] theorem setQ_brkSkip (q : DmaQ) : (setQ i q c).brkSkip = c.brkSkip := rfl
@[simp] theorem setAcc_brkSkip (f : Nat → W32) : (setAcc i f c).brkSkip = c.brkSkip := rfl
@[simp] theorem putLocal_stepping (b : Bytes) : (putLocal i b c).stepping = c.stepping := rfl
@[simp] theorem setCh_stepping (h : ChanSt) : (setCh i h c).stepping = c.stepping := rfl
@[simp] theorem setQ_stepping (q : DmaQ) : (setQ i q c).stepping = c.stepping := rfl
@[simp] theorem setAcc_stepping (f : Nat → W32) : (setAcc i f c).stepping = c.stepping := rfl
@[simp] theorem putLocal_trace (b : Bytes) : (putLocal i b c).trace = c.trace := rfl
@[simp] theorem setCh_trace (h : ChanSt) : (setCh i h c).trace = c.trace := rfl
@[simp] theorem setQ_trace (q : DmaQ) : (setQ i q c).trace = c.trace := rfl
@[simp] theorem setAcc_trace (f : Nat → W32) : (setAcc i f c).trace = c.trace := rfl
@[simp] theorem putLocal_job (b : Bytes) : (putLocal i b c).job = c.job := rfl
@[simp] theorem setCh_job (h : ChanSt) : (setCh i h c).job = c.job := rfl
@[simp] theorem setQ_job (q : DmaQ) : (setQ i q c).job = c.job := rfl
@[simp] theorem setAcc_job (f : Nat → W32) : (setAcc i f c).job = c.job := rfl
@[simp] theorem putLocal_dbgSel (b : Bytes) : (putLocal i b c).dbgSel = c.dbgSel := rfl
@[simp] theorem setCh_dbgSel (h : ChanSt) : (setCh i h c).dbgSel = c.dbgSel := rfl
@[simp] theorem setQ_dbgSel (q : DmaQ) : (setQ i q c).dbgSel = c.dbgSel := rfl
@[simp] theorem setAcc_dbgSel (f : Nat → W32) : (setAcc i f c).dbgSel = c.dbgSel := rfl
@[simp] theorem addTrace_s (k : Nat) : (addTrace d k c).s = c.s := by unfold addTrace; split <;> rfl
@[simp] theorem addTrace_v (k : Nat) : (addTrace d k c).v = c.v := by unfold addTrace; split <;> rfl
@[simp] theorem addTrace_acc (k : Nat) : (addTrace d k c).acc = c.acc := by unfold addTrace; split <;> rfl
@[simp] theorem addTrace_p (k : Nat) : (addTrace d k c).p = c.p := by unfold addTrace; split <;> rfl
@[simp] theorem addTrace_ctx (k : Nat) : (addTrace d k c).ctx = c.ctx := by unfold addTrace; split <;> rfl
@[simp] theorem addTrace_epoch (k : Nat) : (addTrace d k c).epoch = c.epoch := by unfold addTrace; split <;> rfl
@[simp] theorem addTrace_pc (k : Nat) : (addTrace d k c).pc = c.pc := by unfold addTrace; split <;> rfl
@[simp] theorem addTrace_sram (k : Nat) : (addTrace d k c).sram = c.sram := by unfold addTrace; split <;> rfl
@[simp] theorem addTrace_ch (k : Nat) : (addTrace d k c).ch = c.ch := by unfold addTrace; split <;> rfl
@[simp] theorem addTrace_dma (k : Nat) : (addTrace d k c).dma = c.dma := by unfold addTrace; split <;> rfl
@[simp] theorem addTrace_calls (k : Nat) : (addTrace d k c).calls = c.calls := by unfold addTrace; split <;> rfl
@[simp] theorem addTrace_nextTicket (k : Nat) : (addTrace d k c).nextTicket = c.nextTicket := by unfold addTrace; split <;> rfl
@[simp] theorem addTrace_attCall (k : Nat) : (addTrace d k c).attCall = c.attCall := by unfold addTrace; split <;> rfl
@[simp] theorem addTrace_attTicket (k : Nat) : (addTrace d k c).attTicket = c.attTicket := by unfold addTrace; split <;> rfl
@[simp] theorem addTrace_state (k : Nat) : (addTrace d k c).state = c.state := by unfold addTrace; split <;> rfl
@[simp] theorem addTrace_resumeTo (k : Nat) : (addTrace d k c).resumeTo = c.resumeTo := by unfold addTrace; split <;> rfl
@[simp] theorem addTrace_stalled (k : Nat) : (addTrace d k c).stalled = c.stalled := by unfold addTrace; split <;> rfl
@[simp] theorem addTrace_cause (k : Nat) : (addTrace d k c).cause = c.cause := by unfold addTrace; split <;> rfl
@[simp] theorem addTrace_req (k : Nat) : (addTrace d k c).req = c.req := by unfold addTrace; split <;> rfl
@[simp] theorem addTrace_actual (k : Nat) : (addTrace d k c).actual = c.actual := by unfold addTrace; split <;> rfl
@[simp] theorem addTrace_changing (k : Nat) : (addTrace d k c).changing = c.changing := by unfold addTrace; split <;> rfl
@[simp] theorem addTrace_tenant (k : Nat) : (addTrace d k c).tenant = c.tenant := by unfold addTrace; split <;> rfl
@[simp] theorem addTrace_infMade (k : Nat) : (addTrace d k c).infMade = c.infMade := by unfold addTrace; split <;> rfl
@[simp] theorem addTrace_nanMade (k : Nat) : (addTrace d k c).nanMade = c.nanMade := by unfold addTrace; split <;> rfl
@[simp] theorem addTrace_empty (k : Nat) : (addTrace d k c).empty = c.empty := by unfold addTrace; split <;> rfl
@[simp] theorem addTrace_infCount (k : Nat) : (addTrace d k c).infCount = c.infCount := by unfold addTrace; split <;> rfl
@[simp] theorem addTrace_nanCount (k : Nat) : (addTrace d k c).nanCount = c.nanCount := by unfold addTrace; split <;> rfl
@[simp] theorem addTrace_cycBase (k : Nat) : (addTrace d k c).cycBase = c.cycBase := by unfold addTrace; split <;> rfl
@[simp] theorem addTrace_cycFrom (k : Nat) : (addTrace d k c).cycFrom = c.cycFrom := by unfold addTrace; split <;> rfl
@[simp] theorem addTrace_faultPc (k : Nat) : (addTrace d k c).faultPc = c.faultPc := by unfold addTrace; split <;> rfl
@[simp] theorem addTrace_faultAddr (k : Nat) : (addTrace d k c).faultAddr = c.faultAddr := by unfold addTrace; split <;> rfl
@[simp] theorem addTrace_faultCode (k : Nat) : (addTrace d k c).faultCode = c.faultCode := by unfold addTrace; split <;> rfl
@[simp] theorem addTrace_faultValid (k : Nat) : (addTrace d k c).faultValid = c.faultValid := by unfold addTrace; split <;> rfl
@[simp] theorem addTrace_wd (k : Nat) : (addTrace d k c).wd = c.wd := by unfold addTrace; split <;> rfl
@[simp] theorem addTrace_traceEn (k : Nat) : (addTrace d k c).traceEn = c.traceEn := by unfold addTrace; split <;> rfl
@[simp] theorem addTrace_attached (k : Nat) : (addTrace d k c).attached = c.attached := by unfold addTrace; split <;> rfl
@[simp] theorem addTrace_brk (k : Nat) : (addTrace d k c).brk = c.brk := by unfold addTrace; split <;> rfl
@[simp] theorem addTrace_wp (k : Nat) : (addTrace d k c).wp = c.wp := by unfold addTrace; split <;> rfl
@[simp] theorem addTrace_brkSkip (k : Nat) : (addTrace d k c).brkSkip = c.brkSkip := by unfold addTrace; split <;> rfl
@[simp] theorem addTrace_stepping (k : Nat) : (addTrace d k c).stepping = c.stepping := by unfold addTrace; split <;> rfl
@[simp] theorem addTrace_job (k : Nat) : (addTrace d k c).job = c.job := by unfold addTrace; split <;> rfl
@[simp] theorem addTrace_dbgSel (k : Nat) : (addTrace d k c).dbgSel = c.dbgSel := by unfold addTrace; split <;> rfl

end Sys2Proof.Machine
end

