-- ==== Sys2Proof/Laws/Ops.lean ====
section
/-! SUPPORT. What the frame of a core instruction can do (R162, R163, R165, R177, R178): one lemma for each way it ends, and the
checked access. -/

namespace Sys2Proof.Machine

variable {d d1 : Dev} {k : CoreIx} {len : Nat} {legal : Bool} {on : CoreSt → Bool} {body : CoreSt → Dev → CoreRes}

/-- A core that is not stepped does not halt behind the instruction. -/
theorem stepEnd_of_not_stepping {k : Nat} {d : Dev} (h : (getCore d k).stepping = false) : stepEnd k d = d := by
  simp [stepEnd, h]

/-- A ready core reaches the checks of the instruction itself. -/
theorem coreOne_ready (h : CoreReady d k len) (hl : legal = true) (ho : on (getCore d k) = true) :
    coreOne k len legal on body (getCore d k) d = match body (getCore d k) d with
      | .done d1 => coreNext k ((getCore d k).pc.toNat + len) d1
      | .jump d1 pc => coreNext k pc (modCore k (addTrace d 0) d1)
      | .fault code addr => coreFault k (getCore d k).pc code addr d
      | .stall cause => coreStall k cause d
      | .halt => coreHalt k d := by
  obtain ⟨_, _, _, _, hb, hp⟩ := h
  have hp' : ¬ (getCore d k).pc.toNat + len > sramHi := by omega
  simp only [coreOne, hb, hl, ho, hp']
  rfl

theorem coreRun_ready (h : CoreReady d k len) :
    coreRun k len legal on body d = stepEnd k (coreOne k len legal on body (getCore d k) d) := by
  have h2 : ¬ ((getCore d k).state = 2 ∨ (getCore d k).state = 3 ∨ coreRetired d k = true) := by
    rcases h.1 with e | e <;> rw [e, h.2.1] <;> decide
  have h3 : ¬ (getCore d k).relock = true := by simp [h.2.2.1]
  simp only [coreRun, if_neg h2, if_neg h3]

/-- The instruction runs to its end. -/
theorem coreRun_done (h : CoreReady d k len) (hl : legal = true) (ho : on (getCore d k) = true)
    (hb : body (getCore d k) d = .done d1) (hs : (getCore d1 k).stepping = false) :
    coreRun k len legal on body d = coreNext k ((getCore d k).pc.toNat + len) d1 := by
  rw [coreRun_ready h, coreOne_ready h hl ho, hb]
  exact stepEnd_of_not_stepping (by simp [coreNext, hs])

/-- The instruction jumps. -/
theorem coreRun_jump {pc : Nat} (h : CoreReady d k len) (hl : legal = true) (ho : on (getCore d k) = true)
    (hb : body (getCore d k) d = .jump d1 pc) (hs : (getCore d1 k).stepping = false) :
    coreRun k len legal on body d = coreNext k pc (modCore k (addTrace d 0) d1) := by
  rw [coreRun_ready h, coreOne_ready h hl ho, hb]
  exact stepEnd_of_not_stepping (by simp [coreNext, hs])

/-- The faulted core: what it records (R177). -/
theorem getCore_coreFault (k : Nat) (pc : BitVec 22) (code : W8) (addr : Nat) (d : Dev) :
    getCore (coreFault k pc code addr d) k = addTrace d 6 { getCore d k with
      faultPc := pc, faultAddr := BitVec.ofNat 22 addr, faultCode := code, faultValid := true,
      state := 3, stalled := false, cause := 0, brkSkip := false } :=
  getCore_setCore d k _

/-- The instruction ends in a fault. -/
theorem coreRun_fault {code : W8} {addr : Nat} (h : CoreReady d k len) (hl : legal = true) (ho : on (getCore d k) = true)
    (hb : body (getCore d k) d = .fault code addr) :
    coreRun k len legal on body d = coreFault k (getCore d k).pc code addr d := by
  rw [coreRun_ready h, coreOne_ready h hl ho, hb]
  exact stepEnd_of_not_stepping (by simp [getCore_coreFault, h.2.2.2.1])

/-- A non-zero unused field, or a reserved value of a field, is fault 01h. -/
theorem coreRun_illegal (h : CoreReady d k len) (hl : legal = false) :
    coreRun k len legal on body d = coreFault k (getCore d k).pc 1 0 d := by
  have hp' : ¬ (getCore d k).pc.toNat + len > sramHi := by have := h.2.2.2.2.2; omega
  rw [coreRun_ready h]
  simp only [coreOne, h.2.2.2.2.1, hl, hp']
  exact stepEnd_of_not_stepping (by simp [getCore_coreFault, h.2.2.2.1])

/-- The instruction blocks. -/
theorem coreRun_stall {cause : BitVec 3} (h : CoreReady d k len) (hl : legal = true) (ho : on (getCore d k) = true)
    (hb : body (getCore d k) d = .stall cause) : coreRun k len legal on body d = coreStall k cause d := by
  rw [coreRun_ready h, coreOne_ready h hl ho, hb]
  exact stepEnd_of_not_stepping (by simp [coreStall, h.2.2.2.1])

/-- A guard that is 0 makes the instruction a step over it (R162). -/
theorem coreRun_off (h : CoreReady d k len) (hl : legal = true) (ho : on (getCore d k) = false) :
    coreRun k len legal on body d = coreNext k ((getCore d k).pc.toNat + len) d := by
  have hp' : ¬ (getCore d k).pc.toNat + len > sramHi := by have := h.2.2.2.2.2; omega
  rw [coreRun_ready h]
  simp only [coreOne, h.2.2.2.2.1, hl, hp', ho]
  exact stepEnd_of_not_stepping (by simp [coreNext, h.2.2.2.1])

/-- Where a core goes on, only that core changed. -/
theorem coreNext_onlyCore (pc : Nat) (f : CoreSt → CoreSt) : OnlyCore k d (coreNext k pc (modCore k f d)) :=
  ⟨fun j hj => by simp [coreNext, getCore_modCore_ne _ _ _ _ hj], rfl⟩

@[simp] theorem getCore_coreNext (pc : Nat) (d : Dev) : getCore (coreNext k pc d) k = atPc pc (getCore d k) := by
  simp [coreNext, atPc]

/-- An access that is allowed and watched by no watchpoint has its effect. -/
theorem withAccess_ok {c : CoreSt} {a n al : Nat} {w : Bool} {r : CoreRes} (h : MayAccess c a n al w) :
    withAccess c a n al w r = r := by simp [withAccess, h.1, h.2]

/-- Every check of an access (R163): the map before the alignment, then the watchpoints. -/
theorem withAccess_cases (c : CoreSt) (a n al : Nat) (w : Bool) (r : CoreRes) :
    (∃ code, accessFault a n al w = some code ∧ withAccess c a n al w r = .fault code a)
    ∨ (accessFault a n al w = none ∧ wpHit c a n w = true ∧ withAccess c a n al w r = .halt)
    ∨ (MayAccess c a n al w ∧ withAccess c a n al w r = r) := by
  unfold withAccess MayAccess
  cases h : accessFault a n al w with
  | some code => exact .inl ⟨code, rfl, rfl⟩
  | none =>
    cases hw : wpHit c a n w with
    | true => exact .inr (.inl ⟨rfl, rfl, by simp⟩)
    | false => exact .inr (.inr ⟨⟨rfl, rfl⟩, by simp⟩)

/-- An instruction of the R format with an effect on its own core's record alone. -/
theorem coreR_onCore {f : RForm} {g : CoreSt → CoreSt} (h : GuardedReady d k f) (hl : legal = true)
    (hb : body (getCore d k) d = .done (modCore k g d)) (hs : (g (getCore d k)).stepping = false) :
    coreR k f legal body d = coreNext k ((getCore d k).pc.toNat + 4) (modCore k g d) :=
  coreRun_done h.1 hl h.2 hb (by simpa using hs)

/-- The same of the I format and the long form. -/
theorem coreI_onCore {f : ImmForm} {g : CoreSt → CoreSt} (h : ImmReady d k f) (hl : legal = true)
    (hb : body (getCore d k) d = .done (modCore k g d)) (hs : (g (getCore d k)).stepping = false) :
    coreI k f legal body d = coreNext k ((getCore d k).pc.toNat + immLen f) (modCore k g d) :=
  coreRun_done h.1 (by simp [hl, h.2.1]) h.2.2 hb (by simpa using hs)

/-- Memory of a core: a byte inside the range written reads what was written, every other byte as before. -/
theorem putLocal_sram (a p : Nat) (bs : Bytes) (c : CoreSt) :
    sGet 0 (putLocal a bs c).sram p = if a ≤ p ∧ p < a + bs.length then bs.getD (p - a) 0 else sGet 0 c.sram p :=
  sGet_putBytes _ _ _ _

/-- The canonical form of a core's memory is kept by every write. -/
theorem putLocal_wf (a : Nat) (bs : Bytes) (c : CoreSt) (h : sWf 0 c.sram = true) : sWf 0 (putLocal a bs c).sram = true :=
  sWf_putBytes _ _ _ h

/-! Memory: every operation that changes HBM keeps its canonical form, and the memory after reset has it. -/

/-- A DMA's write into a tenant's region (R168). -/
theorem hbmPut_wf (t off : Nat) (bs : Bytes) (d : Dev) (h : Memory.wf d.hbm) : Memory.wf (hbmPut t off bs d).hbm :=
  sWf_putBytes _ _ _ h

/-- A byte of the region written reads what was written, every other byte of HBM as before. -/
theorem hbmPut_reads (t off p : Nat) (bs : Bytes) (d : Dev) :
    sGet 0 (hbmPut t off bs d).hbm p = if hbmKey t off ≤ p ∧ p < hbmKey t off + bs.length then bs.getD (p - hbmKey t off) 0
      else sGet 0 d.hbm p := sGet_putBytes _ _ _ _

theorem foldl_hbm {α : Type} (l : List α) (f : Dev → α → Dev) (h : ∀ x a, (f x a).hbm = x.hbm) (d : Dev) :
    (l.foldl f d).hbm = d.hbm := by
  induction l generalizing d with
  | nil => rfl
  | cons a r ih => rw [List.foldl_cons, ih, h]

/-- A scrub's third step (R364). -/
theorem scrubHbm_wf (t : Nat) (d : Dev) (h : Memory.wf d.hbm) : Memory.wf (scrubHbm t d).hbm := by
  unfold scrubHbm
  have e := foldl_hbm (tenantHandles d t) (fun x i => let h := getHandle x i
    setHandle i { goldenAt := h.goldenAt, goldenHdr := h.goldenHdr, freedEpoch := 1 } x) (fun _ _ => rfl) d
  exact sWf_filter _ _ _ (by rw [e]; exact h)

/-- A handle's outlier block is written into its owner's region (R124). -/
theorem writeBlock_wf (i : Nat) (d : Dev) (h : Memory.wf d.hbm) : Memory.wf (writeBlock i d).hbm := by
  simp only [writeBlock]
  split
  · exact h
  · exact hbmPut_wf _ _ _ _ h

/-- Every block is written again (R124). -/
theorem writeBlocks_wf (d : Dev) (h : Memory.wf d.hbm) : Memory.wf (writeBlocks d).hbm := by
  unfold writeBlocks
  generalize d.arr.handles = l
  induction l generalizing d with
  | nil => exact h
  | cons a r ih => exact ih _ (writeBlock_wf _ _ h)

/-- HBM that is lost reads as memory that nothing has written. -/
theorem contextsLost_wf (d : Dev) : Memory.wf (contextsLost d).hbm := rfl

/-- A scrub's fifth step clears a core's memory above the runtime area and keeps the form. -/
theorem clearedSram_wf (c : CoreSt) (h : Memory.wf c.sram) : Memory.wf (c.sram.filter fun b => decide (b.1 < sramLo)) :=
  sWf_filter _ _ _ h

theorem reset_memory : MemoryKept State.reset.dev := ⟨rfl, fun _ => rfl⟩

/-! Frames of pages (R190, R202). -/

/-- A frame found lies in its tier, in the hot store within one bank, and meets no frame that a page takes. -/
theorem frameFor_free {d : Dev} {tier t n f : Nat} (h : frameFor d tier t n = some f) :
    frameFree (framesOf d tier t) tier (tierCap d tier t) n f = true :=
  (List.mem_filter.mp (List.min?_mem h)).2

/-- A page takes a free frame where its tier has one; else a value of which nothing is known. -/
theorem newFrame_cases (tier t n : Nat) (d : Dev) :
    (∃ f, frameFor d tier t n = some f ∧ newFrame tier t n d = (BitVec.ofNat 40 f, d))
    ∨ (frameFor d tier t n = none ∧ newFrame tier t n d = fresh 40 d) := by
  unfold newFrame
  cases frameFor d tier t n with
  | some f => exact .inl ⟨f, rfl, rfl⟩
  | none => exact .inr ⟨rfl, rfl⟩

/-! Events. -/

/-- Raising an event logs its record and offers it to the window: nothing else (R338, R345). -/
theorem raise_eq (code : W16) (sev : W8) (tenant : Nat) (unit : W32) (p : BitVec 128) (d : Dev) :
    raise code sev tenant unit p d = windowPlace (mkRec code sev tenant unit p d) (logRec (mkRec code sev tenant unit p d) d) := rfl

/-! Management commands: what the gate does with a record that fails a check (R446, R361). -/

/-- Without a session, only the factory's commands of a Blank device are heard. -/
theorem mgmtGate_unheard (mc : MgmtCmd) (code role : Nat) (need : Need) (ok : Bool) (act : Option Nat → Dev → Dev)
    (hs : mc.sid = none) (h : d.sec.lifecycle ≠ 0 ∨ code < 0x50 ∨ 0x52 < code) : mgmtGate mc code role need ok act d = d := by
  simp [mgmtGate, hs, h]

/-- A record whose sequence or tag is wrong has the effect of its check alone. -/
theorem mgmtGate_dropped (mc : MgmtCmd) (code role n : Nat) (need : Need) (ok : Bool) (act : Option Nat → Dev → Dev)
    (hs : mc.sid = some n) (hr : relayTo d n = none) (h : recordIn n mc.seq mc.tagOk d = (none, d1)) :
    mgmtGate mc code role need ok act d = d1 := by
  simp [mgmtGate, hs, hr, h]

end Sys2Proof.Machine
end

