-- ==== Sys2Proof/Tests/Slice0.lean ====
section
/-! SUPPORT. Tests: ill-formed commands, words of the core encodings, states that meet the hypotheses of each statement, and a few
single steps. -/

namespace Sys2Proof.Tests

open Sys2Proof Sys2Proof.Machine

/-! Ill-formed commands: one term for each check. -/

def noFrame : Frame := { hdr := [], payload := [], crc := 0 }
def wideFrame : Frame := { hdr := List.replicate 32 0, payload := List.replicate 9181 0, crc := 0 }

theorem test_wf_offset : (Instr.regWrite 0 true 4 true 0).wf = false ∧ (Instr.regWrite 0 true 4 false 0).wf = true
    ∧ (Instr.regReadLowHalf 0 true ⟨12, true⟩).wf = false ∧ (Instr.regReadLowHalf 0 true ⟨16, true⟩).wf = true
    ∧ (Instr.regReadLowHalf 0 true ⟨12, false⟩).wf = true ∧ (Instr.regReadLowHalf 0 true ⟨14, false⟩).wf = false := by decide
theorem test_wf_counts : (Instr.passResult 0 ⟨0, [0], [0], []⟩).wf = false ∧ countsOk 2 [0, 4096] = false
    ∧ countsOk 2 [0, 4095] = true := by decide
theorem test_wf_entry : (Instr.request 0 0 [0] []).wf = false ∧ (Instr.cancelEntry 0 0 [0]).wf = false
    ∧ (Instr.loadModel (.host 0 0 [0]) []).wf = false := by decide
theorem test_wf_config : (Instr.configRequest 0 false 2 0).wf = false ∧ (Instr.configRequest 0 false 4096 0).wf = false
    ∧ (Instr.configRequest 0 false 4092 0).wf = true := by decide
theorem test_wf_frame : (Instr.joinRec 0 noFrame).wf = false ∧ (Instr.frameReceive 0 noFrame).wf = false := by decide
theorem test_wf_payload : wideFrame.wf = true ∧ wideFrame.wfLink = false := by decide +kernel
theorem test_wf_stages : (Instr.stageAlert []).wf = false ∧ (Instr.windowEnd ⟨[]⟩).wf = false
    ∧ (Instr.sensorSweep ⟨[], []⟩).wf = false ∧ (Instr.adcSelfCheck [0]).wf = false := by decide

/-! Core instruction words, one for each format and class, written out from the tables of R165. -/

theorem test_core_words_1 :
    coreDecode 3 0x007FEEF8 0x0 = some (.sub 3 { d := 31, a := 30, b := 29, guard := 7, neg := true, mod := 0 })
    ∧ coreDecode 3 0x100E0FFF 0x0 = some (.addi 3 (.short { d := 7, a := 0, imm := 0xFFF }))
    ∧ coreDecode 3 0x20C22008 0x0 = some (.ld64 3 (.short { d := 1, a := 2, imm := 0x8 }))
    ∧ coreDecode 3 0x24080005 0x0 = some (.csrr 3 (.short { d := 4, a := 0, imm := 0x5 }))
    ∧ coreDecode 3 0x30022FFC 0x0 = some (.beq 3 { a := 1, b := 2, off := 0xFFC })
    ∧ coreDecode 3 0x31FE1000 0x0 = some (.jr 3 { a := 31, b := 1, off := 0x0 })
    ∧ coreDecode 3 0x418EF701 0x0 = some (.vclt 3 { d := 7, a := 15, b := 14, guard := 0, neg := false, mod := 1 })
    ∧ coreDecode 3 0x50462FFE 0x0 = some (.vst 3 { d := 3, a := 2, imm := 0xFFE })
    ∧ coreDecode 3 0x60464281 0x0 = some (.mmt 3 { d := 3, a := 4, b := 5, guard := 0, neg := false, mod := 1 }) := by decide

theorem test_core_words_2 :
    coreDecode 3 0x70422181 0x0 = some (.qfp4 3 { d := 1, a := 2, b := 3, guard := 0, neg := false, mod := 1 })
    ∧ coreDecode 3 0x81469002 0x0 = some (.rmerge 3 { d := 3, a := 9, b := 0, guard := 0, neg := false, mod := 2 })
    ∧ coreDecode 3 0x901E1100 0x0 = some (.send 3 { d := 15, a := 1, b := 2, guard := 0, neg := false, mod := 0 })
    ∧ coreDecode 3 0xA0464000 0x0 = some (.dwait 3 { d := 3, a := 4, b := 0, guard := 0, neg := false, mod := 0 })
    ∧ coreDecode 3 0xB0805003 0x0 = some (.atest 3 { d := 0, a := 5, b := 0, guard := 0, neg := false, mod := 3 })
    ∧ coreDecode 3 0xC08E6280 0x0 = some (.pxor 3 { d := 7, a := 6, b := 5, guard := 0, neg := false, mod := 0 })
    ∧ coreDecode 3 0xD1120010 0x0 = some (.rdcyc 3 { d := 9, a := 0, b := 0, guard := 1, neg := false, mod := 0 })
    ∧ coreDecode 3 0xF3202050 0x1000 = some (.jal 3 { d := 1, a := 0, guard := 2, neg := true, mod := 0, imm := 0x1000 })
    ∧ coreDecode 3 0xF20CA600 0xfffffff8 = some (.ld64 3 (.long { d := 5, a := 6, guard := 0, neg := false, mod := 0, imm := 0xFFFFFFF8 })) := by decide

/-- Class Eh, an op past the last of its class, and an inner class past 3h are reserved. -/
theorem test_core_reserved : coreDecode 3 0xE0000000 0 = none ∧ coreDecode 3 0x03800000 0 = none
    ∧ coreDecode 3 0xF4000000 0 = none := by decide

/-! States that meet the hypotheses of the statements about cores. -/

def dev0 : Dev := State.reset.dev
def form0 : RForm := { d := 0, a := 0, b := 0, guard := 0, neg := false, mod := 0 }
def formP5 : RForm := { d := 31, a := 31, b := 31, guard := 5, neg := true, mod := 7 }
def long0 : ImmForm := .long { d := 31, a := 31, guard := 5, neg := true, mod := 0, imm := 0xFFFFFFFF }
def short0 : ImmForm := .short { d := 31, a := 31, imm := 0xFFF }
/-- A core at pc with scalar register 1 at v. -/
def atCore (pc : BitVec 22) (v : W64) : CoreSt := { ws 1 v {} with pc := pc }
/-- The device with core 0 as c. -/
def withCore (c : CoreSt) : Dev := setCore 0 c dev0

/-- Ready at the last word of the executable map, unguarded and under an inverted predicate that is 0. -/
theorem witness_ready : CoreReady (withCore (atCore 0x17FFFC 0)) 0 4 ∧ CoreReady (withCore (atCore 0x17FFF8 0)) 0 8
    ∧ GuardedReady dev0 271 form0 ∧ GuardedReady dev0 271 formP5 ∧ ImmReady dev0 271 long0 ∧ ImmReady dev0 271 short0 := by
  unfold GuardedReady ImmReady CoreReady; decide

/-- ScalarArithmetic: shifts by 63 and by 64. -/
theorem witness_ScalarArithmetic : GuardedReady (withCore (atCore 0 63)) 0 form0 ∧ GuardedReady (withCore (atCore 0 64)) 0 form0
    ∧ (rs (getCore (withCore (atCore 0 63)) 0) 1).toNat = 63 ∧ (rs (getCore (withCore (atCore 0 64)) 0) 1).toNat = 64 := by
  unfold GuardedReady CoreReady; decide

/-- LoadsAndStores: the last word of the map, the read-only window, a misaligned address, one outside the map. -/
theorem witness_LoadsAndStores : MayAccess {} 0x17FFF8 8 8 true ∧ MayAccess {} 0x201000 8 8 false
    ∧ accessFault 0x10004 8 8 false = some 2 ∧ accessFault 0x17FFFC 8 8 true = some 3
    ∧ memAddr (atCore 0 0x17FFF9) (.short { d := 2, a := 1, imm := 0xFFF }) = 0x17FFF8 := by
  unfold MayAccess; decide

/-- BranchesAndJumps: equal and unequal words, the two predicates, an aligned and a misaligned target. -/
theorem witness_BranchesAndJumps : rs (atCore 0 6) 1 ≠ rs (atCore 0 6) 0 ∧ (rp (atCore 0 0) 0).getLsbD 0 = true
    ∧ (rp (atCore 0 0) 1).getLsbD 0 = false ∧ (rs (atCore 0 0x400008) 1).toNat % 4 = 0 ∧ (rs (atCore 0 6) 1).toNat % 4 ≠ 0
    ∧ (0x1002 : W32).toNat % 4 ≠ 0 := by decide

/-- CoreControlRegisters: indices 0–6 reach an instruction; 0–5 name a register. -/
theorem witness_CoreControlRegisters : (List.range 7).map (fun i => (immOf (.short { d := 1, a := 0, imm := BitVec.ofNat 12 i })).toNat)
      = [0, 1, 2, 3, 4, 5, 6]
    ∧ (List.range 6).all (fun i => (csrVal dev0 0 (getCore dev0 0) i).isSome) = true := by decide

/-- A descriptor entry outstanding toward HBM in DMA queue 3. -/
def dmaOut : CoreSt := { dma := [(3, { ents := [{ desc := List.replicate 28 0 ++ [1, 0, 0, 0], pc := 0 }] })] }

/-- PredicatesAndSystem: DMA outstanding or not, fence masks with and without DMA, a debugger attached or not. -/
theorem witness_PredicatesAndSystem : (∃ q ∈ dmaOut.dma, ∃ e ∈ q.2.ents, fld e.desc 28 1 % 2 = 1)
    ∧ (¬∃ q ∈ (getCore dev0 0).dma, ∃ e ∈ q.2.ents, fld e.desc 28 1 % 2 = 1) ∧ (4 : Fin 8).val.testBit 2 = true
    ∧ (3 : Fin 8).val.testBit 2 = false ∧ GuardedReady (withCore { attached := true }) 0 form0
    ∧ GuardedReady (withCore { attached := true, brkSkip := true }) 0 form0 := by
  unfold GuardedReady CoreReady; decide

/-- VectorArithmetic and VectorLanes: arithmetic types, lanes on and off, an integer sum in range. -/
theorem witness_VectorArithmetic : [0, 1, 2, 5, 6].all (fun m : Fin 8 => tyArith m) = true ∧ fmtOf 0 ≠ none ∧ fmtOf 6 = none
    ∧ laneOn (guardBits {} 0 false) 8 127 = true ∧ laneOn (guardBits {} 5 false) 8 127 = false
    ∧ signed 127 8 + signed 128 8 < 2 ^ (8 - 1) ∧ signed (laneOf 8 (rv (wv 0 0 {}) 0) 127) 8 < 2 ^ (8 - 1) := by decide +kernel

theorem witness_VectorLanes : MayAccess {} 0x17FF80 128 128 true ∧ MayAccess {} 0x201000 128 128 false
    ∧ laneCmp true 0 (laneOf 32 (rv (wv 0 0 {}) 0) 31) (laneOf 32 (rv (wv 0 0 {}) 0) 0) = true
    ∧ laneOf 8 (rv (wv 0 0 {}) 0) 3 < 128 ∧ fmtOf 4 ≠ none ∧ fmtOf 5 = none := by
  unfold MayAccess; decide +kernel

/-- MatrixInstructions: tiles at both ends of the map, weights without code 10b. -/
theorem witness_MatrixInstructions : MayAccess {} 0x10000 4096 32 true ∧ MayAccess {} 0x17F800 2048 32 true
    ∧ MayAccess {} 0x10000 544 32 false ∧ MayAccess {} 0x17FC00 1024 32 false ∧ MayAccess {} 0x17FF00 256 32 false
    ∧ (∀ n, n < 16 → bits (byteAt (localBytes {} 0x10000 4) (n / 4)) (2 * (n % 4)) 2 ≠ 2) := by
  unfold MayAccess; decide

/-- BlockShift: at the least scale the largest shift fits an amount of 0; a huge amount fits none. -/
theorem witness_BlockShift : 0 < satLevel (unit32 1 3) ∧ (∀ m, m ≤ 3 → ¬ 0x7F7FFFFF < satLevel (unit32 1 m)) := by decide

/-- A core with a quantise descriptor at 10000h: one element at 10100h, its record at 10200h, the side record at 10400h. -/
def quantCore (side : Nat) : CoreSt :=
  putLocal 0x10000 (toLe 4 0x10100 ++ toLe 4 0x10200 ++ toLe 4 side ++ List.replicate 8 0 ++ toLe 2 1) (ws 1 0x10000 {})

/-- QuantiseInstructions: with and without a side record; addresses of a block of qfp4. -/
theorem witness_QuantiseInstructions : [0, 0x10400].all (fun side =>
      let q := localBytes (quantCore side) (rs (quantCore side) 1).toNat 32
      fld q 0 4 = 0x10100 ∧ fld q 4 4 = 0x10200 ∧ fld q 8 4 = side ∧ fld q 20 2 = 1 ∧ fld q 16 4 = 0 ∧ fld q 12 4 = 0) = true
    ∧ MayAccess (quantCore 0) 0x10000 32 32 false ∧ accessFault 0x10100 4 4 false = none ∧ accessFault 0x10200 160 32 true = none
    ∧ accessFault 0x10400 32 32 true = none ∧ GuardedReady (withCore (quantCore 0)) 0 form0
    ∧ accessFault 0x17FF80 128 4 false = none ∧ accessFault 0x17FFF0 16 1 true = none ∧ accessFault 0x17FFFF 1 1 true = none := by
  unfold MayAccess GuardedReady CoreReady; decide

/-- Reductions: a chunk with every lane and one with none, contexts of no, one and two elements. -/
theorem witness_Reductions : ∀ m, fmtOf 0 = some m → validN (chunk m (rv (wv 0 0 {}) 0) (guardBits {} 0 false)) ≠ 0
    ∧ validN (chunk m (rv (wv 0 0 {}) 0) (guardBits {} 5 false)) = 0 := by
  intro m h; cases h; decide +kernel

theorem witness_Reductions_contexts : (rc (wc 3 { n := 1, a := 0, b := 0 } {}) 3).n = 1 ∧ 1 < (rc (wc 3 { n := 2, a := 0, b := 0 } {}) 3).n.toNat
    ∧ (rc {} 3).n = 0 ∧ MayAccess {} 0x17FFF0 16 8 true ∧ (ctxOf (localBytes {} 0x17FFF0 16)).n = 0 := by
  unfold MayAccess; decide

/-- A channel 1 enabled toward channel 2 of core 5 with 4 slots of 64 bytes at 20000h, with messages of the lengths given. -/
def chan1 (credits : Nat) (lens : List Nat) : CoreSt :=
  setCh 1 { enable := true, peer := 5, peerCh := 2, slotLog2 := 6, slots := 4, ring := 0x20000, credits := credits, lens := lens, grantor := 83 } (atCore 0 0x10000)
/-- Cores 0 and 5 joined. -/
def joined (credits : Nat) (lens : List Nat) : Dev :=
  setCore 5 (setCh 2 { enable := true, peer := 0, peerCh := 1, slotLog2 := 6, slots := 1, ring := 0x20000, returning := 1, grantor := 2 } {})
    (withCore (ws 2 64 (chan1 credits lens)))
def sendForm : RForm := { form0 with d := 1, a := 1, b := 2 }
/-- A channel descriptor that chcfg accepts: peer 5, peer_ch 2, slot_log2 6, 4 slots, enabled or not, ring 20000h. -/
def chanBytes (en : W8) : Bytes := [5, 0, 2, 6, 4, en, 0, 0] ++ toLe 4 0x20000 ++ List.replicate 52 0

/-- Messages: a message of the peer's slot size with a credit and without, channels with and without a message. -/
theorem witness_Messages : GuardedReady (joined 1 [64]) 0 sendForm ∧ (rs (getCore (joined 1 []) 0) 2).toNat = 64
    ∧ 64 ≤ peerSlot (joined 0 []) (getCh (getCore (joined 0 []) 0) 1)
    ∧ MayAccess (getCore (joined 0 []) 0) 0x10000 64 1 false ∧ sendCredits (joined 0 []) (getCh (getCore (joined 0 []) 0) 1) = 0
    ∧ sendCredits (joined 1 []) (getCh (getCore (joined 1 []) 0) 1) = 1
    ∧ (getCh (getCore (joined 1 [64]) 0) 1).lens = 64 :: [] ∧ chPeer (joined 1 []) (getCh (getCore (joined 1 []) 0) 1) < 272
    ∧ (getCh (getCore (joined 1 []) 5) 2).returning ≠ 0 := by
  unfold MayAccess GuardedReady CoreReady; decide

/-- Messages in flight or none, to a core in Run and to one that is Off; a side its peer granted credits and one it did not. -/
def inFlight1 (run : Bool) : Dev :=
  let d := { joined 1 [] with grid := { (joined 1 []).grid with net := [⟨0, 5, 2, [7]⟩] } }
  if run then setDom 5 { state := 0 } d else d
theorem witness_Messages_flight : inFlight (joined 1 []) 0 1 = [] ∧ inFlight (inFlight1 true) 5 2 ≠ []
    ∧ (inFlight1 true).grid.net = [] ++ ⟨0, 5, 2, [7]⟩ :: [] ∧ (getCh (getCore (inFlight1 true) 5) 2).enable = true
    ∧ domHolds (inFlight1 true) 5 = false ∧ domHolds (inFlight1 false) 5 = true ∧ (getCh (getCore (inFlight1 true) 5) 2).returning ≠ 0
    ∧ (getCh (getCore (joined 1 []) 5) 2).grantor = sideNo 0 1 ∧ (getCh (getCore (joined 1 []) 6) 2).grantor ≠ sideNo 0 1 := by decide

theorem witness_Messages_configure : [0, 1].all (fun en =>
      let c := putLocal 0x10000 (chanBytes en) (atCore 0 0x10000)
      decide (fld (localBytes c (rs c 1).toNat 64) 5 1 = en.toNat) && chanOk (localBytes c (rs c 1).toNat 64)) = true
    ∧ accessFault (chanOf (chanBytes 1)).ring.toNat (4 * 2 ^ 6) (2 ^ 6) true = none
    ∧ MayAccess (putLocal 0x10000 (chanBytes 1) (atCore 0 0x10000)) 0x10000 64 32 false := by
  unfold MayAccess; decide

/-- DmaTransfers: queues that take another descriptor and a full one; counts reached and not; descriptors that pass and fail. -/
def dmaBytes (dir : W8) (len : Nat) : Bytes :=
  toLe 8 0 ++ toLe 4 0x10000 ++ toLe 4 len ++ toLe 2 1 ++ toLe 2 0 ++ toLe 8 64 ++ [dir, 0, 0, 0]
def dmaDev (dir : W8) (len started : Nat) : Dev :=
  withCore (setQ 3 { ents := [⟨0, dmaBytes dir len⟩], started := started } (atCore 0 1))
theorem witness_DmaTransfers :
    (getQ (setQ 3 { ents := List.replicate 32 ⟨0, []⟩ } {}) 3).ents.length = 32 ∧ (getQ {} 3).ents.length < 32
    ∧ (getQ {} 3).count.toNat < (rs (atCore 0 1) 1).toNat ∧ (rs (atCore 0 1) 0).toNat ≤ (getQ {} 3).count.toNat
    ∧ (getQ (getCore (dmaDev 1 64 0) 0) 3).ents[0]? = some ⟨0, dmaBytes 1 64⟩
    ∧ (getQ (getCore (dmaDev 1 64 1) 0) 3).started = 0 + 1
    ∧ fld (dmaBytes 1 64) 28 1 % 2 = 1 ∧ fld (dmaBytes 0 64) 28 1 % 2 = 0 ∧ fld (dmaBytes 1 64) 12 4 ≤ fld (dmaBytes 1 64) 20 8 := by decide

theorem witness_DmaTransfers_judged : dmaOk (dmaDev 0 0 0) (getCore (dmaDev 0 0 0) 0) (dmaBytes 0 0) = false := by decide

/-- ArrayCallTickets: a status word outside the map, a misaligned one, a good one; 15 and 16 calls outstanding. -/
def callBytes (status : Nat) : Bytes := List.replicate 28 0 ++ toLe 4 status ++ List.replicate 32 0
def callCore (status n : Nat) : CoreSt := putLocal 0x10000 (callBytes status) { atCore 0 0x10000 with calls := List.replicate n ⟨0, []⟩ }
theorem witness_ArrayCallTickets : [0x17FFF9, 0x10004, 0x17FFF8].map (fun st =>
      let b := localBytes (callCore st 0) (rs (callCore st 0) 1).toNat 64
      (inSram (fld b 28 4) 8, fld b 28 4 % 8)) = [(false, 1), (true, 4), (true, 0)]
    ∧ (callCore 0 16).calls.length = 16 ∧ (callCore 0 15).calls.length = 15
    ∧ MayAccess (callCore 0x17FFF8 15) 0x10000 64 32 false
    ∧ slabCols (getHandle dev0 0) 0 1 = 512 ∧ inSram 0x17F800 (4 * 512) = true ∧ inSram 0 (4 * 512) = false := by
  unfold MayAccess; decide

/-- TicketWaits: distances 1, 2³¹, 0 and 2³¹ + 1; a ticket done and one outstanding. -/
theorem witness_TicketWaits : [(1, 0), (0x80000000, 0), (0, 0), (0x80000001, 0)].map (fun x : W32 × W32 =>
      (x.1.toNat + 2 ^ 32 - x.2.toNat) % 2 ^ 32) = [1, 2 ^ 31, 0, 2 ^ 31 + 1]
    ∧ (∀ x ∈ ({} : CoreSt).calls, x.ticket ≠ 0) ∧ ¬(∀ x ∈ (callCore 0 1).calls, x.ticket ≠ 0) := by decide

/-- Core 0 in Run, and what a dispatch asks of it. -/
theorem witness_Dispatch : domHolds (setDom 0 { state := 0 } dev0) 0 = false ∧ coreRetired (setDom 0 { state := 0 } dev0) 0 = false
    ∧ domHolds dev0 0 = true ∧ (getCore (setDom 0 { state := 0 } dev0) 0).calls = []
    ∧ (∃ n, n < 14 ∧ inFlight (inFlight1 true) 5 n ≠ []) ∧ (∀ n, n < 14 → inFlight dev0 5 n = []) :=
  ⟨by decide, by decide, by decide, by decide, ⟨2, by decide, by decide⟩, by decide⟩

/-- KernelDispatchAndHalt: a core that may take a kernel at the top of the map; a halt with calls, with DMA, with neither. -/
theorem witness_KernelDispatchAndHalt : (getCore dev0 0).state = 0 ∧ (getCore dev0 0).calls = []
    ∧ (∀ q ∈ (getCore dev0 0).dma, q.2.ents = []) ∧ inSram (0x17FFFC : BitVec 22).toNat ([0, 0, 0, 0] : Bytes).length = true
    ∧ (callCore 0 1).calls ≠ [] ∧ (∃ q ∈ dmaOut.dma, q.2.ents ≠ []) ∧ dmaOut.calls = []
    ∧ (getCore (withCore { state := 3 }) 0).state = 3 := by decide

/-- GuardsAndEncodings: a guard that is off, fields that are illegal, a pc past the map, a halted core, a stalled one. -/
theorem witness_GuardsAndEncodings : guardOn (getCore dev0 0) 5 false = false ∧ decide (formP5.mod = 0) = false
    ∧ sramHi < (atCore 0x17FFFD 0).pc.toNat + 4 ∧ (getCore (withCore { state := 2 }) 0).state = 2
    ∧ immLegal (.long { d := 0, a := 0, guard := 0, neg := false, mod := 1, imm := 0 }) = false
    ∧ immGuard (getCore dev0 0) (.long { d := 0, a := 0, guard := 5, neg := false, mod := 0, imm := 0 }) = false
    ∧ (getCore (withCore { stalled := true, cause := 1 }) 0).stalled = true ∧ (1 : BitVec 3) ≠ 6
    ∧ coreRetired (setUnit (uCore 0).toNat { state := 2 } dev0) 0 = true ∧ coreRetired dev0 0 = false
    ∧ (getCore (withCore { relock := true }) 0).relock = true ∧ (getCore (withCore { relock := true }) 0).state = 0 := by decide

theorem witness_DmaTransfers_moves : dmaOk (dmaDev 1 64 0) (getCore (dmaDev 1 64 0) 0) (dmaBytes 1 64) = true := by decide +kernel

/-! States that meet the hypotheses of the statements about the host side. -/

/-- Core 271, pipeline 67, the control processors and the power processor run. -/
def runDev : Dev := setDom 344 { state := 0 } (setDom 374 { state := 0 } (setDom 271 { state := 0 } (setDom 339 { state := 0 } dev0)))

/-- A device whose functions are present: the link is trained and configuration has begun. -/
def hostDev : Dev := { runDev with hif := { dev0.hif with cfgFrom := some 5, vfEnable := true, trained := true, up := true }, pins := { dev0.pins with perstN := true } }
/-- The device with function 3 in a state. -/
def withFn (f : FnSt) : Dev := setFn 3 f hostDev

/-- DebuggedCores: a breakpoint hit; a session of level 2 that covers core 0, with room in the audit ring. -/
theorem witness_DebuggedCores : brkHit ({ brk := [(3, 0x410000)], pc := 0x10000 } : CoreSt) = true := by decide

/-- EventRecords: log ready and not; a window off, on with room, on and full; doorbells within and past the count. -/
theorem witness_EventRecords : dev0.log.ready = false ∧ ({ dev0 with log := { ready := true } } : Dev).log.ready = true
    ∧ (getFn (withFn { evtEnable := true }) 3).evtWcnt - (getFn (withFn { evtEnable := true }) 3).evtRcnt ≠ 512
    ∧ (getFn (withFn { evtEnable := true, evtWcnt := 512 }) 3).evtWcnt - (getFn (withFn {}) 3).evtRcnt = 512
    ∧ (getFn (withFn {}) 3).evtLost.toNat < 2 ^ 32 - 1 ∧ fnPresent (withFn {}) 3 = true
    ∧ ((512 : W32) - 0).toNat ≤ ((512 : W32) - 0).toNat ∧ ((512 : W32) - 0).toNat < ((513 : W32) - 0).toNat := by decide

/-- RegisterReads: a 64-bit and a 32-bit register, a latched high half, a block that sleeps. -/
theorem witness_RegisterReads : PfPresent hostDev ∧ PlainReg hostDev 0x40 ∧ PlainReg hostDev 0x44 ∧ PlainReg hostDev 0x4C
    ∧ (bar2Reg hostDev 0x40).any (·.1) = true ∧ bar2Reg hostDev 0x44 = none ∧ bar2Reg hostDev 0x4C = some (false, 60)
    ∧ sFind [(latchKey 0 true 0x44, (7 : W32))] (latchKey 0 true 0x44) = some 7 ∧ fnPresent hostDev 63 = true := by
  unfold PfPresent PlainReg; decide +kernel
/-- RegisterReads, 64 bits wide: two 32-bit registers that lie in one 8-byte word. -/
theorem witness_RegisterReads_wide : PlainReg hostDev 0x48 ∧ PlainReg hostDev (0x48 + 4) ∧ (bar2Reg hostDev 0x48).any (fun r => !r.1) = true
    ∧ (bar2Reg hostDev (0x48 + 4)).any (fun r => !r.1) = true := by
  unfold PlainReg; decide +kernel
theorem witness_RegisterReads_asleep : regAsleep (setDom 344 { state := 3 } hostDev) 0x70000 = true
    ∧ PfPresent (setDom 344 { state := 3 } hostDev) := by
  unfold PfPresent; decide

/-- RegisterWrites. -/
theorem witness_RegisterWrites : PfPresent hostDev ∧ (getDom hostDev 344).state = 0 ∧ (getDom hostDev 374).state = 0
    ∧ regAsleep (setDom 344 { state := 3 } hostDev) 0x70000 = true ∧ 0x70000 % 8 = 0 := by
  unfold PfPresent; decide

/-- TimeAndIslands: a sample in progress or not; running islands; a domain in Sleep that nothing wakes yet. -/
theorem witness_TimeAndIslands : dev0.time.busy = false ∧ ({ dev0 with time := { busy := true } } : Dev).time.busy = true
    ∧ (getDom runDev 271).state = 0 ∧ (getDom runDev (272 + 67)).state = 0 ∧ islandRuns runDev .power = true
    ∧ islandDom (.core 9) = some 9 ∧ (getDom (setDom 9 { state := 2 } dev0) 9).entry = none
    ∧ (getDom (setDom 9 { state := 2 } dev0) 9).wake = 0 ∧ 2 ≤ (getDom (setDom 9 { state := 2 } dev0) 9).state := by decide

/-- HostRings: rings off and on, at sizes 1 and 16; doorbells inside and outside the ring. -/
def ringFn : FnSt := { sq := [(0, { enable := true, active := true, sizeLog2 := 4 })]
                       cq := [(0, { enable := true, active := true, sizeLog2 := 4, intEn := true, unsignalled := 1, tail := 3 })] }
theorem witness_HostRings : fnPresent (withFn ringFn) 3 = true ∧ (getSq (withFn {}) 3 15).enable = false
    ∧ (getCq (withFn ringFn) 3 (0x0010 / 256 % 16)).enable = true ∧ 16 % 32 = 16 ∧ 1 % 32 = 1 ∧ (getSq (withFn ringFn) 3 0).enable = true
    ∧ (getCq (withFn {}) 3 15).enable = false ∧ (getCq (withFn ringFn) 3 0).enable = true ∧ (getSq (withFn ringFn) 3 0).active = true
    ∧ 15 < 2 ^ (getSq (withFn ringFn) 3 0).sizeLog2.toNat ∧ 2 ^ (getSq (withFn ringFn) 3 0).sizeLog2.toNat ≤ 16
    ∧ (getCq (withFn ringFn) 3 0).active = true ∧ (getCq (withFn ringFn) 3 0).held = []
    ∧ (3 + 2 ^ 4 - 0) % 2 ^ 4 ≤ ((getCq (withFn ringFn) 3 0).tail.toNat + 2 ^ 4 - 0) % 2 ^ 4
    ∧ (getCq (withFn ringFn) 3 0).intEn = true ∧ 0 < (getCq (withFn ringFn) 3 0).unsignalled := by decide

/-- HostResetsAndLink: functions present, configuration begun and not yet, a ring that may fetch. -/
theorem witness_HostResetsAndLink : fnPresent hostDev 63 = true ∧ fnPresent hostDev 0 = true ∧ hostDev.hif.trained = true
    ∧ hostDev.pins.perstN = true ∧ hostDev.hif.cfgFrom = some 5 ∧ hostDev.time.stampUs < 5
    ∧ 5 ≤ ({ hostDev with time := { stampUs := 5 } } : Dev).time.stampUs
    ∧ ({ hostDev with hif := { hostDev.hif with vfEnable := false } } : Dev).hif.vfEnable = false := by decide

/-! Power. -/

/-- The device with stage 5 in a state. -/
def withStage (x : StageSt) : Dev := setStage 5 x dev0

/-- SetVoltage: a step of 50 mV at the top of the range, a step past it, a ramp that runs. -/
theorem witness_SetVoltage : (getStage (withStage { target := 850 }) 5).faulty = false ∧ ramping (withStage { target := 850 }) 5 = false
    ∧ (railOf 5).hi = 900 ∧ (900 ≤ (getStage (withStage { target := 850 }) 5).target + 50)
    ∧ ¬(900 ≤ (getStage (withStage { target := 849 }) 5).target + 50) ∧ ramping (withStage { rampEnd := 1 }) 5 = true := by decide

/-- PowerStages: rails that may rise and may not; values inside and outside the range; items 6 and 7; the rated current. -/
theorem witness_PowerStages : railMayRise dev0 5 = true ∧ railMayRise dev0 11 = false
    ∧ ((railOf 5).lo ≤ 800 ∧ 900 ≤ (railOf 5).hi) ∧ ¬((railOf 5).lo ≤ 799)
    ∧ (∀ n ∈ (railOrder.dropWhile (· ≠ 5)).drop 1, (getStage dev0 n).enabled = false)
    ∧ 500 ≤ (railOf 5).rated ∧ (railOf 5).rated < 501 ∧ (getStage (withStage { faulty := true }) 5).faulty = true
    ∧ (7 : Fin 8).val < (railOf 0).phases ∧ (getStage dev0 0).failed.getLsbD 7 = false
    ∧ 0 < ((List.range (railOf 0).phases).filter fun i => !((getStage dev0 0).failed ||| (1 <<< 7)).getLsbD i).length := by decide

/-- PowerWindows. -/
theorem witness_PowerWindows : (∀ n, n < 12 → (getStage dev0 n).derated = false) ∧ dev0.pwr.envW = dev0.pwr.e := by decide

theorem witness_PowerWindows_thermal : (List.range 25).any (regionAbove { dev0 with lmp := { regions := [(24, { temp := 600 })] } }) = true
    ∧ (List.range 25).any (regionAbove dev0) = false
    ∧ ((List.range 25).all fun r => decide ((getRegion dev0 r).temp + 12 ≤ 4 * (throttlePoint dev0 r : Int))) = true
    ∧ dev0.pwr.halfUntil = none ∧ (getDom runDev 344).state = 0 := by decide

/-- The device in a power mode. -/
def inMode (m : Nat) : Dev := { dev0 with pwr := { dev0.pwr with mode := m } }

/-- PowerDomains: a domain that may go down, one that is held, an entry at steps 2 and 4, a wake at steps 1 and 4. -/
theorem witness_PowerDomains : (getDom runDev 271).state < 2 ∧ (getDom runDev 271).entry = none ∧ domHeld runDev 271 4 = false
    ∧ (getDom runDev 271).wake = 0 ∧ domHeld { runDev with nor := { runDev.nor with at_ := 3 } } 271 2 = true
    ∧ (getDom (setDom 271 { state := 0, wake := 1 } dev0) 271).wake ≠ 0
    ∧ (getDom (setDom 9 { state := 0, entry := some 4, step := 2 } dev0) 9).entry = some 4
    ∧ 4 ≤ (getDom (setDom 9 { state := 0, entry := some 2, step := 4 } dev0) 9).step
    ∧ (getDom (setDom 9 { wakeAsked := true, entry := some 2 } dev0) 9).wakeAsked = true
    ∧ (getDom (setDom 374 { state := 2, wake := 4, rerun := true } dev0) 374).downAsked = none
    ∧ domHeld (setDom 9 { state := 0, entry := some 4, step := 2 } dev0) 9 4 = false
    ∧ (let d : Dev := setDom 271 { state := 0, entry := some 2, step := 2 } { runDev with nor := { runDev.nor with at_ := 3 } }
       (getDom d 271).entry = some 2 ∧ domHeld d 271 2 = true)
    ∧ (getDom (setDom 374 { state := 2, wake := 4, rerun := true } dev0) 374).wake = (3 : Fin 4).val + 1
    ∧ (getDom (setDom 374 { state := 2, wake := 3 } dev0) 374).wake ≠ (3 : Fin 4).val + 1
    ∧ dev0.rel.hbmOff.contains (348 - 345) = false ∧ 2 ≤ (getDom dev0 348).state ∧ (getDom dev0 348).entry = none ∧ (getDom dev0 348).wake = 0
    ∧ 4 ≤ (getDom (setDom 374 { state := 2, wake := 4, rerun := true } dev0) 374).wake := by decide

/-- A trip of 30 s ago that waits for its restart, n trips in 24 h. -/
def tripDev (n : Nat) : Dev :=
  { dev0 with time := { stampUs := 30000000 }, pwr := { dev0.pwr with mode := 1, restartDue := true, trips := List.replicate n 0 } }
theorem witness_PowerDomains_wakes : (inMode 1).pwr.tripped = false ∧ (5 : BitVec 7).toNat ≠ cfgGet dev0 0x0405 0
    ∧ (BitVec.ofNat 7 (cfgGet dev0 0x0405 0)).toNat = cfgGet dev0 0x0405 0 ∧ dev0.pins.alertN = true
    ∧ ({ dev0 with pins := { alertN := false } } : Dev).pins.alertN = false
    ∧ (tripDev 3).pwr.tripUs + 30000000 ≤ (tripDev 3).time.stampUs ∧ trips24 (tripDev 3) ≤ 3 ∧ 3 < trips24 (tripDev 4)
    ∧ dev0.time.stampUs < dev0.pwr.tripUs + 30000000 := by decide

/-- StartUp: steps 1, 2, 3 and 12 of a start, rails with healthy phases. -/
theorem witness_StartUp : (inMode 0).pwr.mode = 0 ∧ (inMode 2).pwr.mode = 2
    ∧ [1, 2, 3, 12].all (fun n => ({ inMode 2 with nor := { dev0.nor with at_ := n } } : Dev).nor.at_ == n) = true
    ∧ (∀ n, n < 12 → healthyPhases dev0 n ≠ []) ∧ dev0.nor.standbyWaits = false := by decide

/-- A serving device with an established session 1 of role 0 and of role 2. -/
def sess (role : Nat) : SessSt := { conn := 0, established := true, idx := 0, key := [], role := role, hello := [] }
def mgmtDev (role : Nat) : Dev := setSess 1 (sess role) (inMode 3)
def cmd1 : MgmtCmd := { sid := some 1, seq := 0, tagOk := true, id := 5, clean := true }

/-- Commands of the A role alone, and of every role, on a serving device. -/
theorem witness_Admitted : Admitted cmd1 0x30 0 .serving (mgmtDev 0) 1 (sess 0) ∧ Admitted cmd1 0x01 2 .hub (mgmtDev 2) 1 (sess 2)
    ∧ Admitted cmd1 0x34 1 .lantern (setSess 1 (sess 1) (inMode 4)) 1 (sess 1) := by
  unfold Admitted; decide

/-- FirmwareUpdates: the states of an update, a transfer that goes on, a handover and confirmations. A header is good where its
signature verifies, which no value of the opaque cryptography decides here. -/
def fwDev (st : Nat) (b : Nat) (handed confirmed : List Nat) : Dev :=
  { mgmtDev 1 with nor := { dev0.nor with fwState := st, nextOff := 4096, handed := handed, confirmed := confirmed, boot0 := { dev0.nor.boot0 with statusB := b } } }
theorem witness_FirmwareUpdates : SeqRoom (fwDev 1 3 [] []) ∧ Admitted cmd1 0x31 1 .lantern (fwDev 1 3 [] []) 1 (sess 1)
    ∧ (fwDev 1 3 [] []).nor.nextOff ≤ 4096 ∧ 25165824 - 16352 + (List.replicate 0 (0 : W8)).length ≤ 25165824
    ∧ idleSlot (fwDev 0 1 [] []) = 1 ∧ slotStatus (bootHdr (fwDev 0 1 [] [])) 1 = 1
    ∧ hdrBad (List.replicate 4096 0) (fwDev 0 1 [] []) ≠ 0 ∧ (List.replicate 4096 (0 : W8)).length = 4096
    ∧ (fwDev 3 1 [] []).sec.marks = [] ∧ [7, 6, 5, 4, 3, 2, 1][(fwDev 3 1 [7, 6, 5, 4, 3, 2] []).nor.handed.length]? = some 1
    ∧ 1 ∈ (fwDev 3 1 [7, 6, 5, 4, 3, 2, 1] [2, 3, 4, 5, 6, 7]).nor.handed ∧ 1 ∉ (fwDev 3 1 [] [2, 3, 4, 5, 6, 7]).nor.confirmed
    ∧ (fwDev 3 1 [] [2, 3, 4, 5, 6, 7]).nor.confirmed.length = 6 := by
  unfold SeqRoom Admitted; decide +kernel

/-! The Lamplighter. -/

/-- A watch program of eight words runs; the converter is in list mode, configured, running. -/
def watchDev (next : Option (Nat × List W16)) : Dev :=
  { inMode 3 with lmp := { dev0.lmp with watch := { dev0.lmp.watch with mode := 1, dflt := List.replicate 8 0, next := next } }, adc := { dev0.adc with configured := true, run := true, mode := 0, listPeriod := 100 } }

/-- Lamplighter: a conversion in progress, sequencers that run, an urgent queue with room and full, self-check codes. -/
theorem witness_Lamplighter : (∀ r, r < 25 → (getRegion dev0 r).hot = 0) ∧ adcSafe (watchDev none) = false
    ∧ (watchDev none).adc.listPeriod ≠ 0 ∧ dev0.adc.cur = none ∧ dev0.adc.urgent.length < 4
    ∧ ({ dev0.adc with cur := some ⟨23, none, 0, 1⟩ } : AdcSt).cur = some ⟨23, none, 0, 1⟩ ∧ dev0.adc.refWait = false
    ∧ (sGet {} dev0.adc.res 23).primed = false
    ∧ (convStart { channel := 0, urgent := none } { watchDev none with adc := { (watchDev none).adc with list := [(0, 0x8000)] } }).adc.cur.map
        (·.ref) = some 1
    ∧ (min 4095 (4 : W16).toNat ≤ 4 ∧ 2040 ≤ min 4095 (2056 : W16).toNat ∧ 4 < min 4095 (5 : W16).toNat) := by decide

/-- WatchProgram: running, branches inside the program and outside, data inside the memory and the I/O window. -/
theorem witness_WatchProgram : WatchReady (watchDev none) ∧ (watchProg (watchDev none).lmp.watch).length = 8
    ∧ (watchDev none).lmp.watch.next = none ∧ (watchDev none).lmp.watch.z = false
    ∧ 0 ≤ ((watchDev none).lmp.watch.pc : Int) + 1 + (6 : BitVec 9).toInt ∧ ((watchDev none).lmp.watch.pc : Int) + 1 + (6 : BitVec 9).toInt < 8
    ∧ ((watchDev none).lmp.watch.pc : Int) + 1 + (-2 : BitVec 9).toInt < 0
    ∧ ((0 : W16) + (0x1F : BitVec 6).signExtend 16).toNat < 512 ∧ 512 ≤ ((0 : W16) + (0x3F : BitVec 6).signExtend 16).toNat
    ∧ watchIo (watchDev none) 0xFFFF = none ∧ watchIo (watchDev none) 0xF060 ≠ none := by
  unfold WatchReady; decide

/-- WatchActions: masks that are latched or not, a domain the program may wake, states in which STBY acts. -/
theorem witness_WatchActions : WatchReady (watchDev none) ∧ (63 : BitVec 12) ≠ 0 ∧ (63 : BitVec 12).toNat < 64 ∧ 64 ≤ (64 : BitVec 12).toNat
    ∧ (1 : BitVec 6) &&& (watchDev none).lmp.watch.latched = 0 ∧ (1 : BitVec 6) &&& (63 : BitVec 6) ≠ 0
    ∧ (getDom (setDom 344 { state := 2 } (watchDev none)) 344).entry = none ∧ 2 ≤ (getDom (watchDev none) 374).state
    ∧ (watchDev none).pwr.halfUntil = none ∧ powerRuns (watchDev none) = true := by
  unfold WatchReady; decide

/-! Management. -/

/-- A request of function 3 in Active, with a tag and nothing else of note. -/
def ctx0 : CtxSt :=
  { tag := 7, state := 4, tenant := 3, cls := 0, drop := false, omitSpecial := false, variant := none, model := 1, gen := 1, prefix_ := none,
    adapter := none, fn := 3, sq := 0, ring := 0, io := 0, toFill := 0, maxTokens := 16, acceptedAt := 0, due := none, ttft := 0, tbt := 0,
    rng := 0, temp := 0, topP := 0, repPen := 0, lenPen := 0, topK := 1, mode := 0, beamWidth := 1, spec := 0, specLen := 0, branches := 1,
    draft := 0, stops := [], stopEnd := false, result := 0, resultLen := 64 }
def withCtx (c : CtxSt) (d : Dev) : Dev := { d with srv := { d.srv with ctxs := sSet d.srv.ctxs 5 c } }

/-- ManagementRecords: full and free command lists, roles, a DATA record that goes on and one that ends a program, a lockout. -/
theorem witness_ManagementRecords : getSess (mgmtDev 0) 1 = some (sess 0) ∧ (sess 0).via_ = none ∧ (sess 2).established = true
    ∧ 16 ≤ ({ sess 0 with cmds := List.replicate 16 { id := 1, code := 3 } } : SessSt).cmds.length ∧ 1 < (sess 2).role
    ∧ (([{ id := 5, code := 0x15, len := 4, got := [1], arg := 1 }] : List PendCmd).find? fun c => c.id = 5 && decide (0 < c.len))
        = some { id := 5, code := 0x15, len := 4, got := [1], arg := 1 }
    ∧ (1 : W64).toNat = ([1] : Bytes).length ∧ 1 + ([0, 0, 0] : Bytes).length = 4 ∧ 1 + ([0, 0] : Bytes).length < 4
    ∧ ({ dev0 with sec := { dev0.sec with lockUntil := some 5 } } : Dev).sec.lockUntil ≠ none ∧ sessionsOpen (mgmtDev 0) = true
    ∧ (mgmtDev 0).sec.lockUntil = none ∧ (mgmtDev 0).sec.sessions.length < 8 ∧ fld ([9, 0xFF] : Bytes) 1 1 = 0xFF
    ∧ zeros (List.replicate 100 0) 2 2 = true ∧ (List.replicate 100 (0 : W8)).length = 100
    ∧ ({ sess 0 with established := false } : SessSt).established = false := by decide +kernel

/-- ManagementCommands: each guard of the statement at a boundary. -/
theorem witness_ManagementCommands : notStarted (mgmtDev 2) 0 = false ∧ 16368 % 4 = 0 ∧ (List.replicate 96 (0 : W8)).length = 96
    ∧ zeros (List.replicate 96 0) 2 94 = true ∧ loadOf (mgmtDev 0) 0 = none
    ∧ getCtx (withCtx ctx0 (mgmtDev 0)) 5 = some ctx0 ∧ isGuest (withCtx ctx0 (mgmtDev 0)) 5 = false ∧ isLead ctx0 = true
    ∧ migrating (withCtx ctx0 (mgmtDev 0)) 5 = false ∧ (9 : Fin 64).val ≠ selfMember (mgmtDev 0)
    ∧ variantOk (List.replicate 16 0) = true ∧ liveCtx (mgmtDev 0) = false ∧ liveCtx (withCtx ctx0 (mgmtDev 0)) = true
    ∧ (getDom (mgmtDev 0) 344).entry = none ∧ 2 ≤ (getDom (mgmtDev 0) 344).state ∧ watchBad [0xFFFF] ≠ none
    ∧ watchBad (List.replicate 3 0) = none ∧ (watchDev none).lmp.watch.mode ≠ 0 ∧ (mgmtDev 0).lmp.watch.mode = 0 := by decide +kernel

theorem witness_ManagementCommands_migrate :
    let d : Dev := { withCtx ctx0 (mgmtDev 1) with fab := { dev0.fab with view := 3 }, cfg := [(0x050300, 2)] }
    inView d 1 = true ∧ (∃ c, getCtx d 5 = some c ∧ c.state = 4) := by decide

/-- TenantSlots: slots that are free and assigned, scrubs at each step, marks of one tenant and of none. -/
def scrubDev (step : Nat) : Dev := { inMode 3 with sec := { dev0.sec with scrubs := [{ slot := 3, step := step, startUs := 0 }], slots := [(3, 2)] } }
theorem witness_TenantSlots : 16 ≤ auditFree (mgmtDev 0) ∧ slotState (mgmtDev 0) 63 = 0 ∧ slotState (scrubDev 1) 3 ≠ 0
    ∧ ({ mgmtDev 0 with sec := { dev0.sec with lifecycle := 1, slots := [(63, 1)] } } : Dev).sec.lifecycle = 1
    ∧ slotState ({ mgmtDev 0 with sec := { dev0.sec with slots := [(63, 1)] } } : Dev) 63 = 1
    ∧ [1, 2, 3, 4, 5, 6].all (fun n => ((scrubDev n).sec.scrubs.find? fun e => e.slot = 3) == some { slot := 3, step := n, startUs := 0 }) = true
    ∧ tenantBusy (scrubDev 1) 3 = false ∧ tenantBusy (withCtx ctx0 (scrubDev 1)) 3 = true ∧ tenantPlanes (scrubDev 4) 3 = []
    ∧ (∀ t ∈ dev0.sec.marks, t = 0) ∧ (∃ t ∈ ([3] : List Nat), t ≠ 0) := by decide

/-- KeysAndAudit: tables that keep an administrator and that do not, room in the ring, debug sessions, the mailbox. -/
def keyTab : Store EnrolEnt := [(0, ⟨[], 0, []⟩), (7, ⟨[], 2, []⟩)]
def dbgDev : Dev :=
  { mgmtDev 1 with sec := { (mgmtDev 1).sec with debugs := [{ num := 4, sid := some 1, level := 2, scope := [uDevice] }], lifecycle := 2 } }
theorem witness_KeysAndAudit : adminLeft (sSet keyTab 7 ⟨[], 1, []⟩) = true ∧ adminLeft (sSet keyTab 0 ⟨[], 1, []⟩) = false
    ∧ sFind keyTab 7 ≠ none ∧ adminLeft (sDel keyTab 7) = true ∧ adminLeft (sDel keyTab 0) = false ∧ sFind keyTab 1 = none
    ∧ 64 ≤ auditFree (mgmtDev 1) ∧ (mgmtDev 1).sec.debugs.length < 4 ∧ ([uDevice, uCore 271] : List W32).all unitOk = true
    ∧ (dbgDev.sec.debugs.find? fun z => z.num = 4).isSome = true ∧ (dbgDev.sec.debugs.find? fun z => z.num = 5) = none
    ∧ 9 < auditFree dbgDev ∧ unitOk 0x1FFFF0C8 = false ∧ unitOk 0x1FFFF0C7 = true ∧ bits (0x1FFFF0C7 : W32).toNat 28 4 = 1
    ∧ readbackFor dbgDev 4 0x1FFFF0C7 ≠ none ∧ readbackFor dbgDev 5 0x1FFFF0C7 = none
    ∧ (getDom (setDom 364 { state := 0 } dbgDev) 364).state < 2 ∧ dbgDev.sec.lifecycle = 2
    ∧ 1000000 ≤ ((1000000 : W64) - dev0.sec.closedUs).toNat ∧ dev0.sec.debugs = [] ∧ dev0.sec.mboxStat ≠ 3
    ∧ fnPresent hostDev 0 = true ∧ ([] : Bytes).length + 8 < 64 ∧ dev0.sec.lifecycle = 0 := by decide +kernel
theorem witness_DebuggedCores_session : MayDebug dbgDev 271 := by unfold MayDebug; decide +kernel

/-- Attestation: a provisioned device, stages below and at what a request needs. -/
theorem witness_Attestation : attests dbgDev = true ∧ attests (mgmtDev 2) = false ∧ (sGet {} dev0.sec.spdm 0).stage < 1
    ∧ 3 ≤ ({ stage := 3 } : SpdmSt).stage ∧ fld ([0x12, 0x84, 0, 0] : Bytes) 1 1 = 0x84 ∧ fld ([0x12, 0xE0, 0, 13] : Bytes) 3 1 ≤ 13
    ∧ fld ([0x12, 0xE0, 0, 0xFF] : Bytes) 3 1 = 0xFF ∧ fld ([0x12, 0x81, 0, 0] : Bytes) 2 1 = 0 := by decide

/-! Arrays, policy, attention. -/

/-- A pass on plane 0 of tile 5 of die 0, for ticket 0 of core 0. -/
def pass0 : PassDesc :=
  { kind := 0, plane := planeKey 0 5 0, pos := 0, mask := 0, codes := [], rows := [], shifts := 0, scale := 0, s := 0, core := 0, ticket := 0, handle := 0,
    rowSeg := 0, slab := 0, cols := 0, residual := false, refire := false }
/-- A call of core 0 with one pass waiting. -/
def call0 : ArrCall :=
  { core := 0, ticket := 0, tenant := 3, key := 0, handle := 0, groups := 1, firstSlab := 0, slabs := 1, dest := 0x10000, status := 0x10100,
    list := [], recs := [], sides := [], resid := [], waiting := [pass0], bufs := [], hub := [], due := [], holds := [], fault := false,
    nonFinite := false, passes := 0, unstaged := false, told := false, sinceUs := 0 }
def withCall (c : ArrCall) (d : Dev) : Dev := { d with arr := { d.arr with calls := [c], planes := [(planeKey 0 5 0, { state := 3 })] } }

def segRef0 : SegRef := { handle := 0, model := 1, gen := 1, tenant := 3, rowSeg := 0, colSlab := 0 }
/-- A handle of one analogue segment on die 15. -/
def oneSlab : HandleEnt := { tenant := 3, state := 1, rowSegs := 1, colSlabs := 1, list0 := [{ loc := planeKey 15 0 0 }] }
/-- ArrayCalls: a call waiting in core 0; its acceptance refused; queues with room and full; a call that is and is not finished. -/
theorem witness_ArrayCalls : ((getCore (withCore (callCore 0x17FFF8 1)) 0).calls.find? fun x => x.ticket == 0) = some ⟨0, []⟩
    ∧ findCall dev0 0 0 = none ∧ acceptCheck dev0 3 (callBytes 0x17FFF8) ≠ 0
    ∧ fullDies dev0 oneSlab 0 1 = [] ∧ needsBuffer dev0 oneSlab 0 1 = false ∧ oneSlab.list0.length = 1
    ∧ needsBuffer (setDie 15 { buffers := 1024 } dev0) oneSlab 0 1 = true ∧ needsBuffer (setDie 15 { buffers := 1023 } dev0) oneSlab 0 1 = false
    ∧ pass0.refire = false ∧ domHolds dev0 (349 + 15) = true ∧ domHolds (setDom 349 { state := 0 } dev0) (349 + pkDie pass0.plane) = false
    ∧ (withCall call0 dev0).arr.calls = [call0] ∧ call0.waiting = [pass0] ∧ call0.unstaged = false
    ∧ firesTraffic (withCall call0 dev0) pass0.plane = true ∧ (getDie dev0 15).trafficQ.length < 8192 ∧ (getDie dev0 15).buffers < 1024
    ∧ (getDie (setDie 15 { stalled := true } dev0) 15).stalled = true ∧ (getDie (setDie 15 { stalled := true } dev0) 15).stallTold = false
    ∧ findCall (withCall call0 dev0) 0 0 = some call0 ∧ callFinished { call0 with waiting := [] } = true ∧ callFinished call0 = false
    ∧ bufReady { call0 with waiting := [] } { die := 0, slab := 0, totals := [], open_ := 0, sent := false } = true := by decide

/-- A traffic queue at its limit. -/
theorem witness_ArrayCalls_full : fullDies (setDie 15 { trafficQ := List.replicate 8192 pass0 } dev0) oneSlab 0 1 = [15]
    ∧ fullDies (setDie 15 { trafficQ := List.replicate 8191 pass0 } dev0) oneSlab 0 1 = [] := by decide +kernel

theorem witness_ArrayCalls_digital :
    takeFirst (fun x : DigitalDue => x.outlier && decide (x.slab = 2)) [⟨0, 0, 2, true, 255, true⟩] = some (⟨0, 0, 2, true, 255, true⟩, [])
    ∧ takeFirst (fun x : DigitalDue => !x.outlier && decide (x.seg = 1)) [⟨0, 1, 0, false, 255, true⟩] = some (⟨0, 1, 0, false, 255, true⟩, [])
    ∧ takeFirst (fun x : HeldSeg => decide (x.seg = 1)) [⟨1, [], some 5⟩] = some (⟨1, [], some 5⟩, [])
    ∧ 5 + 45000 ≤ 45005 ∧ ¬(5 + 45000 ≤ 45004) ∧ 2000 ≤ (2000 : W32).toNat ∧ ¬(2000 ≤ (1999 : W32).toNat)
    ∧ outlierBad {} 2 512 = 0 ∧ ({} : HandleEnt).digBad = [] ∧ ({ call0 with unstaged := true } : ArrCall).told = false := by decide

/-- ArrayPasses: a die that fires its one queued pass, one that is held, a pass that runs, a plane under programming. -/
def dieDev (x : DieSt) : Dev := setDie 0 x (withCall call0 dev0)
def run0 : RunPass := { desc := pass0, corr := {}, tile := {}, comp := [], slot := 0, unlocked := true }
theorem witness_ArrayPasses :
    (let x := getDie (dieDev { lock := true, held := false, share := 1, trafficQ := [pass0] }) 0;
      x.lock = true ∧ x.held = false ∧ x.retired = false ∧ x.checking = false ∧ x.refireQ = [] ∧ x.maintQ = [] ∧ x.maintWait = []
        ∧ x.trafficQ = [pass0] ∧ x.programming = [] ∧ 0 < x.share)
    ∧ firesTraffic (dieDev {}) pass0.plane = true
    ∧ (getDie (dieDev { held := true }) 0).held = true
    ∧ takeFirst (fun r : RunPass => decide (pkTile r.desc.plane = 5)) [run0] = some (run0, [])
    ∧ run0.unlocked = true ∧ run0.desc.refire = false ∧ (getUnit dev0 (uDie 0)).state = 0 ∧ (getUnit dev0 (uDie 0)).times = []
    ∧ (let d := setPlane (planeKey 0 5 0) { state := 1 } dev0;
       planeState d (planeKey 0 5 0) = 1 ∧ (getPlane d (planeKey 0 5 0)).paused = false ∧ (getPlane d (planeKey 0 5 0)).defects = []
       ∧ loadFor d (planeKey 0 5 0) = none ∧ (getDie d 0).compUsed ≤ 4194304) := by decide

/-- Counts of 0 on every pair; a pass of each kind that runs; a call whose entry for it stands, moved, and went digital. -/
def meas0 : PassMeas := { tile := 5, cntP := List.replicate 520 0, cntN := List.replicate 520 0, stuck := [] }
def runOf (kind : Nat) : RunPass := { run0 with desc := { pass0 with kind := kind }, unlocked := false }
theorem meas0_cntP (j : Nat) : meas0.cntP.getD j 0 = 0 := by
  simp only [meas0, List.getD_eq_getElem?_getD, List.getElem?_replicate]
  split <;> rfl
theorem meas0_cntN (j : Nat) : meas0.cntN.getD j 0 = 0 := meas0_cntP j
theorem meas0_diff (j : Nat) : rawDiff {} meas0 j = 0 := by
  have c : ∀ i, colVal {} i 0 = 0 := fun i => by simp [colVal, sGet]
  rw [rawDiff, meas0_cntP, meas0_cntN, c, c, sub_self]
theorem corrected_zero (n k j : Nat) : (corrected n (runOf k) [] meas0).getD j 0 = 0 := by
  have z : ∀ b ∈ corrected n (runOf k) [] meas0, b = 0 := by
    intro b hb
    obtain ⟨j, -, rfl⟩ := List.mem_map.1 hb
    have : rawDiff (runOf k).tile meas0 j = 0 := meas0_diff j
    simp [this, roundStep, compOf]
  rw [List.getD_eq_getElem?_getD]
  cases h : (corrected n (runOf k) [] meas0)[j]? with
  | none => rfl
  | some b => exact z b (List.mem_of_getElem? h)
theorem pilotSums_zero (k : Nat) : pilotSums (runOf k).desc = (0, 0, 0, 0) := by
  have p : ∀ n, pulseOf (runOf k).desc n = 0 := fun n => by simp [pulseOf, driven, runOf, run0, pass0]
  simp only [pilotSums, p]
  simp
theorem pilots_zero (n k : Nat) (q : Nat) : pilotCorr n (runOf k) meas0 q - 256 * pilotIdeal (runOf k).desc q = 0 := by
  have h : rawDiff (runOf k).tile meas0 (512 + q) = 0 := meas0_diff _
  have s : pilotSums (runOf k).desc = (0, 0, 0, 0) := pilotSums_zero k
  have : pilotIdeal (runOf k).desc q = 0 := by
    unfold pilotIdeal; rw [s]; split <;> rfl
  simp [pilotCorr, h, roundStep, this]
theorem firstPair_none (lo hi : Nat) : firstPair lo hi (fun _ => false) = none := by simp [firstPair]
theorem witness_ArrayPasses_causes (n k : Nat) : causesOf n (runOf k) meas0 (corrected n (runOf k) [] meas0) = [] := by
  have : passCauses n (runOf k) meas0 (corrected n (runOf k) [] meas0) = [] := by
    simp [passCauses, -List.getD_eq_getElem?_getD, meas0_cntP, meas0_cntN, corrected_zero, pilots_zero, firstPair_none]
  rw [causesOf, this]
  split <;> rfl
theorem witness_ArrayPasses_results : meas0.tile.val = 5 ∧ (runOf 0).unlocked = false
    ∧ (runOf 0).desc.refire = false ∧ ({ pass0 with refire := true } : PassDesc).kind = 0 ∧ run0.unlocked = true
    ∧ segOf (getHandle dev0 (handleOf call0)) pass0 = 0
    ∧ (let e : MapEnt := { loc := pass0.plane }; ¬(e.digital = true ∨ e.loc ≠ pass0.plane ∨ e.pos ≠ pass0.pos))
    ∧ ({ call0 with list := [{ loc := 5, digital := true }] } : ArrCall).list[0]? = some { loc := 5, digital := true }
    ∧ findCall (withCall call0 dev0) pass0.core pass0.ticket = some call0 := by decide

/-- A program at each of its steps, for a load, and one that reliability takes nothing from. -/
def progDev (n : Nat) : Dev := setPlane (planeKey 0 5 0) { state := if n < 4 then 1 else 2, step := n, segs := [(0, segRef0)] } dev0
theorem witness_ArrayPasses_programs : NoneTaken (progDev 1)
    ∧ [1, 2, 3, 4, 5, 6, 7].all (fun n => decide (planeState (progDev n) (planeKey 0 5 0) = 1 ∨ planeState (progDev n) (planeKey 0 5 0) = 2)
        && decide ((getPlane (progDev n) (planeKey 0 5 0)).step = n) && !(getPlane (progDev n) (planeKey 0 5 0)).paused
        && decide ((getPlane (progDev n) (planeKey 0 5 0)).why = 0) && (loadFor (progDev n) (planeKey 0 5 0)).isNone) = true
    ∧ (progDev 4).arr.refreshes = [] ∧ planFor (progDev 4) (planeKey 0 5 0) = none ∧ (getPlane (progDev 4) (planeKey 0 5 0)).defects = []
    ∧ pauseDue { temp := 341, share := 4, progLimit := 8 } 0 = true ∧ pauseDue { temp := 340, share := 4, progLimit := 8 } 0 = false := by
  unfold NoneTaken; decide

/-- ArrayCare: planes in each state, a refresh at steps 2, 3, 6 and 8, a store plane. -/
def plane0 : PlaneId := { die := 0, tile := 5, plane := 0 }
def careDev (p : PlaneSt) (r : Store Refresh) : Dev := { dev0 with arr := { dev0.arr with planes := [(pidOf plane0, p)], refreshes := r } }
theorem witness_ArrayCare : planeState (careDev { state := 3 } []) (pidOf plane0) = 3 ∧ planeState (careDev { state := 7 } []) (pidOf plane0) = 7
    ∧ (getPlane (careDev { candleDue := true } []) (pidOf plane0)).candleDue = true
    ∧ (getPlane (careDev { scans := [519] } []) (pidOf plane0)).scans.contains 519 = true
    ∧ (careDev { state := 3 } []).arr.refreshes = [] ∧ (getDie (setDie 0 { lock := true } dev0) 0).lock = true
    ∧ [2, 3, 6, 8].all (fun n => (sFind (careDev {} [(pidOf plane0, { step := n, shadow := none, digital := false, carrier := none })]).arr.refreshes (pidOf plane0)).isSome) = true
    ∧ planeState (setPlane (planeKey 0 5 1) { state := 4 } dev0) (planeKey 0 5 1) = 4
    ∧ planeState dev0 (planeKey 0 5 160) = 8 ∧ dev0.pwr.vinLow = false ∧ (([] : Store PlaneSt).map (·.1)).Nodup := by decide

/-- Null passes that may enter the queue and not; three of a set's four readings taken. -/
theorem witness_ArrayCare_null : (getDie dev0 0).retired = false ∧ (getTile dev0 5).retired = false ∧ (getDie dev0 0).checking = false
    ∧ nullPending (getDie dev0 0) 5 = false ∧ nullPending { maintQ := [{ pass0 with kind := 2 }] } 5 = true
    ∧ (getDie dev0 0).maintWait = [] ∧ (getDie dev0 0).maintQ.length ≤ 1020 ∧ (runOf 2).desc.kind = 2
    ∧ (sGet [] ({ nulls := [(5, [[], [], []])] } : DieSt).nulls 5).length = 3 ∧ (runOf 1).desc.kind = 1 ∧ pkDie pass0.plane = 0 := by decide

/-- A check due with its counts: 4 and 16 misses; one whose counts are not there. -/
def candled (n : Nat) : PlaneSt := { state := 3, candleDue := true, candleRes := [(0, List.replicate n 1280000)] }
theorem witness_ArrayCare_candles :
    [4, 16].all (fun n => (((candlePositions (candled n)).map (candleView dev0 (candled n))).map fun m => (missesOf m).length).foldl (· + ·) 0 == n) = true
    ∧ (∀ q ∈ candlePositions (candled 4), sFind (candled 4).candleRes q ≠ none)
    ∧ ¬(∀ q ∈ candlePositions { candled 4 with candleRes := [] }, sFind ({ candled 4 with candleRes := [] } : PlaneSt).candleRes q ≠ none)
    ∧ (candled 0).candleOverdue = 0 ∧ (candlePositions ({} : PlaneSt)).length = 1 := by decide +kernel

/-- A scan that is waited for; the poll finds a refresh due, on the last hour of an age that asks none by itself. -/
def dueDev : Dev := careDev { state := 3, segs := [(0, segRef0)], corr := { flags := 1 } } []
theorem witness_ArrayCare_poll : planeState dueDev (pidOf plane0) = 3 ∧ hasContent (getPlane dueDev (pidOf plane0)) = true
    ∧ dueDev.arr.planes = [(pidOf plane0, getPlane dueDev (pidOf plane0))] ∧ dueDev.arr.refreshes = [] ∧ NoneTaken dueDev
    ∧ (∀ n, n < 16 → (getDie dueDev n).checking = false) ∧ (getPlane dueDev (pidOf plane0)).corr.flags.getLsbD 0 = true
    ∧ (getPlane dueDev (pidOf plane0)).corr.flags.getLsbD 1 = false ∧ ptimeH dueDev < (getPlane dueDev (pidOf plane0)).corr.age + 4320
    ∧ 64 + ({} : PlaneSt).defects.length ≤ 64 ∧ plane0.plane.val < 160 := by unfold NoneTaken; decide

/-- A refresh at step 2 that finds a shadow, at 3 with it verified, at 6 with the plane verified, at 8 with nothing left. -/
def shadowDev : Dev := setPlane (planeKey 0 6 0) { state := 4, segs := [(0, segRef0)] } dueDev
theorem witness_ArrayCare_refresh :
    (shadowDev.arr.planes.find? fun q => decide (q.1 ≠ pidOf plane0) && decide (planeState shadowDev q.1 = 4)
      && q.2.segs == (getPlane shadowDev (pidOf plane0)).segs && !(shadowDev.arr.refreshes.any fun e => e.2.shadow = some q.1))
        = some (planeKey 0 6 0, getPlane shadowDev (planeKey 0 6 0))
    ∧ planeState shadowDev (planeKey 0 6 0) = 4 ∧ progWaits shadowDev (pidOf plane0) = false
    ∧ planeState (careDev { state := 4 } []) (pidOf plane0) = 4
    ∧ progWaits (setDie 0 { progWait := [(0, pidOf plane0)] } dev0) (pidOf plane0) = true := by decide

theorem witness_ArrayCare_store : planeState dev0 (planeKey 0 5 160) = 8 ∧ (48 < (49 : Nat)) ∧ ¬(48 < (48 : Nat))
    ∧ (((List.range 117).map (sparePlane (planeKey 0 5 160) * 128 + ·)).find? fun c =>
        !((storePlanes (planeKey 0 5 160)).flatMap fun q => (getPlane dev0 q).spares.map (·.2)).contains c) = some (planeKey 0 5 199 * 128)
 := by decide +kernel

/-- PolicyPrograms: a program that runs, a layer of a generation with a recipe, holds, queues, aborts. -/
def gen0 : GenSt := { state := 3, owner := 3 }
def lay0 : LayerKey := { model := 1, gen := 1, layer := 0 }
def polDev : Dev :=
  { dev0 with num := { dev0.num with policy := { dev0.num.policy with enable := true, loaded := true }, listed := [(lkOf lay0 * 16, {})] },
              srv := { dev0.srv with adm := { dev0.srv.adm with enable := true, loaded := true } }, plc := { dev0.plc with gens := [(genKey 1 1, gen0)] } }
theorem witness_PolicyPrograms : policyRuns polDev = true ∧ policyRuns dev0 = false ∧ admitRuns polDev = true
    ∧ getGen polDev (keyModel (lkOf lay0)) (keyGen (lkOf lay0)) = some gen0 ∧ recipeOf polDev (lkOf lay0) 0 = some {} ∧ ({} : Recipe).exec ≠ 1
    ∧ recipeOf polDev (lkOf lay0) 15 = none ∧ polDev.num.policy.running = none ∧ recipeOf polDev (lkOf lay0) (currentRecipe polDev (lkOf lay0)) = some {}
    ∧ sFind [(holdKey ⟨0x2013, 0, 0⟩, (⟨0, 0, 0, 0, 0⟩ : NumHold))] (holdKey ⟨0x2013, 0, 0⟩) = some ⟨0, 0, 0, 0, 0⟩
    ∧ (3 = 2 ∨ 3 = 3) ∧ 3 ≤ (recentAborts 5 [4, 3]).length
    ∧ (let d : Dev := withCtx { ctx0 with state := 1 } { polDev with srv := { polDev.srv with adm := { polDev.srv.adm with queue := [{ hook := 3, model := 1, gen := 1, layer := 0, arg := 5 }] } } };
       d.srv.adm.queue = { hook := 3, model := 1, gen := 1, layer := 0, arg := 5 } :: [] ∧ admitRuns d = true ∧ getCtx d 5 = some { ctx0 with state := 1 }) := by decide

/-- Recipe 0 analogue, recipe 1 digital, for a layer of one analogue segment whose tenant has no memory left. -/
def digDev : Dev :=
  { polDev with num := { polDev.num with listed := [(lkOf lay0 * 16, {}), (lkOf lay0 * 16 + 1, { exec := 1 })] },
                plc := { dev0.plc with gens := [(genKey 1 1, { gen0 with handles := [0] })] }, arr := { dev0.arr with handles := [(0, oneSlab)] } }
/-- Switches that are taken, that wait for room, and that a running hook asks for; two refused. -/
theorem witness_PolicyPrograms_switches : (switchVerdict (lkOf lay0) 0 polDev).1 = 0 ∧ (switchVerdict (lkOf lay0) 5 polDev).1 = 2
    ∧ (switchVerdict 0 0 dev0).1 = 2 ∧ layerRoom digDev (lkOf lay0) = false ∧ (recipeNow digDev (lkOf lay0)).exec = 0
    ∧ recipeOf digDev (lkOf lay0) 1 = some { exec := 1 } ∧ (switchVerdict (lkOf lay0) 1 digDev).1 = 1 ∧ digDev.num.policy.running = none
    ∧ digDev.num.policy.asked = [] ∧ (∀ i ∈ layerHandles digDev (lkOf lay0), (curList (getHandle digDev i)).any (·.digital) = false)
    ∧ ({ digDev.num.policy with running := some { hook := 3, model := 1, gen := 1, layer := 0, arg := 5 } } : PolicySt).running.isSome = true := by decide

/-- AttentionCalls: a call that is refused; items of a call in progress; merges in and out of order; page moves and fetches. -/
def att0 : AttCallSt := { core := 0, ticket := 0, ctx := 5, desc := [], pos0 := 0, slices := [(0, 2)] }
def attDev : Dev := { withCtx { ctx0 with pages := [(0, { tier := 2, crc := 0 })] } dev0 with att := { dev0.att with calls := [att0] } }
theorem witness_AttentionCalls : attCheck dev0 (getCore dev0 0) (callBytes 0x17FFF8) ≠ 0 ∧ inSram (fld (callBytes 0x17FFF8) 28 4) 8 = true
    ∧ findAtt attDev 0 0 = some att0 ∧ logicalPipe dev0 16 = none ∧ (logicalPipe dev0 67).isSome = false ∧ (logicalPipe dev0 66).isSome = true
    ∧ sGet 0 att0.slices 0 = 2 ∧ sGet 0 att0.slices 1 ≠ 2
    ∧ takeFirst (fun m : PageMove => m.key == ⟨0, 5, 0, 0⟩) [⟨⟨0, 5, 0, 0⟩, 2⟩] = some (⟨⟨0, 5, 0, 0⟩, 2⟩, [])
    ∧ (getPage attDev ⟨0, 5, 0, 0⟩).isSome = true ∧ moveBlocked attDev ⟨0, 5, 0, 0⟩ = true ∧ moveBlocked (withCtx ctx0 dev0) ⟨0, 5, 0, 0⟩ = false
    ∧ (getPage attDev ⟨0, 5, 0, 0⟩).any (fun e => e.tier = 2 && e.crc = 0) = true ∧ crc32c [] = 0 ∧ crc32c [1] ≠ 0 := by decide

/-- A layer with one head, and a call that appends one row of context 5. -/
def layer0 : LayerInfo := { attKind := 1, mask := 0, window := 0, heads := 1, dh := 32, dl := 32, p := 0, fmt := 0, sigma := 0, params := [] }
def attBytes (kind : W8) : Bytes :=
  toLe 4 5 ++ toLe 2 0 ++ [kind, 0] ++ toLe 2 1 ++ toLe 2 0 ++ toLe 4 (if kind = 2 then 0 else 0x10000) ++ toLe 4 (if kind = 1 then 0 else 0x10000)
    ++ toLe 4 (if kind = 2 then 0 else 0x11000) ++ toLe 4 0 ++ toLe 4 0x10100 ++ List.replicate 32 0
def callDev : Dev :=
  { withCtx ctx0 (withCore { tenant := 3 }) with plc := { dev0.plc with gens := [(genKey 1 1, { gen0 with layers := [layer0] })] } }
theorem witness_AttentionCalls_accepted : attCheck callDev (getCore callDev 0) (attBytes 2) = 0
    ∧ layerOf callDev ctx0 (fld (attBytes 2) 4 2) = some layer0 ∧ attKindOf (attBytes 2) = 2 ∧ attRows (attBytes 2) = 1
    ∧ attReady callDev { att0 with desc := attBytes 1 } = false
    ∧ attReady callDev { att0 with desc := attBytes 1, outs := [(rowHead 0 0, [])] } = true := by decide

/-- A call with a query of its one row and head, the up-projection tile that its layer step reads, and its page in host memory. -/
def tensor0 : Bytes := [7, 1, 0, 0] ++ toLe 4 32 ++ toLe 4 32 ++ toLe 4 0
def att1 : AttCallSt := { att0 with desc := attBytes 1, absorbed := [(rowHead 0 0, ⟨[], [], []⟩)], slices := [] }
def itemDev (a : AttCallSt) : Dev :=
  { withCtx { ctx0 with pages := [(0, { tier := 2, crc := 0 })] } (withCore { tenant := 3 }) with
    plc := { dev0.plc with gens := [(genKey 1 1, { gen0 with layers := [layer0], tensors := [tensor0] })] }, att := { dev0.att with calls := [a] } }
theorem witness_AttentionCalls_items :
    let d := itemDev att1
    let merged := { att1 with slices := [(rowHead 0 0, 1)], leads := [(rowHead 0 0, 3)] }
    findAtt d 0 0 = some att1 ∧ layerOf d ctx0 (fld att1.desc 4 2) = some layer0 ∧ attRows att1.desc = 1 ∧ (0 < layer0.heads)
    ∧ rowSlices d ctx0 layer0 att1 (getCore d 0) 0 = [0] ∧ sFind att1.absorbed (rowHead 0 0) ≠ none
    ∧ (d.att.calls.map fun x => (x.core, x.ticket)).Nodup ∧ att1 ∈ stepCalls d ctx0 0
    ∧ (tileOf { gen0 with layers := [layer0], tensors := [tensor0] } 0 0 0 32 32).isSome = true
    ∧ sGet 3 merged.leads (rowHead 0 0) = 3 ∧ (rowSlices d ctx0 layer0 merged (getCore d 0) 0).length ≤ sGet 0 merged.slices (rowHead 0 0) := by
  decide +kernel

/-- A merge that is due, its partial there, at a lead that is and is not the pipeline named; one of a slice out of turn. -/
theorem witness_AttentionCalls_merges :
    let a := { att1 with parts := [(rowHead 0 0 * 256, ⟨3, emptyTriple layer0⟩)], leads := [(rowHead 0 0, 3)] }
    let d := itemDev a
    (rowSlices d ctx0 layer0 a (getCore d 0) 0)[sGet 0 a.slices (rowHead 0 0)]? = some 0 ∧ sGet 3 a.leads (rowHead 0 0) = 3
    ∧ sGet 4 a.leads (rowHead 0 0) ≠ 4 ∧ (sFind a.parts (rowHead 0 0 * 256 + 0)).isSome = true
    ∧ (rowSlices d ctx0 layer0 a (getCore d 0) 0)[sGet 0 a.slices (rowHead 0 0)]? ≠ some 1 := by decide +kernel

/-- Page moves with a free frame and without one, blocked and not; a fetched page that decrypts to what was parked. -/
theorem witness_AttentionCalls_pages :
    let d := { itemDev att1 with att := dev0.att }
    let pg : PageKey := ⟨0, 5, 0, 0⟩
    moveBlocked d pg = false ∧ frameFor d 0 (pageTenant d pg) (granOf d pg) = some 0 ∧ frameFor d 1 (pageTenant d pg) (granOf d pg) = none
    ∧ (getPage d pg).any (fun e => e.valid && decide (e.tier ≠ 3)) = true ∧ resuming d 5 = false := by decide +kernel
theorem witness_AttentionCalls_fetch (data : Bytes) :
    (Config.parkCipher 3 0).symm (Config.parkCipher 3 0 data) = data := Equiv.symm_apply_apply _ _

/-- A handle of one slab, and a call of tenant 3 on it that is accepted. -/
theorem witness_ArrayCalls_accepted :
    acceptCheck { dev0 with arr := { dev0.arr with handles := [(0, { tenant := 3, state := 1, rowSegs := 1, colSlabs := 1 })] } } 3
      (toLe 4 (3 * 2 ^ 20) ++ toLe 2 1 ++ toLe 2 0 ++ toLe 4 0x10000 ++ toLe 4 0 ++ toLe 4 0 ++ toLe 4 0x12000 ++ toLe 2 0 ++ toLe 2 1 ++ toLe 4 0x10100
        ++ List.replicate 32 0) = 0 := by decide

/-! Models and serving. -/

/-- Command origins: the PF's ring 0 with a good header, and an admitted session. -/
def cmdBytes (sub : W8) : Bytes := [3, sub] ++ List.replicate 126 0
def cmdDev : Dev := setFn 0 { ready := true, sq := [(0, { active := true, enable := true, sizeLog2 := 4, tail := 1 })] } (inMode 3)
theorem witness_Commanded : Commanded (.host 0 0 (cmdBytes 1)) 1 96 cmdDev ∧ Commanded (.host 0 0 (cmdBytes 6)) 6 48 cmdDev
    ∧ Commanded (.mgmt 1 5) 4 38 cmdDev ∧ outstanding cmdDev 0 < 16 := by
  unfold Commanded; decide

/-- ModelCommands: records that are good and bad, generations in each state, a load to cancel and none, hints. -/
def record0 : Bytes := toLe 2 1 ++ toLe 2 1 ++ List.replicate 60 0
def load0 : LoadSt := { origin := .mgmt 1 5, record := record0, model := 1, gen := 1, tenant := 0, startUs := 0 }
def genDev (g : GenSt) : Dev := { cmdDev with plc := { dev0.plc with gens := [(genKey 1 1, g)] } }
theorem witness_ModelCommands : recordOk record0 = true ∧ recordOk [] = false ∧ originFn (.mgmt 1 5) = 0
    ∧ loadOf cmdDev 1 = none ∧ cmdDev.plc.loads.length < 8 ∧ fld record0 5 1 = 0
    ∧ getGen (genDev gen0) 1 1 = some gen0 ∧ foreign (genDev gen0) (.mgmt 1 5) 1 = false ∧ foreign (genDev gen0) (.host 5 0 []) 1 = true
    ∧ pinned (genDev gen0) 1 1 = 0 ∧ pinned (withCtx ctx0 (genDev gen0)) 1 1 ≠ 0 ∧ flagOk (.mgmt 1 5) 36 = true
    ∧ (∃ c ∈ (withCall call0 dev0).arr.calls, ([0] : List Nat).contains (c.handle.toNat % 2 ^ 20) = true)
    ∧ gen0.handles = [] ∧ gen0.keepGolden = false ∧ ({ gen0 with state := 6 } : GenSt).state = 6
    ∧ loadOf { dev0 with plc := { dev0.plc with loads := [load0] } } 1 = some load0 ∧ modelOwner (genDev gen0) 1 = some 3
    ∧ fld ([2, 1] ++ toLe 2 1 ++ toLe 2 1 ++ List.replicate 4 0 ++ [3] ++ List.replicate 5 0) 10 1 = 3 := by decide

/-- ImageLoads: phases of a load, retries left and spent, tables that wait, a drain with a limit. -/
def loadDev (l : LoadSt) : Dev := { dev0 with plc := { dev0.plc with loads := [l] } }
theorem witness_ImageLoads : loadOf (loadDev load0) 1 = some load0 ∧ load0.phase = 1 ∧ headerStatus load0 [] [] dev0 ≠ 0
    ∧ ({ load0 with phase := 2 } : LoadSt).phase = 2 ∧ load0.got.contains 0 = false ∧ sGet 0 load0.tries 0 < 3 ∧ 3 ≤ sGet 0 [(0, 3)] 0
    ∧ load0.notBegun = [] ∧ genIn dev0 1 3 5 = none ∧ shardHeaderOk { load0 with phase := 2 } 0 [] = false ∧ (1000 : W32).toNat ≤ 1000 ∧ 1000 < (1001 : W32).toNat
    ∧ getGen (genDev { gen0 with state := 4 }) 1 1 = some { gen0 with state := 4 } ∧ sGet 0 dev0.plc.drains (genKey 1 1) = 0
    ∧ 0 < sGet 0 [(genKey 1 1, 5)] (genKey 1 1) ∧ 2 ≤ sGet 0 [(0, 2)] 0 ∧ sGet 0 [(0, 1)] 0 = 1 := by decide

/-- Hints: of each kind, one that contradicts another, a die in the mask. -/
def hintOf (kind clear mask : Nat) : Bytes := [BitVec.ofNat 8 kind, BitVec.ofNat 8 clear] ++ toLe 2 1 ++ toLe 2 1 ++ toLe 2 0 ++ toLe 2 mask ++ [3] ++ List.replicate 5 0
theorem witness_ModelCommands_hints : [1, 2, 3, 4].all (fun n => fld (hintOf n 0 0) 0 1 == n && fld (hintOf n 1 0) 1 1 == 1
      && fld (hintOf n 0 0) 8 2 == 0 && fld (hintOf n 0 0) 10 1 == 3 && zeros (hintOf n 0 0) 11 5) = true
    ∧ targetsMeet (hintOf 4 0 0) (hintOf 2 0 0) = true ∧ bitAt (fld (hintOf 1 0 0x8000) 8 2) 15 = true ∧ (getDie dev0 15).retired = false
    ∧ liveLayers dev0 1 = [] := by decide

/-- Placement: plan entries that have not run, with all targets programmed and not. -/
def entry0 : PlanEntry := { kind := 3, handle := 0, segs := [⟨0, 0, planeKey 0 5 0, 0⟩], model := 1, gen := 1, layer := 0, expert := 0 }
theorem witness_Placement : ([{ entry := entry0, copy := some 4 }] : List PlanRun)[0]? = some { entry := entry0, copy := some 4 }
    ∧ entry0.kind.val < 6 ∧ ((targets entry0).all fun p => decide (planeState (withCall call0 dev0) p = 3)) = true
    ∧ ((targets entry0).all fun p => decide (planeState dev0 p = 3)) = false ∧ entry0.segs = [⟨0, 0, planeKey 0 5 0, 0⟩]
    ∧ (getHandle dev0 0).state ≠ 2 := by decide

/-- The plan that an idle device's statistics call for is empty; a segment's list that is the analogue one. -/
theorem witness_Placement_plan : (planDue { dev0 with plc := { dev0.plc with lower := lowerCounts dev0 } }).out = [] := by decide +kernel
theorem witness_Placement_lists : handleAnalog dev0 0 = true ∧ ({ entry := entry0, copy := none } : PlanRun).done = false := by decide

/-- Requests: rings that may fetch and not; opcodes of each kind; a request that is refused; a sailing that overran. -/
def reqBytes (op : W8) : Bytes := [op] ++ List.replicate 127 0
theorem witness_Requests : canFetch cmdDev 0 0 = true ∧ canFetch dev0 0 0 = false ∧ fld (reqBytes 0) 0 1 = 0 ∧ 3 < fld (reqBytes 4) 0 1
    ∧ fld (reqBytes 1) 0 1 = 1 ∧ reqStatus (fetchEntry 0 0 cmdDev) 0 (reqBytes 1) [] true ≠ 0 ∧ headerOk (reqBytes 2) 0 false = true
    ∧ zeros (reqBytes 2) 32 96 = true ∧ headerOk ([2, 1] ++ List.replicate 126 0) 0 false = false
    ∧ ({ dev0.srv.sail with running := true } : SailSt).told = false ∧ dev0.srv.sail.running = false
    ∧ 3 * ({ dev0.srv.sail with target := 20000 } : SailSt).target < 2 * (30001 : W32).toNat
    ∧ 2 * (30000 : W32).toNat ≤ 3 * ({ dev0.srv.sail with target := 20000 } : SailSt).target := by decide

/-- Sailings: a device that serves, one context of a sailing that ends. -/
def sailDev (c : CtxSt) : Dev :=
  { genDev gen0 with srv := { dev0.srv with ctxs := [(5, c)], sail := { dev0.srv.sail with running := true, rows := [⟨5, 1, 0, 1⟩] } },
                     pwr := { dev0.pwr with mode := 3, hold := true } }
theorem witness_Sailings : (sailDev ctx0).pwr.mode = 3 ∧ (sailDev ctx0).pwr.hold = true ∧ (sailDev ctx0).srv.sail.running = true
    ∧ isLead ctx0 = true ∧ ctx0.endWith = none ∧ sGet 0 (sailDev ctx0).sec.slots ctx0.tenant ≠ 2 ∧ servedAway (sailDev ctx0) 5 = false
    ∧ genGone (sailDev ctx0) ctx0 = false ∧ (sailDev ctx0).grid.faulted = [] ∧ (sailDev ctx0).grid.refused = [] ∧ ({ ctx0 with cancelled := true } : CtxSt).cancelled = true
    ∧ ({ ctx0 with state := 3 } : CtxSt).state = 3 ∧ ctx0.generated + 1 < ctx0.maxTokens ∧ bits ctx0.io.toNat 2 2 = 0
    ∧ ctx0.idsUsed + 4 ≤ ctx0.resultLen ∧ (sailDev ctx0).srv.sail.rows = [⟨5, 1, 0, 1⟩] ∧ (sailDev ctx0).rel.marks = [] := by decide

/-- A request of four token bytes for model 1 with a seed, which every check of R245 lets through. -/
def goodReq : Bytes :=
  [1, 0, 0, 0] ++ toLe 4 9 ++ toLe 8 0 ++ toLe 4 4 ++ toLe 4 64 ++ toLe 8 0 ++ toLe 2 0 ++ toLe 2 1 ++ List.replicate 4 0 ++ [0, 0, 0, 0]
    ++ List.replicate 8 0 ++ toLe 4 1 ++ List.replicate 8 0 ++ toLe 4 0x3F800000 ++ toLe 4 0 ++ toLe 8 5 ++ List.replicate 48 0
def reqDev : Dev :=
  { cmdDev with plc := { dev0.plc with gens := [(genKey 1 1, { gen0 with owner := 0 })], models := [(1, { state := 1 })] } }
theorem witness_Requests_accepted : goodReq.length = 128 ∧ reqStatus (fetchEntry 0 0 reqDev) 0 goodReq [0, 0, 0, 0] true = 0
    ∧ (reqObjs (fetchEntry 0 0 reqDev) 0 goodReq).isSome = true ∧ fld goodReq 72 8 ≠ 0 ∧ rMode goodReq ≠ 2 ∧ rSpec goodReq ≠ 1
    ∧ reqDev.srv.adm.queue.length < 4096 ∧ getCtx reqDev 0 = none := by decide +kernel

/-! The fabric. -/

def withPort (x : PortSt) : Dev := setPort 0 x dev0
/-- A good frame of a type on a lane, with a payload. -/
def frameOf (type vl : Nat) (b : Bytes) : Frame := withCrc (mkHdr type vl true b.length 0 1 0 0 0 0 1 []) b

/-- FabricLinks: link frames on a port in Up; a bad CRC; queues empty and not, resends left and spent; the spare that carries. -/
theorem witness_FabricLinks : LinkFrame 0 0x01 (frameOf 0x01 7 []) (withPort { state := 3 }) ∧ LinkFrame 0 0x03 (frameOf 0x03 7 []) (withPort { state := 2 })
    ∧ crcGood { frameOf 0x01 7 [] with crc := 0 } = false ∧ stateCarries 3 0x10 = true ∧ stateCarries 0 0x02 = false
    ∧ fType (frameOf 0x11 0 [1]) = 0x11 ∧ fLen (frameOf 0x11 0 [1]) = 1 ∧ fSeq (frameOf 0x11 0 [1]) = 0 ∧ (getPort dev0 0).rxNext = 0
    ∧ (getPort dev0 0).txQ = [] ∧ (getPort (withPort { txQ := [noFrame], resends := 15 }) 0).resends < 16
    ∧ 16 ≤ (getPort (withPort { txQ := [noFrame], resends := 16 }) 0).resends ∧ (getPort (withPort { unacked := 1 }) 0).unacked = 1
    ∧ (getPort (withPort { state := 1 }) 0).state = 1 ∧ unitRetired dev0 (uPort 0) = false := by
  unfold LinkFrame; decide +kernel

/-- FabricMessages: each kind of message held, joins that disagree, transfers, ferries, staged shards. -/
def msgDev (f : Frame) : Dev := { withPort { state := 3 } with fab := { (withPort { state := 3 }).fab with accepted := [(0, f)] } }
def ferry0 : FerrySt := { id := 9, dst := 1, key := lay0, expert := 0, tenant := 0, tokens := [(5, 0)], body := [], failures := [3] }
theorem witness_FabricMessages : Holds 0 0x14 (frameOf 0x14 0 []) (msgDev (frameOf 0x14 0 []))
    ∧ joinReason 0 (List.replicate 112 0xFF) (withPort { state := 2 }) ≠ none ∧ (List.replicate 112 (0 : W8)).length = 112
    ∧ backed dev0 0 = none ∧ ({ gen0 with state := 2, flotilla := true } : GenSt).flotilla = true
    ∧ admitsGuest [] dev0 = false ∧ admitsGuest [{ ctx0 with adapter := none }] (genDev gen0) = true ∧ getCtx dev0 0 = none
    ∧ (([{ ctx := 5, target := 1 }] : List MigrSt).find? fun z => z.ctx = 5 && z.target = 1 && !z.admitted) = some { ctx := 5, target := 1 }
    ∧ guestFor 1 5 { dev0 with fab := { dev0.fab with guests := [(8, 1 * 2 ^ 32 + 5)] } } = some 8
    ∧ (([ferry0] : List FerrySt).find? fun z => z.id = 9 && z.dst = 1) = some ferry0 ∧ ferry0.failures = [3] ∧ ferry0.tokens = [(5, 0)]
    ∧ standalone dev0 = true ∧ fSpec (frameOf 0x40 6 []) 24 4 ≠ 0xFFFFFFFF ∧ nextJob dev0 = none := by
  unfold Holds; decide +kernel
theorem witness_FabricMessages_plan : standalone { dev0 with cfg := [(0x050100, 2)] } = false := by decide

/-! Reliability. -/

/-- A cross-check of cores 0 and 68 that waits for its arbiter, core 136. -/
def xchk0 : Xchk := { a := 0, b := 68, seed := 0, digests := some (1, 2), arbiter := some 136 }
theorem witness_UnitHealth : dev0.rel.xchk = none ∧ xchkable dev0 0 = true ∧ xchkable dev0 68 = true ∧ unitKind 0 = unitKind 68
    ∧ unitQuadrant 0 ≠ unitQuadrant 68 ∧ unitQuadrant 136 ≠ unitQuadrant 0 ∧ unitQuadrant 136 ≠ unitQuadrant 68
    ∧ xchkable dev0 (uCp 0) = false ∧ unitQuadrant 67 = unitQuadrant 0 ∧ xchk0.digests = some (1, 2) ∧ (1 : W32) ≠ 2
    ∧ xchk0.a ≠ xchk0.b ∧ (getUnit dev0 0).state = 0 ∧ (getUnit dev0 0).times = []
    ∧ sFind ([(7, 2)] : Store Nat) 7 = some 2 ∧ ([(7, 2)] : Store Nat).length < 8
    ∧ 8 ≤ ((List.range 8).map fun i => (i, 1)).length ∧ (getUnit (setUnit 0 { state := 1 } dev0) 0).state = 1
    ∧ [uHbm 127, uDie 15, uPipe 67, uCp 7, uCore 271].all unitOk = true ∧ unitOk (uDie 15 + 1) = false ∧ unitOk 0xE0000000 = false
    ∧ unitKind (uHbm 127) = 4 ∧ unitKind (uDie 15) = 2 ∧ unitKind (uPipe 67) = 3 ∧ unitKind (uCp 7) = 6
    ∧ 63 + 1 ≤ 64 ∧ 64 < 64 + 1 ∧ dev0.pwr.vinLow = false ∧ (getSector dev0 0).recs.length < 2046 ∧ dev0.rel.detections = [] := by decide

/-! The queue and reset. -/

/-- IdleStep: no VSTBY, standby, serving with the control processors' domain Off and running. -/
theorem witness_IdleStep : State.reset.pending = [] ∧ State.reset.dev.pwr.mode = 0 ∧ (inMode 1).pwr.mode = 1 ∧ (inMode 3).pwr.mode ≠ 0
    ∧ (getDom (inMode 3) 344).state = 4 ∧ (getDom runDev 344).state ≠ 4 := by decide

/-- StepKeepsWellFormedQueue and StepRunsFront: a waiting command that is well-formed. -/
theorem witness_StepKeepsWellFormedQueue : (Instr.regReadLowHalf 0 true ⟨8, true⟩).wf = true := by decide

/-- CoreMemoryKept and CoreWordsRoundTrip: the memories of a reset device are canonical, and nop is a core instruction. -/
theorem witness_CoreMemoryKept : MemoryKept State.reset.dev ∧ coreOf (.nop 271 form0) = some 271 := by
  refine ⟨⟨by decide, fun k => ?_⟩, by decide⟩
  show sWf 0 (getCore {} k).sram = true
  rfl

end Sys2Proof.Tests
end

section
/-! PROOFS. The block shift (R49). -/

namespace Sys2Proof.Proofs
open Sys2Proof.Machine

/-- R48: what lies below the saturation level does not saturate. -/
@[simp] theorem f32Ge_eq_false_iff (a b : Nat) : f32Ge a b = false ↔ a < b := by
  simp [f32Ge]

/-- All that the choice of a shift can do: it tries the shifts from 3 down, and takes 0 without a test. -/
theorem blockShift_cases (scale amax : Nat) :
    let fits := fun m : Nat => amax < satLevel (unit32 scale m)
    (blockShift scale amax = 3 ∧ fits 3)
    ∨ (blockShift scale amax = 2 ∧ ¬fits 3 ∧ fits 2)
    ∨ (blockShift scale amax = 1 ∧ ¬fits 3 ∧ ¬fits 2 ∧ fits 1)
    ∨ (blockShift scale amax = 0 ∧ ¬fits 3 ∧ ¬fits 2 ∧ ¬fits 1) := by
  simp only [blockShift, Bool.not_eq_true', f32Ge_eq_false_iff]
  split
  next h3 => exact .inl ⟨rfl, h3⟩
  next h3 =>
    split
    next h2 => exact .inr (.inl ⟨rfl, h3, h2⟩)
    next h2 =>
      split
      next h1 => exact .inr (.inr (.inl ⟨rfl, h3, h2, h1⟩))
      next h1 => exact .inr (.inr (.inr ⟨rfl, h3, h2, h1⟩))

theorem blockShift_le_three (scale amax : Nat) : blockShift scale amax ≤ 3 := by
  obtain ⟨h, -⟩ | ⟨h, -⟩ | ⟨h, -⟩ | ⟨h, -⟩ := blockShift_cases scale amax <;> omega

/-- A shift above the chosen one was tried before it and failed. -/
theorem saturates_of_blockShift_lt {scale amax m : Nat} (hlt : blockShift scale amax < m) (hm : m ≤ 3) :
    ¬ amax < satLevel (unit32 scale m) := by
  obtain ⟨h, -⟩ | ⟨h, h3, -⟩ | ⟨h, h3, h2, -⟩ | ⟨h, h3, h2, h1⟩ := blockShift_cases scale amax
  · omega
  · obtain rfl : m = 3 := by omega
    exact h3
  · obtain rfl | rfl : m = 2 ∨ m = 3 := by omega
    exacts [h2, h3]
  · obtain rfl | rfl | rfl : m = 1 ∨ m = 2 ∨ m = 3 := by omega
    exacts [h1, h2, h3]

/-- Any chosen shift but 0 has passed its test. -/
theorem fits_of_blockShift_pos {scale amax : Nat} (hpos : 0 < blockShift scale amax) :
    amax < satLevel (unit32 scale (blockShift scale amax)) := by
  obtain ⟨h, h3⟩ | ⟨h, -, h2⟩ | ⟨h, -, -, h1⟩ | ⟨h, -⟩ := blockShift_cases scale amax
  · rwa [h]
  · rwa [h]
  · rwa [h]
  · omega

/-- Under each of the 126 positive E4M3 codes (R37), taken by exponent and mantissa field, the level of the largest
shift is above 0: even 7.5 × 2⁻⁹ × 2⁻³ is far inside FP32's range. -/
theorem satLevel_unit32_three_pos {scale : Nat} (hpos : 1 ≤ scale) (hle : scale ≤ 0x7E) :
    0 < satLevel (unit32 scale 3) := by
  have hcodes : ∀ ex < 16, ∀ man < 8, 1 ≤ 8 * ex + man → 8 * ex + man ≤ 0x7E →
      0 < satLevel (unit32 (8 * ex + man) 3) := by decide
  have hfields : 8 * (scale / 8) + scale % 8 = scale := Nat.div_add_mod scale 8
  have hscale := hcodes (scale / 8) (by omega) (scale % 8) (by omega)
  rw [hfields] at hscale
  exact hscale hpos hle

/-- R49: a block without a non-zero magnitude takes the largest shift. -/
theorem blockShift_zero {scale : Nat} (hpos : 1 ≤ scale) (hle : scale ≤ 0x7E) : blockShift scale 0 = 3 :=
  (blockShift_le_three scale 0).eq_of_not_lt fun hlt =>
    saturates_of_blockShift_lt hlt le_rfl (satLevel_unit32_three_pos hpos hle)

/-- Settles O15: every shift above the chosen one was tried and saturates, and the chosen one fits unless it is the 0
that is left over. -/
theorem blockShift : Obligations.BlockShift := by
  intro scale amax hpos hle fits
  have maximal : ∀ m, m ≤ 3 → fits m → m ≤ Machine.blockShift scale amax := fun m hm hfits =>
    Nat.le_of_not_lt fun hlt => saturates_of_blockShift_lt hlt hm hfits
  refine ⟨blockShift_le_three scale amax, maximal, ?fits, ?allSaturate, ?zeroBlock⟩
  case fits =>
    rintro ⟨m, hm, hfits⟩
    obtain h0 | h0 := Nat.eq_zero_or_pos (Machine.blockShift scale amax)
    · have hle0 : m ≤ 0 := h0 ▸ maximal m hm hfits
      obtain rfl : m = 0 := Nat.le_zero.mp hle0
      rwa [h0]
    · exact fits_of_blockShift_pos h0
  case allSaturate =>
    intro hsat
    by_contra hne
    exact hsat _ (blockShift_le_three scale amax) (fits_of_blockShift_pos (Nat.pos_of_ne_zero hne))
  case zeroBlock =>
    rintro rfl
    exact blockShift_zero hpos hle

end Sys2Proof.Proofs
end

section
/-! PROOFS. Array-call tickets (R461). -/

namespace Sys2Proof.Proofs
open Sys2Proof.Machine

/-! Where only one core changes. -/

theorem onlyCore_refl (k : Nat) (d : Dev) : OnlyCore k d d := ⟨fun _ _ => rfl, rfl⟩

theorem onlyCore_modCore (k : Nat) (g : CoreSt → CoreSt) (d : Dev) : OnlyCore k d (modCore k g d) :=
  ⟨fun _ hj => getCore_modCore_ne _ _ _ _ hj, rfl⟩

theorem onlyCore_trans {k : Nat} {d d1 d2 : Dev} (h1 : OnlyCore k d d1) (h2 : OnlyCore k d1 d2) : OnlyCore k d d2 := by
  obtain ⟨hother1, hrest1⟩ := h1
  obtain ⟨hother2, hrest2⟩ := h2
  refine ⟨fun j hj => (hother2 j hj).trans (hother1 j hj), hrest2.trans ?_⟩
  conv_lhs => rw [hrest1]

/-! What a ready instruction of the R format does to the whole state, by the way its body ends. -/

section
variable {k : CoreIx} {f : RForm} {i : Instr} {legal : Bool} {body : CoreSt → Dev → CoreRes} {s : State}

/-- A body that ends with an effect g on its own core alone, which leaves the program counter and the stepping bit: the
core goes on behind the instruction. -/
theorem coreGives_of_done {g : CoreSt → CoreSt} {d : Dev} (he : exec i s = run (coreR k f legal body) s)
    (h : GuardedReady s.dev k f) (hl : legal = true) (hb : body (getCore s.dev k) s.dev = .done d)
    (hcore : getCore d k = g (getCore s.dev k)) (honly : OnlyCore k s.dev d)
    (hpc : (g (getCore s.dev k)).pc = (getCore s.dev k).pc)
    (hstep : (g (getCore s.dev k)).stepping = (getCore s.dev k).stepping) : CoreGives i k 4 g s := by
  obtain ⟨hready, hguard⟩ := h
  have hnotStepping : (getCore d k).stepping = false := by
    obtain ⟨_, _, _, hs, _, _⟩ := hready
    rw [hcore, hstep, hs]
  refine ⟨coreNext k ((getCore s.dev k).pc.toNat + 4) d, ?answer, ?core, onlyCore_trans honly (onlyCore_modCore k _ d)⟩
  case answer => rw [he, run, coreR, coreRun_done hready hl hguard hb hnotStepping]
  case core => rw [getCore_coreNext, hcore, moved, hpc]

/-- A body that does nothing: the core alone goes on. -/
theorem coreGives_of_unchanged (he : exec i s = run (coreR k f legal body) s) (h : GuardedReady s.dev k f)
    (hl : legal = true) (hb : body (getCore s.dev k) s.dev = .done s.dev) : CoreGives i k 4 (fun c => c) s :=
  coreGives_of_done he h hl hb rfl (onlyCore_refl k s.dev) rfl rfl

/-- A body that writes a predicate register. -/
theorem coreGives_of_wp {n : Nat} {v : W32} (he : exec i s = run (coreR k f legal body) s) (h : GuardedReady s.dev k f)
    (hl : legal = true) (hb : body (getCore s.dev k) s.dev = onCore k (wp n v) s.dev) : CoreGives i k 4 (wp n v) s :=
  coreGives_of_done he h hl hb (getCore_modCore ..) (onlyCore_modCore ..) (wp_pc ..) (wp_stepping ..)

theorem coreFaults_of_fault {code : W8} {addr : Nat} (he : exec i s = run (coreR k f legal body) s)
    (h : GuardedReady s.dev k f) (hl : legal = true) (hb : body (getCore s.dev k) s.dev = .fault code addr) :
    CoreFaults i k code addr s := by
  rw [CoreFaults, he, run, coreR, coreRun_fault h.1 hl h.2 hb]

theorem coreStalls_of_stall {cause : BitVec 3} (he : exec i s = run (coreR k f legal body) s)
    (h : GuardedReady s.dev k f) (hl : legal = true) (hb : body (getCore s.dev k) s.dev = .stall cause) :
    CoreStalls i k cause s := by
  rw [CoreStalls, he, run, coreR, coreRun_stall h.1 hl h.2 hb]
  rfl

end

/-! A ticket, and the two instructions that judge it. -/

/-- The distance (N − t) mod 2³² of a ticket from the next one (R461). -/
def ticketDist (c : CoreSt) (t : W32) : Nat := (c.nextTicket.toNat + 2 ^ 32 - t.toNat) % 2 ^ 32

theorem toNat_nextTicket_sub (c : CoreSt) (t : W32) : (c.nextTicket - t).toNat = ticketDist c t := by
  have ht := t.isLt
  rw [BitVec.toNat_sub, ticketDist]
  congr 1
  omega

theorem ticketIssued_iff (c : CoreSt) (t : W32) : ticketIssued c t = true ↔ 1 ≤ ticketDist c t ∧ ticketDist c t ≤ 2 ^ 31 := by
  rw [ticketIssued, toNat_nextTicket_sub, decide_eq_true_iff]

theorem ticketIssued_eq_false_iff (c : CoreSt) (t : W32) :
    ticketIssued c t = false ↔ ticketDist c t = 0 ∨ 2 ^ 31 < ticketDist c t := by
  rw [← Bool.not_eq_true, ticketIssued_iff]
  omega

theorem ticketDone_iff (c : CoreSt) (t : W32) : ticketDone c t = true ↔ ∀ x ∈ c.calls, x.ticket ≠ t := by
  simp [ticketDone]

theorem ticketDone_eq_false_iff (c : CoreSt) (t : W32) : ticketDone c t = false ↔ ¬∀ x ∈ c.calls, x.ticket ≠ t := by
  rw [← ticketDone_iff, Bool.not_eq_true]

/-- What await does with a ticket. -/
def awaitBody (f : RForm) (c : CoreSt) (d : Dev) : CoreRes :=
  let t := (rs c f.a).truncate 32
  if !ticketIssued c t then .fault 1 0 else if ticketDone c t then .done d else .stall 3

/-- What atest does with a ticket. -/
def atestBody (k : CoreIx) (f : RForm) (c : CoreSt) (d : Dev) : CoreRes :=
  let t := (rs c f.a).truncate 32
  if !ticketIssued c t then .fault 1 0 else onCore k (wp f.mod (if ticketDone c t then 1 else 0)) d

theorem exec_await (k : CoreIx) (f : RForm) (s : State) : exec (.await k f) s =
    run (coreR k f (decide (f.d.val = 0 ∧ f.b.val = 0 ∧ f.mod.val = 0)) (awaitBody f)) s := rfl

theorem exec_atest (k : CoreIx) (f : RForm) (s : State) : exec (.atest k f) s =
    run (coreR k f (decide (f.d.val = 0 ∧ f.b.val = 0)) (atestBody k f)) s := rfl

section
variable {k : CoreIx} {f : RForm} {s : State}

/-- The unused fields of await are 0 (R165). -/
theorem await_legal (hd : f.d = 0) (hb : f.b = 0) (hm : f.mod = 0) :
    decide (f.d.val = 0 ∧ f.b.val = 0 ∧ f.mod.val = 0) = true := by simp [hd, hb, hm]

/-- The unused fields of atest are 0 (R165). -/
theorem atest_legal (hd : f.d = 0) (hb : f.b = 0) : decide (f.d.val = 0 ∧ f.b.val = 0) = true := by simp [hd, hb]

theorem await_of_done (h : GuardedReady s.dev k f) (hd : f.d = 0) (hb : f.b = 0) (hm : f.mod = 0)
    (hi : ticketIssued (getCore s.dev k) ((rs (getCore s.dev k) f.a).truncate 32) = true)
    (hdone : ticketDone (getCore s.dev k) ((rs (getCore s.dev k) f.a).truncate 32) = true) :
    CoreGives (.await k f) k 4 (fun c => c) s :=
  coreGives_of_unchanged (exec_await k f s) h (await_legal hd hb hm) (by simp [awaitBody, hi, hdone])

theorem await_of_outstanding (h : GuardedReady s.dev k f) (hd : f.d = 0) (hb : f.b = 0) (hm : f.mod = 0)
    (hi : ticketIssued (getCore s.dev k) ((rs (getCore s.dev k) f.a).truncate 32) = true)
    (hout : ticketDone (getCore s.dev k) ((rs (getCore s.dev k) f.a).truncate 32) = false) :
    CoreStalls (.await k f) k 3 s :=
  coreStalls_of_stall (exec_await k f s) h (await_legal hd hb hm) (by simp [awaitBody, hi, hout])

theorem await_of_not_issued (h : GuardedReady s.dev k f) (hd : f.d = 0) (hb : f.b = 0) (hm : f.mod = 0)
    (hi : ticketIssued (getCore s.dev k) ((rs (getCore s.dev k) f.a).truncate 32) = false) :
    CoreFaults (.await k f) k 1 0 s :=
  coreFaults_of_fault (exec_await k f s) h (await_legal hd hb hm) (by simp [awaitBody, hi])

theorem atest_of_issued (h : GuardedReady s.dev k f) (hd : f.d = 0) (hb : f.b = 0)
    (hi : ticketIssued (getCore s.dev k) ((rs (getCore s.dev k) f.a).truncate 32) = true) :
    CoreGives (.atest k f) k 4
      (wp f.mod (if ticketDone (getCore s.dev k) ((rs (getCore s.dev k) f.a).truncate 32) then 1 else 0)) s :=
  coreGives_of_wp (exec_atest k f s) h (atest_legal hd hb) (by simp [atestBody, hi])

theorem atest_of_not_issued (h : GuardedReady s.dev k f) (hd : f.d = 0) (hb : f.b = 0)
    (hi : ticketIssued (getCore s.dev k) ((rs (getCore s.dev k) f.a).truncate 32) = false) :
    CoreFaults (.atest k f) k 1 0 s :=
  coreFaults_of_fault (exec_atest k f s) h (atest_legal hd hb) (by simp [atestBody, hi])

end

/-! A dispatch. -/

theorem exec_kernelDispatch_awake {k : CoreIx} {s : State} (tenant : FnIx) (entry base : BitVec 22) (arg : W32)
    (code : Bytes) (job : KernelJob) (hawake : domHolds s.dev k = false) :
    exec (.kernelDispatch k tenant entry arg base code job) s =
      .next { s with dev := dispatch k tenant entry arg base.toNat code job s.dev } := by
  show execKernelDispatch k tenant entry arg base code job s = _
  simp [execKernelDispatch, run, hawake]

/-- A core that can take a kernel starts it with no ticket given and no DMA queue listed. -/
theorem getCore_dispatch_counts {k base : Nat} {code : Bytes} {d : Dev} (tenant : Nat) (entry : BitVec 22) (arg : W32)
    (job : KernelJob) (hret : coreRetired d k = false) (hst : (getCore d k).state = 0) (hcalls : (getCore d k).calls = [])
    (hdma : ∀ q ∈ (getCore d k).dma, q.2.ents = []) (hcode : inSram base code.length = true) :
    (getCore (dispatch k tenant entry arg base code job d) k).nextTicket = 0
      ∧ (getCore (dispatch k tenant entry arg base code job d) k).dma = [] := by
  have hidle : ((getCore d k).dma.any fun q => !q.2.ents.isEmpty) = false :=
    List.any_eq_false.mpr fun q hq => by simp [hdma q hq]
  have htaken : ¬(coreRetired d k = true ∨ (getCore d k).state = 1 ∨ (getCore d k).state = 2
      ∨ (!(getCore d k).calls.isEmpty) = true ∨ ((getCore d k).dma.any fun q => !q.2.ents.isEmpty) = true
      ∨ (!inSram base code.length) = true) := by
    simp [hret, hst, hcalls, hidle, hcode]
  simp only [dispatch, if_neg htaken, getCore_setCore, and_self]

theorem getQ_count_of_dma_nil {c : CoreSt} (h : c.dma = []) (q : Nat) : (getQ c q).count = 0 := by
  simp [getQ, h, sGet]

/-- Settles O21: the distance of a ticket decides whether it was issued, and its absence from the outstanding calls
whether it is done. -/
theorem ticketWaits : Obligations.TicketWaits := by
  refine ⟨fun k f s h hd hb => ?judged, ?restarted⟩
  case judged =>
    intro c t n isDone
    refine ⟨fun h1 h2 => ?issued, fun hn => ?notIssued⟩
    case issued =>
      have hi : ticketIssued c t = true := (ticketIssued_iff c t).mpr ⟨h1, h2⟩
      have htest := atest_of_issued h hd hb hi
      have hdone : isDone → ticketDone c t = true := (ticketDone_iff c t).mpr
      have hout : ¬isDone → ticketDone c t = false := (ticketDone_eq_false_iff c t).mpr
      refine ⟨fun hm hx => ?_, fun hm hx => ?_, fun hx => ?_, fun hx => ?_⟩
      · exact await_of_done h hd hb hm hi (hdone hx)
      · exact await_of_outstanding h hd hb hm hi (hout hx)
      · rwa [hdone hx] at htest
      · rwa [hout hx] at htest
    case notIssued =>
      have hi : ticketIssued c t = false := (ticketIssued_eq_false_iff c t).mpr hn
      exact ⟨fun hm => await_of_not_issued h hd hb hm hi, atest_of_not_issued h hd hb hi⟩
  case restarted =>
    intro k tenant entry base arg code job s hawake hret hst hcalls hdma hcode
    obtain ⟨hticket, hqueues⟩ := getCore_dispatch_counts tenant entry arg job hret hst hcalls hdma hcode
    exact ⟨_, exec_kernelDispatch_awake tenant entry base arg code job hawake, hticket, getQ_count_of_dma_nil hqueues⟩

end Sys2Proof.Proofs
end
